-- ==== Sys2Proof/Word.lean ====
section
/-! DEFINITION. The words of the Dolmant 2416: what the spec treats as bits (bytes on lines, links and the flash,
wrapping revisions and seconds, the alignment word). -/

namespace Sys2Proof

/-- One byte on a line, a link or an image page. -/
abbrev Byte := BitVec 8

/-- Two bytes: a bank's revision (R57), a page check (R175), the status word (R162). -/
abbrev Half := BitVec 16

/-- Four bytes: the site seconds (R17), the alignment word (R3). -/
abbrev Word := BitVec 32

end Sys2Proof
end

