-- ==== Sys2Proof/Config.lean ====
section
/-! DEFINITION. What the spec leaves to the world or to one installation: free values (constants with no body, so that
no proof can see them) and the marked choices that are plain numbers. -/

namespace Sys2Proof

/-- R168: where one event raises notices of two blocks, "either may be first, and the world decides which". The free
choice at one place of one merge: of the event numbered first, at the merge numbered second, at the place numbered
third, true takes the next notice of the first list. Log entry 6. -/
opaque Config.firstListNext : Nat → Nat → Nat → Bool

/-- R140: an expiry and a raw condition change of the same side at one boundary "may come together" and either may be
taken first. At the window end numbered first, true counts the timers of the group numbered second before the window
end's condition changes. Log entry 8. -/
opaque Config.expiryFirst : Nat → Nat → Bool

/-- R176: "A page write that is cut off leaves that page of the flash as the cut left it." The byte that the cut
numbered first leaves at the offset numbered second of the page; R179 bounds what it leaves in page 0. Log entry 10. -/
opaque Config.cutByte : Nat → Nat → Byte

/-- What a byte of the flash that nothing has written holds. PRESUMED (FFh, as erased flash devices read); the spec
says only that an erased flash holds no format mark. Log entry 9. -/
def Config.erasedByte : Byte := 0xFF#8

end Sys2Proof
end

