-- ==== Sys2Proof/Syntax.lean ====
section
/-! DEFINITION. The commands of the block: one constructor of `Instr` for each row of spec/opcode_table.json, with the
operand types they carry. -/

namespace Sys2Proof

/-- A line, numbered as in file 01: F0 to F15 are 0 to 15, East is 16, West is 17. -/
abbrev LineNo := Fin 18

/-- A protection group, 0 to 255. -/
abbrev GroupNo := Fin 256

/-- One of the two control links (file 09). -/
inductive Link where
  | a
  | b
deriving DecidableEq, Repr

/-- A side of a protection group (R129). -/
inductive Side where
  | working
  | protect
deriving DecidableEq, Repr

/-- One slot of a received line frame (R6): control byte, overhead byte, 65 payload positions. -/
structure RxSlot where
  control  : Byte
  overhead : Byte
  payload  : List Byte
deriving DecidableEq, Repr

/-- Which event of the Core Timebase produces a core frame boundary (R16). -/
inductive BoundaryCause where
  /-- a frame mark, at this time in nanoseconds since reset ended -/
  | mark (time : Nat)
  /-- the internal oscillator, while the reference is absent -/
  | oscillator
  /-- the loss of the reference, 375 microseconds after the last boundary -/
  | lost
deriving DecidableEq, Repr

/-- What a page read attempt returns on the flash line (R178). -/
inductive PageRead where
  /-- the bytes the flash holds -/
  | stored
  /-- these 256 bytes (a page that reads badly, or a flash written elsewhere) -/
  | received (bytes : List Byte)
deriving DecidableEq, Repr

/-- The parts of a write transfer (R156, R157). -/
inductive WritePart where
  /-- bytes received: the first part follows the fall of select and the type byte 01h -/
  | shift (bytes : List Byte)
  /-- select rises: the frame arrives -/
  | rise
  /-- the whole transfer in one event: select falls, 01h, these bytes, select rises -/
  | whole (bytes : List Byte)
deriving DecidableEq, Repr

/-- The parts of a read transfer (R156, R160). -/
inductive ReadPart where
  /-- the fall of select and the type byte 02h -/
  | start
  /-- so many further bytes are clocked -/
  | shift (count : Nat)
  /-- select rises -/
  | rise
  /-- the whole transfer in one event, with so many bytes after the first -/
  | whole (count : Nat)
deriving DecidableEq, Repr

/-- The parts of a skipped transfer (R156, R166). -/
inductive SkipPart where
  /-- the fall of select and a first byte that names no transfer type -/
  | start (first : Byte)
  /-- so many further bytes are clocked -/
  | shift (count : Nat)
  /-- select rises -/
  | rise
  /-- the whole transfer in one event, with so many bytes after the first -/
  | whole (first : Byte) (count : Nat)
deriving DecidableEq, Repr

/-- The commands of the block, one for each row of spec/opcode_table.json. -/
inductive Instr where
  | resetLine (selectLowA selectLowB : Bool)
  | signalAbsent (line : LineNo)
  | signalPresent (line : LineNo)
  | alignmentFind (line : LineNo) (position : Nat) (word : Word)
  | confirmWord (line : LineNo) (word : Word)
  | lockedWord (line : LineNo) (word : Word)
  | ingressArrival (line : LineNo) (slots : List RxSlot)
  | frameMark (time : Nat)
  | referenceLost
  | oscillatorBoundary
  | regainGap
  | secondRollover (cause : BoundaryCause)
  | windowEnd (cause : BoundaryCause)
  | holdOffExpiry (group : GroupNo) (side : Side) (cause : BoundaryCause)
  | restoreWaitExpiry (group : GroupNo) (cause : BoundaryCause)
  | alertDelayExpiry (link : Link) (cause : BoundaryCause)
  | adoption (cause : BoundaryCause)
  | clearCompletion
  | copyCompletion
  | verifyCompletion
  | activationCheckEnd
  | pageReadCompletion (read : PageRead)
  | pageWriteCompletion
  | frameArrival (link : Link) (part : WritePart)
  | readTransfer (link : Link) (part : ReadPart)
  | readStatus (link : Link)
  | setParameters (link : Link)
  | linkReset (link : Link)
  | subscribe (link : Link)
  | setAlert (link : Link)
  | readNotices (link : Link)
  | setTime (link : Link)
  | readTime (link : Link)
  | readLines (link : Link)
  | writeEntry (link : Link)
  | writeProfile (link : Link)
  | writeGroup (link : Link)
  | readEntries (link : Link)
  | readProfiles (link : Link)
  | readGroups (link : Link)
  | clearBank (link : Link)
  | copyBank (link : Link)
  | verifyBank (link : Link)
  | activateBank (link : Link)
  | pushRequest (link : Link)
  | withdrawRequest (link : Link)
  | withdrawAll (link : Link)
  | readGroupState (link : Link)
  | readStamp (link : Link)
  | setStampLock (link : Link)
  | readSource (link : Link)
  | setWatch (link : Link)
  | readLatches (link : Link)
  | ackLatch (link : Link)
  | setPattern (link : Link)
  | ackPattern (link : Link)
  | saveImage (link : Link)
  | loadImage (link : Link)
  | verifyImage (link : Link)
  | skippedTransfer (link : Link) (part : SkipPart)
deriving DecidableEq, Repr

end Sys2Proof
end

