-- ==== Sys2Proof/WellFormed.lean ====
section
/-! DEFINITION. Which commands the pins can deliver: a frame has its line's number of slots of 65 payload positions,
a page has 256 bytes, and a skipped transfer does not open with the type byte of another transfer. -/

namespace Sys2Proof

/-- The number of slots of a line's frame: 48 on a feeder line, 384 on a wave line (file 01). -/
def slotsOfLine (l : LineNo) : Nat := if l.val < 16 then 48 else 384

/-- A received frame holds every slot of its line, each with 65 payload positions. -/
def wellFormedFrame (l : LineNo) (slots : List RxSlot) : Bool :=
  slots.length == slotsOfLine l && slots.all (fun r => r.payload.length == 65)

/-- A page read attempt returns 256 bytes (R175). -/
def PageRead.wellFormed : PageRead → Bool
  | .stored => true
  | .received bs => bs.length == 256

/-- A skipped transfer opens with a byte that is neither 01h nor 02h (R156). -/
def SkipPart.wellFormed : SkipPart → Bool
  | .start b => b != 0x01#8 && b != 0x02#8
  | .shift _ => true
  | .rise => true
  | .whole b _ => b != 0x01#8 && b != 0x02#8

/-- The commands whose operands the pins can deliver (log entry 20). -/
def Instr.wellFormed : Instr → Bool
  | .ingressArrival l slots => wellFormedFrame l slots
  | .pageReadCompletion r => r.wellFormed
  | .skippedTransfer _ p => p.wellFormed
  | .resetLine _ _ | .signalAbsent _ | .signalPresent _ | .alignmentFind _ _ _ | .confirmWord _ _ | .lockedWord _ _
  | .frameMark _ | .referenceLost | .oscillatorBoundary | .regainGap | .secondRollover _ | .windowEnd _
  | .holdOffExpiry _ _ _ | .restoreWaitExpiry _ _ | .alertDelayExpiry _ _ | .adoption _ | .clearCompletion
  | .copyCompletion | .verifyCompletion | .activationCheckEnd | .pageWriteCompletion | .frameArrival _ _
  | .readTransfer _ _ | .readStatus _ | .setParameters _ | .linkReset _ | .subscribe _ | .setAlert _ | .readNotices _
  | .setTime _ | .readTime _ | .readLines _ | .writeEntry _ | .writeProfile _ | .writeGroup _ | .readEntries _
  | .readProfiles _ | .readGroups _ | .clearBank _ | .copyBank _ | .verifyBank _ | .activateBank _ | .pushRequest _
  | .withdrawRequest _ | .withdrawAll _ | .readGroupState _ | .readStamp _ | .setStampLock _ | .readSource _
  | .setWatch _ | .readLatches _ | .ackLatch _ | .setPattern _ | .ackPattern _ | .saveImage _ | .loadImage _
  | .verifyImage _ => true

end Sys2Proof
end

