-- ==== Sys2Proof/Decode.lean ====
section
/-! DEFINITION. The command that a word spells by the bits of spec/opcode_table.json. The block decodes no instruction
words and the table gives none of its 60 rows any bits, so no word spells a command. -/

namespace Sys2Proof

/-- No row of spec/opcode_table.json has bits: every word is refused. -/
def decodeTableWord (_nbits _w : Nat) : Option Instr := none

end Sys2Proof
end

