-- ==== Sys2Proof/Machine/Table.lean ====
section
/-! DEFINITION. Sparse tables in one canonical form: the block's per-source, per-slot, per-group and per-bank records.
An unlisted key reads as the table's reset value, keys rise strictly, and no entry equals that reset value, so that
equal tables are equal data. -/

namespace Sys2Proof.Machine

/-- A table of records by number. -/
structure Table (α : Type) where
  entries : List (Nat × α)
deriving DecidableEq, Repr

/-- The table in which every record has its reset value. -/
def Table.empty {α : Type} : Table α := ⟨[]⟩

/-- The first record listed under a key. -/
def findKey {α : Type} : List (Nat × α) → Nat → Option α
  | [], _ => none
  | (k', v) :: rest, k => if k = k' then some v else findKey rest k

/-- The list without the records of a key. -/
def dropKey {α : Type} (k : Nat) (l : List (Nat × α)) : List (Nat × α) := l.filter (fun p => p.1 != k)

/-- The list with a record put before the first larger key. -/
def insertKey {α : Type} (k : Nat) (v : α) : List (Nat × α) → List (Nat × α)
  | [] => [(k, v)]
  | (k', v') :: rest => if k < k' then (k, v) :: (k', v') :: rest else (k', v') :: insertKey k v rest

/-- Reading a record: an unlisted key reads as the reset value `d`. -/
def Table.get {α : Type} (d : α) (t : Table α) (k : Nat) : α := (findKey t.entries k).getD d

/-- Writing a record; writing the reset value removes the entry. -/
def Table.set {α : Type} [DecidableEq α] (d : α) (t : Table α) (k : Nat) (v : α) : Table α :=
  ⟨if v = d then dropKey k t.entries else insertKey k v (dropKey k t.entries)⟩

/-- The listed keys. -/
def Table.keys {α : Type} (t : Table α) : List Nat := t.entries.map (·.1)

/-- Every key of a list gets a new record, computed from the record it had before. -/
def Table.update {α : Type} [DecidableEq α] (d : α) (t : Table α) (ks : List Nat) (f : Nat → α → α) : Table α :=
  ks.foldl (fun acc k => acc.set d k (f k (t.get d k))) t

/-- Every record gets a new value; `f` must keep the reset value, since only listed keys are visited. -/
def Table.mapAll {α : Type} [DecidableEq α] (d : α) (t : Table α) (f : Nat → α → α) : Table α := t.update d t.keys f

/-- The keys of a list rise strictly. -/
def risingKeys {α : Type} : List (Nat × α) → Bool
  | [] => true
  | (k, _) :: rest => rest.all (fun p => k < p.1) && risingKeys rest

/-- The canonical form: rising keys, and no entry equal to the reset value. -/
def Table.wf {α : Type} [DecidableEq α] (d : α) (t : Table α) : Bool :=
  risingKeys t.entries && t.entries.all (fun p => p.2 != d)

end Sys2Proof.Machine
end

