-- ==== Sys2Proof/Machine/State.lean ====
section
/-! DEFINITION. The state of the block: every piece of state the spec gives each of its eleven functional blocks, the
queue of waiting commands, and the contents of the image flash. Reset values stand in the spec's tables R1, R16, R19,
R41, R43, R51, R76, R79, R95, R110, R117, R125, R129, R155, R174, R176. -/

namespace Sys2Proof.Machine

/-! ### Named values -/

/-- The width of a tributary in base slots: 1, 2, 4 or 8. -/
inductive Width where
  | w1
  | w2
  | w4
  | w8
deriving DecidableEq, Repr

/-- The alignment state of a LIF (R1). -/
inductive Align where
  | hunt
  | confirm
  | locked
deriving DecidableEq, Repr

/-- A justification code (R7, R25). -/
inductive TakeCode where
  | nominal
  | advance
  | retard
deriving DecidableEq, Repr

/-- The state of an elastic store (R19). -/
inductive StoreState where
  | idle
  | priming
  | running
deriving DecidableEq, Repr

/-- A condition of a source or of a side of a group (R112). -/
inductive Cond where
  | ok
  | degraded
  | failed
deriving DecidableEq, Repr

/-- The side a group carries (R129). -/
inductive Selection where
  | working
  | protect
deriving DecidableEq, Repr

/-- The ten request kinds (R131). -/
inductive ReqKind where
  | noRequest
  | restoreWait
  | manualWorking
  | manualProtect
  | degradeWorking
  | degradeProtect
  | failWorking
  | forceProtect
  | failProtect
  | holdWorking
deriving DecidableEq, Repr

/-- The cause of a GROUP_SWITCH notice (R167): a request kind or GROUP_REMOVED. -/
inductive SwitchCause where
  | request (kind : ReqKind)
  | groupRemoved
deriving DecidableEq, Repr

/-- The cause of a REQUEST_DISPLACED notice (R143, R151). -/
inductive DisplaceCause where
  | defect
  | higherRequest
  | groupRemoved
deriving DecidableEq, Repr

/-- A table of a bank, as the reason triple and the difference pair name it (R69, R181). -/
inductive TableName where
  | profiles
  | groups
  | map
deriving DecidableEq, Repr

/-- The operations an OP_DONE notice reports (R167). -/
inductive OpName where
  | clear
  | copy
  | verify
  | save
  | load
  | verifyImage
deriving DecidableEq, Repr

/-- The results an OP_DONE notice reports, with the reason triple of INVALID and the difference pair of DIFFERS
(R167). -/
inductive OpResult where
  | ok
  | invalid (table : TableName) (index rule : Nat)
  | imageCorrupt
  | blankStore
  | differs (table : TableName) (index : Nat)
deriving DecidableEq, Repr

/-- The outcomes of start-up (R176). -/
inductive StartOutcome where
  | imageStarted
  | blankStore
  | imageCorrupt
  | imageInconsistent
deriving DecidableEq, Repr

/-- The outcomes of a response (R161). -/
inductive RespCode where
  | done
  | accepted
  | pending
  | noCommand
  | unknown
  | frameError
  | badArgument
  | starting
  | busy
  | activeBank
  | stale
  | outranked
  | duplicate
  | notPresent
  | notDefined
deriving DecidableEq, Repr

/-- The decoder state of a link (R155). -/
inductive DecoderState where
  | quiet
  | writing
  | reading
  | skipping
deriving DecidableEq, Repr

/-- A bank number, 0 to 2 (R51). -/
abbrev BankNo := Fin 3

/-! ### Line Interfaces and Core Timebase -/

/-- The line-level state of one LIF (R1). -/
structure Lif where
  signal      : Bool
  align       : Align
  confirm     : Nat
  miss        : Nat
  expected    : Option Nat
  egressPhase : Bool
deriving DecidableEq, Repr

/-- R1: signal absent, HUNT, counts 0, no expected word position, egress phase 0. -/
def Lif.reset : Lif := ⟨false, .hunt, 0, 0, none, false⟩

/-- The parity history of an ingress slot (R8): the XOR of the last arrivals, and how many it holds. -/
structure SlotParity where
  held  : Nat
  newer : Byte
  older : Byte
deriving DecidableEq, Repr

/-- R1: 0 arrivals held. -/
def SlotParity.reset : SlotParity := ⟨0, 0, 0⟩

/-- A tag candidate with its run count (R10). -/
structure TagCandidate where
  tag : Byte
  run : Nat
deriving DecidableEq, Repr

/-- The per-slot state of an ingress slot (R1). -/
structure Slot where
  markerRun   : Nat
  marker      : Bool
  candidate   : Option TagCandidate
  accepted    : Option Byte
  mismatchRun : Nat
  mismatch    : Bool
  parity      : SlotParity
deriving DecidableEq, Repr

/-- R1: runs 0, levels clear, tags absent, 0 arrivals held. -/
def Slot.reset : Slot := ⟨0, false, none, none, 0, false, SlotParity.reset⟩

/-- The egress parity history of a slot (R15): the XOR of its payload in the last two frames sent. -/
structure SentParity where
  newer : Byte
  older : Byte
deriving DecidableEq, Repr

/-- R1: both values 00h. -/
def SentParity.reset : SentParity := ⟨0, 0⟩

/-- The Core Timebase (R16, R17). Times are nanoseconds since reset ended (log entry 4). -/
structure Timebase where
  refPresent     : Bool
  regain         : Nat
  lastBoundary   : Nat
  /-- the previous mark counted toward the regain -/
  lastMark       : Option Nat
  /-- the first boundary after reset has begun frame 0 of second 0 -/
  clockRunning   : Bool
  seconds        : Word
  frame          : Nat
  pendingSeconds : Option Word
deriving DecidableEq, Repr

/-- R16, R17: reference absent, regain count 0, site time 0, no pending seconds. -/
def Timebase.reset : Timebase := ⟨false, 0, 0, none, false, 0, 0, none⟩

/-! ### Elastic stores and rates -/

/-- The record of an elastic store (R19). The fill is the number of stored bytes (R20). -/
structure Store where
  state      : StoreState
  width      : Option Width
  integrator : Int
  lastCode   : TakeCode
  slips      : Nat
  advances   : Nat
  retards    : Nat
  complete   : Bool
  /-- stored bytes, oldest first -/
  bytes      : List Byte
deriving DecidableEq, Repr

/-- R19: IDLE, no width, I = 0, nominal, counts 0, flag clear, empty. -/
def Store.reset : Store := ⟨.idle, none, 0, .nominal, 0, 0, 0, false, []⟩

/-- The device-wide state of the Rate Monitor (R41). -/
structure RateParams where
  k        : Nat
  pendingK : Option Nat
  counter  : Nat
  j        : Nat
  l        : Nat
  retries  : Nat
deriving DecidableEq, Repr

/-- R41: k 12, no pending exponent, counter 0, J 256, L 1000, 2 retries. -/
def RateParams.reset : RateParams := ⟨12, none, 0, 256, 1000, 2⟩

/-- The rate record of a source (R43), with the fact of R47 that degrade evaluation uses. -/
structure RateRec where
  estimate    : Int
  valid       : Bool
  saturated   : Bool
  excursion   : Bool
  /-- the source's store started anew in the window in progress (R47) -/
  newInWindow : Bool
deriving DecidableEq, Repr

/-- R43: estimate 0, flags and level clear. -/
def RateRec.reset : RateRec := ⟨0, false, false, false, false⟩

/-! ### Connection banks -/

/-- An Egress Map entry (R52). -/
inductive Entry where
  | idle
  | source (width : Width) (ref : Nat) (tag : Option Byte)
  | group (width : Width) (ref : Nat) (tag : Option Byte)
  | follow (width : Width) (ref : Nat) (tag : Option Byte)
deriving DecidableEq, Repr

/-- A defined Source Profile (R54); an undefined one is absent from the bank. -/
structure Profile where
  width       : Width
  expectedTag : Option Byte
  threshold   : Nat
deriving DecidableEq, Repr

/-- A defined Group Table entry (R55); an undefined one is absent from the bank. -/
structure GroupDef where
  width       : Width
  working     : Nat
  protect     : Nat
  revertive   : Bool
  holdOff     : Nat
  restoreWait : Nat
deriving DecidableEq, Repr

/-- A connection bank (R51). -/
structure Bank where
  map      : Table Entry
  profiles : Table (Option Profile)
  groups   : Table (Option GroupDef)
  revision : Half
deriving DecidableEq, Repr

/-- R51, R52, R54, R55: every entry IDLE, every profile and group undefined, revision 0. -/
def Bank.reset : Bank := ⟨Table.empty, Table.empty, Table.empty, 0⟩

/-- The kind of a hold (R76). -/
inductive HoldKind where
  | read
  | write
deriving DecidableEq, Repr

/-- The hold record of a bank (R76): at most one hold of each engine. -/
structure HoldRec where
  mapEngine : Option HoldKind
  image     : Option HoldKind
deriving DecidableEq, Repr

/-- R51: no hold. -/
def HoldRec.reset : HoldRec := ⟨none, none⟩

/-- A pending activation (R88): the bank and its revision. -/
structure PendingActivation where
  bank     : BankNo
  revision : Half
deriving DecidableEq, Repr

/-- The operation a BUSY Map Engine holds (R79). -/
inductive MapOp where
  | clear (bank : BankNo)
  | copy (source destination : BankNo)
  | verify (bank : BankNo) (revision : Half)
  | activateCheck (bank : BankNo) (revision : Half)
  | activatePending (bank : BankNo) (revision : Half)
deriving DecidableEq, Repr

/-! ### Tributary Switch -/

/-- A content record (R95). -/
structure Content where
  width    : Width
  code     : TakeCode
  payload  : List Byte
  marker   : Bool
  resolved : Option Nat
  tag      : Option Byte
deriving DecidableEq, Repr

/-- IDLE content (R97): width 1, nominal, 64 filler bytes, marker clear, no source, no tag. -/
def Content.idle : Content := ⟨.w1, .nominal, List.replicate 64 0, false, none, none⟩

/-- The frame handed to the egress LIFs at the last boundary: the content record of each egress head (an unlisted slot
that no head covers has IDLE content, R97), and the overhead byte of each head and each uncovered slot (R13). -/
structure EgressFrame where
  content  : Table Content
  overhead : Table Byte
deriving DecidableEq, Repr

/-- A frame that each LIF has stopped sending at a boundary, and how long it had the line, in nanoseconds (R13). -/
structure LineRecord where
  frame : EgressFrame
  span  : Nat
deriving DecidableEq, Repr

/-! ### Defect Monitor -/

/-- The line defect levels of a line (R110). -/
structure LineDefects where
  absent : Bool
  lost   : Bool
deriving DecidableEq, Repr

/-- R110: both present on every line after reset. -/
def LineDefects.reset : LineDefects := ⟨true, true⟩

/-- The defect record of a source (R110). -/
structure DefectRec where
  marker    : Bool
  mismatch  : Bool
  degrade   : Bool
  excursion : Bool
  errored   : Nat
  raw       : Cond
deriving DecidableEq, Repr

/-- R110: levels clear, count 0, OK. -/
def DefectRec.reset : DefectRec := ⟨false, false, false, false, 0, .ok⟩

/-- The level a watch looks at (R117). -/
inductive WatchLevel where
  | failed
  | degradedOrWorse
deriving DecidableEq, Repr

/-- The type of a watch (R117). -/
inductive WatchType where
  | level
  | change
deriving DecidableEq, Repr

/-- A Watch Table entry with its latch (R117). -/
structure Watch where
  enabled  : Bool
  level    : WatchLevel
  polarity : Bool
  type     : WatchType
  cls      : Nat
  pattern  : Option Nat
  latch    : Bool
deriving DecidableEq, Repr

/-- R117: disabled, FAILED, TRUE, LEVEL, class 0, no pattern set, latch clear. -/
def Watch.reset : Watch := ⟨false, .failed, true, .level, 0, none, false⟩

/-- A pattern set (R125). -/
structure Pattern where
  enabled : Bool
  cls     : Nat
  latch   : Bool
deriving DecidableEq, Repr

/-- R125: disabled, class 0, latch clear. -/
def Pattern.reset : Pattern := ⟨false, 0, false⟩

/-! ### Protection Engine -/

/-- One entry of a controller request list (R132). -/
structure Request where
  kind   : ReqKind
  origin : Link
deriving DecidableEq, Repr

/-- The conditions of one side of a group and its hold-off timer, 0 for idle (R129). -/
structure SideRec where
  raw   : Cond
  eff   : Cond
  timer : Nat
deriving DecidableEq, Repr

/-- R129: OK, OK, idle. -/
def SideRec.reset : SideRec := ⟨.ok, .ok, 0⟩

/-- The record of a group's last switch (R146). -/
structure Stamp where
  seconds : Word
  frame   : Nat
  source  : Selection
  target  : Selection
  cause   : ReqKind
deriving DecidableEq, Repr

/-- The runtime record of a group (R129). The group is defined while it has settings (R130); timers are 0 for idle. -/
structure GroupRec where
  settings    : Option GroupDef
  selection   : Selection
  requests    : List Request
  working     : SideRec
  protect     : SideRec
  restore     : Nat
  governing   : ReqKind
  switchCount : Nat
  stamp       : Option Stamp
  lock        : Bool
  held        : Bool
deriving DecidableEq, Repr

/-- R129: undefined, WORKING, empty list, sides OK, timers idle, NONE, count 0, no stamp, lock off, not held. -/
def GroupRec.reset : GroupRec :=
  ⟨none, .working, [], SideRec.reset, SideRec.reset, 0, .noRequest, 0, none, false, false⟩

/-! ### Notices and links -/

/-- The fields of a notice by kind (R167). -/
inductive NoticeBody where
  | watch (source : Nat) (cls : Nat) (value : Bool)
  | pattern (set : Nat) (cls : Nat)
  | groupSwitch (group : Nat) (source target : Selection) (cause : SwitchCause)
  | requestDisplaced (group : Nat) (kind : ReqKind) (origin : Link) (cause : DisplaceCause)
  | bankActivated (bank : BankNo) (revision : Half) (previous : Option BankNo)
  | activationRefused (bank : BankNo) (table : TableName) (index rule : Nat)
  | opDone (op : OpName) (bank : BankNo) (revision : Half) (result : OpResult)
  | timing (regained : Bool)
  | start (outcome : StartOutcome)
deriving DecidableEq, Repr

/-- A notice (R167): its fields and the site time at which it was raised. -/
structure Notice where
  body    : NoticeBody
  seconds : Word
  frame   : Nat
deriving DecidableEq, Repr

/-- A queued notice with its wait count (R169). -/
structure Queued where
  notice : Notice
  wait   : Nat
deriving DecidableEq, Repr

/-- A well-formed command frame (file 09, Command Frames): code and arguments. -/
structure CommandFrame where
  code : Byte
  args : List Byte
deriving DecidableEq, Repr

/-- The response buffer (R155). The result length m is the length of the result. -/
structure Response where
  echo    : Byte
  outcome : RespCode
  clamped : Bool
  result  : List Byte
deriving DecidableEq, Repr

/-- R155: echo 00h, NO_COMMAND, clamped clear, m = 0. -/
def Response.reset : Response := ⟨0, .noCommand, false, []⟩

/-- The state of a control link (R155, R169 to R174). -/
structure LinkState where
  decoder   : DecoderState
  frameBuf  : List Byte
  /-- bytes of the write transfer in progress, those past the 255th counted too (R156) -/
  frameLen  : Nat
  untaken   : Option CommandFrame
  response  : Response
  overrun   : Bool
  /-- items 1 to 4 of the read transfer in progress, fixed when item 1 begins (R160) -/
  readItems : Option (List Byte)
  /-- the status word being sent (R160, R162) -/
  statusOut : Half
  /-- the bytes the part has sent in the present or last transfer (R156, R160) -/
  sent      : List Byte
  queue     : List Queued
  lost      : Bool
  mask      : BitVec 9
  batch     : Nat
  delay     : Nat
  alert     : Bool
deriving DecidableEq, Repr

/-- R155, R174: the reset values, for a select line that is high as reset ends (DESIGN CHOICE, log entry 11). -/
def LinkState.reset : LinkState :=
  ⟨.quiet, [], 0, none, Response.reset, false, none, 0, [], [], false, 0x1FF#9, 1, 0, false⟩

/-! ### Image Store Controller -/

/-- The operation of a BUSY Image Store Controller (R176). -/
inductive ImageOpName where
  | save
  | load
  | verifyImage
  | startLoad
deriving DecidableEq, Repr

/-- The record of an image operation in progress (R176). -/
structure ImageOp where
  op          : ImageOpName
  bank        : BankNo
  revision    : Half
  retries     : Nat
  /-- the page being read or written; absent once START-LOAD has ended its load -/
  page        : Option Nat
  attempts    : Nat
  /-- the site seconds at the take of SAVE IMAGE (R175) -/
  seconds     : Word
  /-- SAVE IMAGE is at its second write of page 0 (R179) -/
  finalHeader : Bool
  /-- the stream bytes read of a record that ends in a later page (R175, R178) -/
  carry       : List Byte
deriving DecidableEq, Repr

/-- The Image Store Controller (R176): READY when no operation is held. -/
structure ImageCtl where
  op       : Option ImageOp
  finished : Bool
  outcome  : Option StartOutcome
  toReport : Option StartOutcome
deriving DecidableEq, Repr

/-- R176, R182: START-LOAD of bank 0, whose revision is 0, with 2 retries. -/
def ImageOp.startLoad : ImageOp := ⟨.startLoad, 0, 0, 2, some 0, 0, 0, false, []⟩

/-- R176: BUSY with START-LOAD, start-up not finished, no outcomes. -/
def ImageCtl.reset : ImageCtl := ⟨some ImageOp.startLoad, false, none, none⟩

/-- A page of an erased flash. -/
def erasedPage : List Byte := List.replicate 256 Config.erasedByte

/-! ### The state of the block -/

/-- Everything the spec gives the block, the waiting commands and the image flash. -/
structure State where
  /-- MODEL: the commands that wait, first in first out -/
  pending     : List Instr
  /-- by line -/
  lifs        : Table Lif
  /-- by ingress slot -/
  slots       : Table Slot
  /-- by egress slot -/
  sentParity  : Table SentParity
  time        : Timebase
  /-- by source -/
  stores      : Table Store
  rate        : RateParams
  /-- by source -/
  rates       : Table RateRec
  /-- by bank -/
  banks       : Table Bank
  /-- by bank -/
  holds       : Table HoldRec
  active      : Option BankNo
  pendingAct  : Option PendingActivation
  mapEngine   : Option MapOp
  /-- the frame being sent; absent before the first boundary -/
  egress      : Option EgressFrame
  /-- the frame that the last boundary ended; absent while none has ended since reset -/
  ended       : Option LineRecord
  /-- by line -/
  lineDefects : Table LineDefects
  /-- by source -/
  defects     : Table DefectRec
  /-- by source -/
  watches     : Table Watch
  /-- by pattern set -/
  patterns    : Table Pattern
  /-- by group -/
  groups      : Table GroupRec
  linkA       : LinkState
  linkB       : LinkState
  image       : ImageCtl
  /-- by page: the image flash, outside the part (R175) -/
  flash       : Table (List Byte)
  /-- MODEL: how many events have drawn a free choice (log entry 6) -/
  choices     : Nat
deriving DecidableEq, Repr

/-- The block right after reset (R182): every block at its reset values, START-LOAD begun with its write-hold on
bank 0, both select lines high, the flash erased. -/
def State.reset : State where
  pending := []
  lifs := Table.empty
  slots := Table.empty
  sentParity := Table.empty
  time := Timebase.reset
  stores := Table.empty
  rate := RateParams.reset
  rates := Table.empty
  banks := Table.empty
  holds := ⟨[(0, ⟨none, some .write⟩)]⟩
  active := none
  pendingAct := none
  mapEngine := none
  egress := none
  ended := none
  lineDefects := Table.empty
  defects := Table.empty
  watches := Table.empty
  patterns := Table.empty
  groups := Table.empty
  linkA := LinkState.reset
  linkB := LinkState.reset
  image := ImageCtl.reset
  flash := Table.empty
  choices := 0

/-- The block stops with no fault: a refused controller command is answered with an outcome (R161), and no event stops
the part. The type has no constructor. -/
inductive Fault where
deriving DecidableEq, Repr

/-- Why a command has no meaning. -/
inductive Refusal where
  /-- raised by `exec` for a command that has no meaning yet; safe -/
  | notModelled (mnemonic : String)
  /-- raised by INGRESS_ARRIVAL, PAGE_READ_COMPLETION and SKIPPED_TRANSFER for an operand that no pin could deliver
  (`Instr.wellFormed` fails); safe, since the hardware never sees such a command -/
  | illFormed
deriving DecidableEq, Repr

end Sys2Proof.Machine
end

