-- ==== Sys2Proof/Machine/Ops.lean ====
section
/-! DEFINITION. The operations every block shares: the numbering of lines and slots, the one accessor and the one writer
of each record of the state, what a bank's tables say, the holds, and the offering of notices to the two links. -/

namespace Sys2Proof.Machine

/-! ### Numbering (00_scope, Numbering; R53) -/

/-- The number of base slots of a width. -/
def Width.toNat : Width → Nat
  | .w1 => 1
  | .w2 => 2
  | .w4 => 4
  | .w8 => 8

/-- The line a source or egress slot number lies on (R53): F0 to F15 are 0 to 15, East 16, West 17. -/
def lineOfSlot (n : Nat) : Nat := if n < 768 then n / 48 else if n < 1152 then 16 else 17

/-- The first slot number of a line. -/
def firstSlot (l : Nat) : Nat := if l < 16 then l * 48 else if l = 16 then 768 else 1152

/-- The length of a line's frame in bytes: 3,220 or 25,732 (R3). -/
def frameLength (l : LineNo) : Nat := 4 + 67 * slotsOfLine l

/-- A slot number is aligned to a width exactly when it is a multiple of it (R53). -/
def aligned (n : Nat) (w : Width) : Bool := n % w.toNat == 0

/-- The slots a head covers: itself and the w - 1 slots after it. -/
def coveredSlots (h : Nat) (w : Width) : List Nat := (List.range w.toNat).map (h + ·)

/-- The payload bytes that go with a code: 64w, 64w + 1 or 64w - 1 (R7, R98). -/
def codeCount : TakeCode → Width → Nat
  | .nominal, w => 64 * w.toNat
  | .advance, w => 64 * w.toNat + 1
  | .retard, w => 64 * w.toNat - 1

/-! ### The records of the state: one reader and one writer each -/

/-- The LIF of a line. -/
def State.lif (s : State) (l : Nat) : Lif := s.lifs.get Lif.reset l
/-- The ingress per-slot state. -/
def State.slot (s : State) (n : Nat) : Slot := s.slots.get Slot.reset n
/-- The egress parity history of a slot. -/
def State.sent (s : State) (n : Nat) : SentParity := s.sentParity.get SentParity.reset n
/-- The elastic store of a source. -/
def State.store (s : State) (n : Nat) : Store := s.stores.get Store.reset n
/-- The rate record of a source. -/
def State.rateOf (s : State) (n : Nat) : RateRec := s.rates.get RateRec.reset n
/-- A bank. -/
def State.bank (s : State) (b : BankNo) : Bank := s.banks.get Bank.reset b.val
/-- The hold record of a bank. -/
def State.hold (s : State) (b : BankNo) : HoldRec := s.holds.get HoldRec.reset b.val
/-- The line defect levels of a line. -/
def State.lineDefect (s : State) (l : Nat) : LineDefects := s.lineDefects.get LineDefects.reset l
/-- The defect record of a source. -/
def State.defect (s : State) (n : Nat) : DefectRec := s.defects.get DefectRec.reset n
/-- The watch entry and latch of a source. -/
def State.watch (s : State) (n : Nat) : Watch := s.watches.get Watch.reset n
/-- A pattern set. -/
def State.pattern (s : State) (p : Nat) : Pattern := s.patterns.get Pattern.reset p
/-- The runtime record of a group. -/
def State.group (s : State) (g : Nat) : GroupRec := s.groups.get GroupRec.reset g
/-- A page of the image flash. -/
def State.flashPage (s : State) (p : Nat) : List Byte := s.flash.get erasedPage p
/-- A control link. -/
def State.link (s : State) : Link → LinkState
  | .a => s.linkA
  | .b => s.linkB

/-- Write the LIF of a line. -/
def State.setLif (s : State) (l : Nat) (v : Lif) : State := { s with lifs := s.lifs.set Lif.reset l v }
/-- Write the ingress per-slot state. -/
def State.setSlot (s : State) (n : Nat) (v : Slot) : State := { s with slots := s.slots.set Slot.reset n v }
/-- Write the elastic store of a source. -/
def State.setStore (s : State) (n : Nat) (v : Store) : State := { s with stores := s.stores.set Store.reset n v }
/-- Write the rate record of a source. -/
def State.setRate (s : State) (n : Nat) (v : RateRec) : State := { s with rates := s.rates.set RateRec.reset n v }
/-- Write a bank. -/
def State.setBank (s : State) (b : BankNo) (v : Bank) : State := { s with banks := s.banks.set Bank.reset b.val v }
/-- Write the hold record of a bank. -/
def State.setHold (s : State) (b : BankNo) (v : HoldRec) : State := { s with holds := s.holds.set HoldRec.reset b.val v }
/-- Write the line defect levels of a line. -/
def State.setLineDefect (s : State) (l : Nat) (v : LineDefects) : State :=
  { s with lineDefects := s.lineDefects.set LineDefects.reset l v }
/-- Write the defect record of a source. -/
def State.setDefect (s : State) (n : Nat) (v : DefectRec) : State :=
  { s with defects := s.defects.set DefectRec.reset n v }
/-- Write the watch entry and latch of a source. -/
def State.setWatch (s : State) (n : Nat) (v : Watch) : State := { s with watches := s.watches.set Watch.reset n v }
/-- Write a pattern set. -/
def State.setPattern (s : State) (p : Nat) (v : Pattern) : State :=
  { s with patterns := s.patterns.set Pattern.reset p v }
/-- Write the runtime record of a group. -/
def State.setGroup (s : State) (g : Nat) (v : GroupRec) : State := { s with groups := s.groups.set GroupRec.reset g v }
/-- Write a page of the image flash. -/
def State.setFlashPage (s : State) (p : Nat) (v : List Byte) : State := { s with flash := s.flash.set erasedPage p v }
/-- Write a control link. -/
def State.setLink (s : State) (x : Link) (v : LinkState) : State :=
  match x with
  | .a => { s with linkA := v }
  | .b => { s with linkB := v }

/-! ### What a bank's tables say -/

/-- The Egress Map entry of a slot (R52). -/
def Bank.entry (b : Bank) (n : Nat) : Entry := b.map.get .idle n
/-- The Source Profile of a slot; absent when undefined (R54). -/
def Bank.profile (b : Bank) (n : Nat) : Option Profile := b.profiles.get none n
/-- The Group Table entry of a group; absent when undefined (R55). -/
def Bank.groupDef (b : Bank) (g : Nat) : Option GroupDef := b.groups.get none g
/-- Write an Egress Map entry. -/
def Bank.setEntry (b : Bank) (n : Nat) (v : Entry) : Bank := { b with map := b.map.set .idle n v }
/-- Write a Source Profile. -/
def Bank.setProfile (b : Bank) (n : Nat) (v : Option Profile) : Bank := { b with profiles := b.profiles.set none n v }
/-- Write a Group Table entry. -/
def Bank.setGroupDef (b : Bank) (g : Nat) (v : Option GroupDef) : Bank := { b with groups := b.groups.set none g v }

/-- Raise the revision by 1; it wraps (R57). -/
def Bank.bumped (b : Bank) : Bank := { b with revision := b.revision + 1 }

/-- Every record at its reset value, the revision kept (R81, R180). -/
def Bank.cleared (b : Bank) : Bank := { Bank.reset with revision := b.revision }

/-- The width of an entry that is not IDLE (R52). -/
def Entry.width? : Entry → Option Width
  | .idle => none
  | .source w _ _ => some w
  | .group w _ _ => some w
  | .follow w _ _ => some w

/-- Put a number into a rising list. -/
def insertSorted (n : Nat) : List Nat → List Nat
  | [] => [n]
  | m :: rest => if n < m then n :: m :: rest else if n = m then m :: rest else m :: insertSorted n rest

/-- The numbers of a list in rising order, each once. -/
def sortedUnique (l : List Nat) : List Nat := l.foldl (fun acc n => insertSorted n acc) []

/-- The sources a bank references (R68), in ascending order: those of its SOURCE entries and of its defined groups. -/
def Bank.referenced (b : Bank) : List Nat :=
  sortedUnique
    (b.map.keys.filterMap (fun k => match b.entry k with | .source _ r _ => some r | _ => none)
      ++ b.groups.keys.flatMap (fun g => match b.groupDef g with | some d => [d.working, d.protect] | none => []))

/-- The tables of the active bank; an empty bank while none is active. -/
def State.activeBank (s : State) : Bank :=
  match s.active with
  | some b => s.bank b
  | none => Bank.reset

/-- An index is a watched head, and a source head of the LIFs, while the active bank holds a defined Source Profile
there (R6, R117). -/
def State.isHead (s : State) (n : Nat) : Bool := (s.activeBank.profile n).isSome

/-! ### Holds (R76, R77) -/

/-- A bank is write-held when its record contains a write-hold. -/
def HoldRec.writeHeld (h : HoldRec) : Bool := h.mapEngine == some .write || h.image == some .write

/-- A bank has no hold when its record is empty. -/
def HoldRec.noHold (h : HoldRec) : Bool := h.mapEngine.isNone && h.image.isNone

/-- Place or release the Map Engine's hold on a bank. -/
def State.mapHold (s : State) (b : BankNo) (k : Option HoldKind) : State :=
  s.setHold b { s.hold b with mapEngine := k }

/-- Place or release the Image Store Controller's hold on a bank. -/
def State.imageHold (s : State) (b : BankNo) (k : Option HoldKind) : State :=
  s.setHold b { s.hold b with image := k }

/-! ### Notices (R167 to R169, R172) -/

/-- The notice kind's code and subscription bit (file 12, Notices). -/
def NoticeBody.kindCode : NoticeBody → Nat
  | .watch _ _ _ => 0
  | .pattern _ _ => 1
  | .groupSwitch _ _ _ _ => 2
  | .requestDisplaced _ _ _ _ => 3
  | .bankActivated _ _ _ => 4
  | .activationRefused _ _ _ _ => 5
  | .opDone _ _ _ _ => 6
  | .timing _ => 7
  | .start _ => 8

/-- The oldest queued notice has waited for the delay (R172). -/
def LinkState.oldestWaited (l : LinkState) : Bool :=
  match l.queue with
  | [] => false
  | q :: _ => decide (l.delay * 4 ≤ q.wait)

/-- The value R172 gives the alert line. -/
def LinkState.alertDue (l : LinkState) : Bool :=
  !l.queue.isEmpty && (decide (l.batch ≤ l.queue.length) || (decide (0 < l.delay) && l.oldestWaited))

/-- An evaluation drives the alert line to the value it finds (R172). -/
def LinkState.evalAlert (l : LinkState) : LinkState := { l with alert := l.alertDue }

/-- A link files, ignores or discards an offered notice (R169). -/
def LinkState.file (l : LinkState) (n : Notice) : LinkState :=
  if !l.mask.getLsbD n.body.kindCode then l
  else if 32 ≤ l.queue.length then { l with lost := true }
  else LinkState.evalAlert { l with queue := l.queue ++ [⟨n, 0⟩] }

/-- The offer of one notice reaches both queues as one event (R168). -/
def State.offerOne (s : State) (n : Notice) : State :=
  { s with linkA := s.linkA.file n, linkB := s.linkB.file n }

/-- The blocks that raise notices (R167). -/
inductive Block where
  | timebase
  | switch
  | mapEngine
  | imageStore
  | monitor
  | protection
deriving DecidableEq, Repr

/-- An event in progress: the state so far, and the notices its blocks have raised, each block's in its order. -/
structure Ev where
  st     : State
  raised : List (Block × Notice)

/-- An event that begins in a state. -/
def Ev.start (s : State) : Ev := ⟨s, []⟩

/-- Change the state within an event. -/
def Ev.modify (e : Ev) (f : State → State) : Ev := { e with st := f e.st }

/-- A block raises a notice with the site time of the event; while start-up has not finished it is not offered and not
counted as lost (R168). -/
def Ev.raise (e : Ev) (b : Block) (body : NoticeBody) : Ev :=
  if e.st.image.finished then
    { e with raised := e.raised ++ [(b, ⟨body, e.st.time.seconds, e.st.time.frame⟩)] }
  else e

/-- A block raises several notices in order. -/
def Ev.raiseAll (e : Ev) (b : Block) (bodies : List NoticeBody) : Ev := bodies.foldl (fun e n => e.raise b n) e

/-- Two lists merged, each keeping its order; `pick` says which gives the next element. -/
def interleave {α : Type} (pick : Nat → Bool) : (fuel n : Nat) → List α → List α → List α
  | 0, _, xs, ys => xs ++ ys
  | _ + 1, _, [], ys => ys
  | _ + 1, _, x :: xs, [] => x :: xs
  | f + 1, n, x :: xs, y :: ys =>
    if pick n then x :: interleave pick f (n + 1) xs (y :: ys) else y :: interleave pick f (n + 1) (x :: xs) ys

/-- The notices one block raised in an event, in its order. -/
def noticesOf (b : Block) (raised : List (Block × Notice)) : List Notice :=
  raised.filterMap (fun p => if p.1 = b then some p.2 else none)

/-- Whether notices of two different blocks were raised. -/
def mixedBlocks : List (Block × Notice) → Bool
  | [] => false
  | (b, _) :: rest => rest.any (fun p => p.1 != b)

/-- The order in which the notices of one event reach the queues (R168): each block's own order is kept, and between
blocks the world decides. -/
def offeringOrder (event : Nat) (raised : List (Block × Notice)) : List Notice :=
  ([Block.timebase, .switch, .mapEngine, .imageStore, .monitor, .protection].foldl
    (fun (acc : Nat × List Notice) b =>
      (acc.1 + 1,
        interleave (Config.firstListNext event acc.1) (acc.2.length + (noticesOf b raised).length) 0 acc.2
          (noticesOf b raised)))
    (0, [])).2

/-- The end of an event: its notices are offered to both links (R168). -/
def Ev.offer (e : Ev) : State :=
  let s := (offeringOrder e.st.choices e.raised).foldl State.offerOne e.st
  if mixedBlocks e.raised then { s with choices := s.choices + 1 } else s

/-- The answer of a command: a next state, a fault or a refusal. -/
abbrev Answer := Host.Outcome State Fault Refusal

/-- The answer of a command that takes place as one event. -/
def Ev.done (e : Ev) : Answer := .next e.offer

end Sys2Proof.Machine
end

