-- ==== Sys2Proof/Machine/Operands.lean ====
section
/-! DEFINITION. The forms of arguments and results (R184 and the layouts of file 12): byte order, codes of named values,
bank records, the watch entry and the notice. -/

namespace Sys2Proof.Machine

/-! ### Quantities, flags and optional items (R184) -/

/-- A quantity of 1 byte. -/
def byte1 (n : Nat) : List Byte := [BitVec.ofNat 8 n]

/-- A quantity of 2 bytes, most significant first. -/
def byte2 (n : Nat) : List Byte := [BitVec.ofNat 8 (n / 256), BitVec.ofNat 8 n]

/-- A quantity of 4 bytes, most significant first. -/
def byte4 (n : Nat) : List Byte := byte2 (n / 65536) ++ byte2 n

/-- A signed quantity of 2 bytes in two's complement. -/
def signed2 (i : Int) : List Byte := byte2 (BitVec.ofInt 16 i).toNat

/-- A yes/no, set/clear or on/off item. -/
def flagByte (b : Bool) : Byte := if b then 0x01#8 else 0x00#8

/-- An optional byte: presence, then the value, 0 when absent. -/
def optionalByte : Option Byte → List Byte
  | some v => [0x01#8, v]
  | none => [0x00#8, 0x00#8]

/-- An optional quantity with its encoding: presence, then the value, zeros when absent. -/
def optionalItem (enc : Nat → List Byte) : Option Nat → List Byte
  | some v => 0x01#8 :: enc v
  | none => 0x00#8 :: enc 0

/-- The value of 2 argument bytes. -/
def value2 (hi lo : Byte) : Nat := hi.toNat * 256 + lo.toNat

/-- A flag byte of an argument; any other value is outside its set. -/
def flagOf (b : Byte) : Option Bool := if b = 0x00#8 then some false else if b = 0x01#8 then some true else none

/-- A bank number of an argument; a number above 2 is refused (R51). -/
def bankOf (b : Byte) : Option BankNo := if h : b.toNat < 3 then some ⟨b.toNat, h⟩ else none

/-! ### Codes of named values (file 12) -/

def TakeCode.code : TakeCode → Nat
  | .nominal => 0
  | .advance => 1
  | .retard => 2

def StoreState.code : StoreState → Nat
  | .idle => 0
  | .priming => 1
  | .running => 2

def Align.code : Align → Nat
  | .hunt => 0
  | .confirm => 1
  | .locked => 2

def Cond.code : Cond → Nat
  | .ok => 0
  | .degraded => 1
  | .failed => 2

def Selection.code : Selection → Nat
  | .working => 0
  | .protect => 1

def ReqKind.code : ReqKind → Nat
  | .noRequest => 0
  | .restoreWait => 1
  | .manualWorking => 2
  | .manualProtect => 3
  | .degradeWorking => 4
  | .degradeProtect => 5
  | .failWorking => 6
  | .forceProtect => 7
  | .failProtect => 8
  | .holdWorking => 9

def SwitchCause.code : SwitchCause → Nat
  | .request k => k.code
  | .groupRemoved => 10

def DisplaceCause.code : DisplaceCause → Nat
  | .defect => 0
  | .higherRequest => 1
  | .groupRemoved => 2

def linkCode : Link → Nat
  | .a => 0
  | .b => 1

def TableName.code : TableName → Nat
  | .profiles => 1
  | .groups => 2
  | .map => 3

def OpName.code : OpName → Nat
  | .clear => 1
  | .copy => 2
  | .verify => 3
  | .save => 4
  | .load => 5
  | .verifyImage => 6

def OpResult.code : OpResult → Nat
  | .ok => 0
  | .invalid _ _ _ => 1
  | .imageCorrupt => 2
  | .blankStore => 3
  | .differs _ _ => 4

def StartOutcome.code : StartOutcome → Nat
  | .imageStarted => 0
  | .blankStore => 1
  | .imageCorrupt => 2
  | .imageInconsistent => 3

def RespCode.code : RespCode → Nat
  | .done => 0
  | .accepted => 1
  | .pending => 2
  | .noCommand => 3
  | .unknown => 4
  | .frameError => 5
  | .badArgument => 6
  | .starting => 7
  | .busy => 8
  | .activeBank => 9
  | .stale => 10
  | .outranked => 11
  | .duplicate => 12
  | .notPresent => 13
  | .notDefined => 14

def WatchLevel.code : WatchLevel → Nat
  | .failed => 0
  | .degradedOrWorse => 1

def WatchType.code : WatchType → Nat
  | .level => 0
  | .change => 1

/-- The bank number of a status word or a notice; 3 stands for none (R89, file 12). -/
def bankCode : Option BankNo → Nat
  | some b => b.val
  | none => 3

/-- The controller kinds of PUSH REQUEST and WITHDRAW REQUEST: codes 2, 3, 7 and 9 (file 12). -/
def controllerKind (b : Byte) : Option ReqKind :=
  if b = 0x02#8 then some .manualWorking
  else if b = 0x03#8 then some .manualProtect
  else if b = 0x07#8 then some .forceProtect
  else if b = 0x09#8 then some .holdWorking
  else none

/-! ### Bank records (file 12, Bank Records) -/

/-- A width field: 1, 2, 4 or 8; 0 is absent and any other value is no width. -/
def widthOf (n : Nat) : Option Width :=
  if n = 1 then some .w1 else if n = 2 then some .w2 else if n = 4 then some .w4 else if n = 8 then some .w8 else none

/-- The width field of an optional width. -/
def widthCode : Option Width → Nat
  | some w => w.toNat
  | none => 0

/-- The transmit tag of an entry: presence byte 00h is absent, any other value present. -/
def tagOf (presence tag : Byte) : Option Byte := if presence = 0x00#8 then none else some tag

/-- The 6 bytes of an Egress Map entry. -/
def entryBytes : Entry → List Byte
  | .idle => byte1 0 ++ byte1 0 ++ byte2 0xFFFF ++ optionalByte none
  | .source w r t => byte1 1 ++ byte1 w.toNat ++ byte2 r ++ optionalByte t
  | .group w r t => byte1 2 ++ byte1 w.toNat ++ byte2 r ++ optionalByte t
  | .follow w r t => byte1 3 ++ byte1 w.toNat ++ byte2 r ++ optionalByte t

/-- A SOURCE or FOLLOW reference: a slot number 0 to 1535 aligned to the width (R53, R59). -/
def slotRefOk (r : Nat) (w : Width) : Bool := decide (r < 1536) && aligned r w

/-- Decode the entry for an index, with the local checks of R59 beyond the index range; none is BAD_ARGUMENT. -/
def decodeEntry (index : Nat) : List Byte → Option Entry
  | [kind, w, r1, r0, tp, tv] =>
    if kind = 0x00#8 then some .idle
    else
      match widthOf w.toNat with
      | none => none
      | some width =>
        if !aligned index width then none
        else if kind = 0x01#8 then
          if slotRefOk (value2 r1 r0) width then some (.source width (value2 r1 r0) (tagOf tp tv)) else none
        else if kind = 0x02#8 then
          if value2 r1 r0 < 256 then some (.group width (value2 r1 r0) (tagOf tp tv)) else none
        else if kind = 0x03#8 then
          if slotRefOk (value2 r1 r0) width then some (.follow width (value2 r1 r0) (tagOf tp tv)) else none
        else none
  | _ => none

/-- The 4 bytes of a Source Profile. -/
def profileBytes : Option Profile → List Byte
  | none => [0x00#8, 0x00#8] ++ byte2 0
  | some p =>
    [BitVec.ofNat 8 (0x80 + (if p.expectedTag.isSome then 0x40 else 0) + p.width.toNat), p.expectedTag.getD 0]
      ++ byte2 p.threshold

/-- Decode the profile for an index, with the local checks of R60 beyond the index range and T as received; none is
BAD_ARGUMENT. -/
def decodeProfile (index : Nat) : List Byte → Option (Option Profile)
  | [b0, tag, t1, t0] =>
    if !b0.getLsbD 7 then some none
    else
      match widthOf (b0.toNat % 16) with
      | none => none
      | some width =>
        if aligned index width then
          some (some ⟨width, if b0.getLsbD 6 then some tag else none, value2 t1 t0⟩)
        else none
  | _ => none

/-- The 8 bytes of a Group Table entry. -/
def groupBytes : Option GroupDef → List Byte
  | none => [0x00#8] ++ byte2 0xFFFF ++ byte2 0xFFFF ++ byte1 0 ++ byte1 30 ++ [0x00#8]
  | some g =>
    [BitVec.ofNat 8 (0x80 + (if g.revertive then 0x40 else 0) + g.width.toNat)] ++ byte2 g.working ++ byte2 g.protect
      ++ byte1 g.holdOff ++ byte1 g.restoreWait ++ [0x00#8]

/-- Decode a group entry, with the local checks of R61 and the timer settings as received; none is BAD_ARGUMENT. -/
def decodeGroup : List Byte → Option (Option GroupDef)
  | [b0, w1, w0, p1, p0, ho, rw, _] =>
    if !b0.getLsbD 7 then some none
    else
      match widthOf (b0.toNat % 16) with
      | none => none
      | some width =>
        if slotRefOk (value2 w1 w0) width && slotRefOk (value2 p1 p0) width then
          some (some ⟨width, value2 w1 w0, value2 p1 p0, b0.getLsbD 6, ho.toNat, rw.toNat⟩)
        else none
  | _ => none

/-- R60: a T above 4095 becomes 4095. -/
def Profile.clamp (p : Profile) : Profile := { p with threshold := min p.threshold 4095 }

/-- R61: a hold-off above 100 becomes 100, a restore wait of 0 becomes 1 and one above 72 becomes 72. -/
def GroupDef.clamp (g : GroupDef) : GroupDef :=
  { g with holdOff := min g.holdOff 100, restoreWait := max 1 (min g.restoreWait 72) }

/-! ### Watch entries and notices -/

/-- The 6 bytes of a watch entry; an absent pattern set is FFh. -/
def watchBytes (w : Watch) : List Byte :=
  [flagByte w.enabled] ++ byte1 w.level.code ++ [flagByte w.polarity] ++ byte1 w.type.code ++ byte1 w.cls
    ++ byte1 (w.pattern.getD 0xFF)

/-- A watched level of an argument. -/
def watchLevelOf (b : Byte) : Option WatchLevel :=
  if b = 0x00#8 then some .failed else if b = 0x01#8 then some .degradedOrWorse else none

/-- A watch type of an argument. -/
def watchTypeOf (b : Byte) : Option WatchType :=
  if b = 0x00#8 then some .level else if b = 0x01#8 then some .change else none

/-- A pattern set field of an argument: FFh absent, 0 to 7 present, others refused (R122). -/
def patternFieldOf (b : Byte) : Option (Option Nat) :=
  if b = 0xFF#8 then some none else if b.toNat ≤ 7 then some (some b.toNat) else none

/-- Decode the 6 bytes of a watch entry (R122); the latch is the one given. -/
def decodeWatch (latch : Bool) : List Byte → Option Watch
  | [en, lv, pol, ty, cls, pat] =>
    match flagOf en, watchLevelOf lv, flagOf pol, watchTypeOf ty, patternFieldOf pat with
    | some e, some l, some p, some t, some ps =>
      if cls.toNat ≤ 15 then some ⟨e, l, p, t, cls.toNat, ps, latch⟩ else none
    | _, _, _, _, _ => none
  | _ => none

/-- The triple or pair bytes of an OP_DONE result: table, index, rule; zeros when neither is carried. -/
def OpResult.tripleBytes : OpResult → List Byte
  | .invalid t i r => byte1 t.code ++ byte2 i ++ byte1 r
  | .differs t i => byte1 t.code ++ byte2 i ++ byte1 0
  | _ => byte1 0 ++ byte2 0 ++ byte1 0

/-- The field bytes of a notice by kind (file 12, Notices). -/
def NoticeBody.fieldBytes : NoticeBody → List Byte
  | .watch s c v => byte2 s ++ byte1 c ++ [flagByte v]
  | .pattern p c => byte1 p ++ byte1 c
  | .groupSwitch g f t c => byte1 g ++ byte1 f.code ++ byte1 t.code ++ byte1 c.code
  | .requestDisplaced g k o c => byte1 g ++ byte1 k.code ++ byte1 (linkCode o) ++ byte1 c.code
  | .bankActivated b r p => byte1 b.val ++ byte2 r.toNat ++ byte1 (bankCode p)
  | .activationRefused b t i r => byte1 b.val ++ byte1 t.code ++ byte2 i ++ byte1 r
  | .opDone o b r res => byte1 o.code ++ byte1 b.val ++ byte2 r.toNat ++ byte1 res.code ++ res.tripleBytes
  | .timing regained => byte1 (if regained then 1 else 0)
  | .start o => byte1 o.code

/-- The 16 bytes of a notice: kind, seconds, frame, fields, zeros. -/
def noticeBytes (n : Notice) : List Byte :=
  (byte1 n.body.kindCode ++ byte4 n.seconds.toNat ++ byte2 n.frame ++ n.body.fieldBytes
    ++ List.replicate 9 0x00#8).take 16

end Sys2Proof.Machine
end

