-- ==== Sys2Proof/Machine/Flags.lean ====
section
/-! DEFINITION. The levels, flags and conditions that are computed from other state: the severity of conditions, the raw
condition of a source, the watched level, the rank and target of a request, and the status word. -/

namespace Sys2Proof.Machine

/-- The order of severity: OK, DEGRADED, FAILED (R112). -/
def Cond.severity : Cond → Nat
  | .ok => 0
  | .degraded => 1
  | .failed => 2

/-- The raw condition that a source's levels and its line's levels give (R112). -/
def rawCondition (line : LineDefects) (d : DefectRec) : Cond :=
  if line.absent || line.lost || d.marker || d.mismatch then .failed
  else if d.degrade || d.excursion then .degraded
  else .ok

/-- The raw condition of a source as its levels now stand (R112): OK while its store is IDLE. -/
def State.derivedRaw (s : State) (n : Nat) : Cond :=
  if (s.store n).state = .idle then .ok else rawCondition (s.lineDefect (lineOfSlot n)) (s.defect n)

/-- The watched level of a raw condition (R118). -/
def WatchLevel.value : WatchLevel → Cond → Bool
  | .failed, c => c == .failed
  | .degradedOrWorse, c => c != .ok

/-- The rank of a request kind (R131). -/
def ReqKind.rank : ReqKind → Nat
  | .noRequest => 0
  | .restoreWait => 1
  | .manualWorking => 2
  | .manualProtect => 2
  | .degradeWorking => 3
  | .degradeProtect => 4
  | .failWorking => 5
  | .forceProtect => 6
  | .failProtect => 7
  | .holdWorking => 8

/-- The manual kinds (R131). -/
def ReqKind.isManual : ReqKind → Bool
  | .manualWorking | .manualProtect => true
  | .noRequest | .restoreWait | .degradeWorking | .degradeProtect | .failWorking | .forceProtect | .failProtect
  | .holdWorking => false

/-- The condition kinds (R131). -/
def ReqKind.isCondition : ReqKind → Bool
  | .degradeWorking | .degradeProtect | .failWorking | .failProtect => true
  | .noRequest | .restoreWait | .manualWorking | .manualProtect | .forceProtect | .holdWorking => false

/-- The side a group selects while a kind governs (R131, R145). -/
def ReqKind.target (revertive : Bool) (selection : Selection) : ReqKind → Selection
  | .holdWorking => .working
  | .failProtect => .working
  | .forceProtect => .protect
  | .failWorking => .protect
  | .degradeProtect => .working
  | .degradeWorking => .protect
  | .manualProtect => .protect
  | .manualWorking => .working
  | .restoreWait => .protect
  | .noRequest => if revertive then .working else selection

/-- The condition kind a side gives (R131): FAIL for an effective FAILED, DEGRADE for DEGRADED, none for OK. -/
def conditionKind : Side → Cond → Option ReqKind
  | _, .ok => none
  | .working, .degraded => some .degradeWorking
  | .working, .failed => some .failWorking
  | .protect, .degraded => some .degradeProtect
  | .protect, .failed => some .failProtect

/-- A status word bit at its place. -/
def statusBit (b : Bool) (place : Nat) : Nat := if b then 2 ^ place else 0

/-- The status word of a link as it stands (R162, file 12). -/
def State.statusWord (s : State) (x : Link) : Half :=
  BitVec.ofNat 16
    (statusBit s.mapEngine.isNone 15 + statusBit s.image.op.isNone 14 + statusBit s.image.finished 13
      + (match s.image.outcome with | some o => o.code | none => 0) * 2048 + bankCode s.active * 512
      + statusBit s.time.refPresent 8 + statusBit (!(s.link x).queue.isEmpty) 7 + statusBit (s.link x).lost 6
      + statusBit (s.link x).alert 5 + statusBit (s.link x).overrun 4)

end Sys2Proof.Machine
end

