-- ==== Sys2Proof/Machine/Protection.lean ====
section
/-! DEFINITION. The Protection Engine (file 08): side conditions and hold-off, the evaluation of a group, its timers and
its reconciliation at an adoption. -/

namespace Sys2Proof.Machine

/-- A raw condition change of a source, as the Defect Monitor delivers it (R113). -/
structure RawChange where
  source : Nat
  old    : Cond
  new    : Cond
deriving DecidableEq, Repr

/-- Core frames of a hold-off setting: 400 a unit (R129). -/
def holdOffFrames (h : Nat) : Nat := h * 400

/-- Core frames of a restore wait setting: 40,000 a unit (R129). -/
def restoreFrames (r : Nat) : Nat := r * 40000

/-- A side takes a new raw condition (R138, R139): a worsening waits for the hold-off, anything else cancels the timer
and takes effect at once. -/
def SideRec.change (holdOff : Nat) (raw : Cond) (sd : SideRec) : SideRec :=
  if sd.eff.severity < raw.severity then
    if holdOff = 0 then ⟨raw, raw, 0⟩
    else if sd.timer = 0 then ⟨raw, sd.eff, holdOffFrames holdOff⟩
    else ⟨raw, sd.eff, sd.timer⟩
  else ⟨raw, raw, 0⟩

/-- A boundary counted against a hold-off timer that runs; at its expiry the effective condition becomes the raw
condition then present (R140). -/
def SideRec.count (sd : SideRec) : SideRec :=
  if sd.timer = 0 then sd
  else if sd.timer = 1 then { sd with timer := 0, eff := sd.raw }
  else { sd with timer := sd.timer - 1 }

/-! ### Evaluation (R141 to R146) -/

/-- R142: the restore-wait timer is cancelled if the group is not revertive or its selection is WORKING. -/
def GroupRec.settle (d : GroupDef) (r : GroupRec) : GroupRec :=
  if !d.revertive || r.selection == .working then { r with restore := 0 } else r

/-- The higher ranked of two kinds. -/
def higherKind (a b : ReqKind) : ReqKind := if a.rank < b.rank then b else a

/-- R142: the candidate is the highest ranked of the top of the list, the condition kinds of both sides, RESTORE_WAIT
while its timer runs, and NONE. -/
def GroupRec.candidate (r : GroupRec) : ReqKind :=
  ([(r.requests.head?.map (·.kind)).getD .noRequest,
      (conditionKind .working r.working.eff).getD .noRequest,
      (conditionKind .protect r.protect.eff).getD .noRequest,
      if r.restore = 0 then .noRequest else .restoreWait]).foldl higherKind .noRequest

/-- R143: the manual request of the list, if a candidate of higher rank displaces it. -/
def GroupRec.displaced (cand : ReqKind) (r : GroupRec) : List Request :=
  if 2 < cand.rank then r.requests.filter (·.kind.isManual) else []

/-- R143: the list without a displaced manual request. -/
def GroupRec.keptRequests (cand : ReqKind) (r : GroupRec) : List Request :=
  if 2 < cand.rank then r.requests.filter (fun q => !q.kind.isManual) else r.requests

/-- R144: whether the restore wait starts: NONE, revertive, PROTECT selected, and a working defect governed before. -/
def GroupRec.restoreStarts (d : GroupDef) (cand : ReqKind) (r : GroupRec) : Bool :=
  cand == .noRequest && d.revertive && r.selection == .protect
    && (r.governing == .failWorking || r.governing == .degradeWorking)

/-- R145: the governing request that the evaluation leaves. -/
def GroupRec.governed (d : GroupDef) (cand : ReqKind) (r : GroupRec) : ReqKind :=
  if r.restoreStarts d cand then .restoreWait else cand

/-- R144: the restore-wait timer that the evaluation leaves. -/
def GroupRec.restoreAfter (d : GroupDef) (cand : ReqKind) (r : GroupRec) : Nat :=
  if r.restoreStarts d cand then restoreFrames d.restoreWait else if 1 < cand.rank then 0 else r.restore

/-- R146: the group switches to a target with a cause, at a site time. -/
def GroupRec.switchTo (target : Selection) (cause : ReqKind) (seconds : Word) (frame : Nat) (r : GroupRec) : GroupRec :=
  { r with
    selection := target
    switchCount := min (r.switchCount + 1) 65535
    stamp := if r.held then r.stamp else some ⟨seconds, frame, r.selection, target, cause⟩
    held := r.held || r.lock }

/-- The evaluation of a group (R141): its record afterwards, and the notices it raises, REQUEST_DISPLACED first. An
undefined group is not evaluated. -/
def GroupRec.evaluate (g : Nat) (seconds : Word) (frame : Nat) (r : GroupRec) : GroupRec × List NoticeBody :=
  match r.settings with
  | none => (r, [])
  | some d =>
    let r := r.settle d
    let cand := r.candidate
    let governing := r.governed d cand
    let target := governing.target d.revertive r.selection
    let displaced := (r.displaced cand).map fun q =>
      NoticeBody.requestDisplaced g q.kind q.origin (if cand.isCondition then .defect else .higherRequest)
    let after : GroupRec :=
      { r with requests := r.keptRequests cand, restore := r.restoreAfter d cand, governing := governing }
    if target = r.selection then (after, displaced)
    else
      (after.switchTo target governing seconds frame,
        displaced ++ [.groupSwitch g r.selection target (.request governing)])

/-- Within an event, a group takes a record and is evaluated (R141). -/
def Ev.evaluateGroup (g : Nat) (r : GroupRec) (e : Ev) : Ev :=
  let out := r.evaluate g e.st.time.seconds e.st.time.frame
  (e.modify (·.setGroup g out.1)).raiseAll .protection out.2

/-! ### Condition changes and timers -/

/-- The new raw condition that a list of changes gives a source. -/
def newRaw (changes : List RawChange) (n : Nat) : Option Cond := (changes.find? (·.source = n)).map (·.new)

/-- A side takes the change of its source, if there is one (R137). -/
def SideRec.take (changes : List RawChange) (source holdOff : Nat) (sd : SideRec) : SideRec :=
  match newRaw changes source with
  | some c => sd.change holdOff c
  | none => sd

/-- Both sides of a defined group take the changes of their sources (R137, step 1). -/
def GroupRec.takeChanges (changes : List RawChange) (r : GroupRec) : GroupRec :=
  match r.settings with
  | none => r
  | some d =>
    { r with
      working := r.working.take changes d.working d.holdOff
      protect := r.protect.take changes d.protect d.holdOff }

/-- Whether a defined group names a changed source (R137). -/
def GroupRec.touchedBy (changes : List RawChange) (r : GroupRec) : Bool :=
  match r.settings with
  | none => false
  | some d => (newRaw changes d.working).isSome || (newRaw changes d.protect).isSome

/-- R137: the engine takes all the changes of one Defect Monitor event as one event, and evaluates each touched group
once, in ascending group number. -/
def Ev.deliverChanges (changes : List RawChange) (e : Ev) : Ev :=
  e.st.groups.keys.foldl
    (fun e g =>
      if (e.st.group g).touchedBy changes then e.evaluateGroup g ((e.st.group g).takeChanges changes) else e) e

/-- One boundary counted against a group's timers (R140), for the timers that ran when the boundary began (`before`). -/
def GroupRec.countTimers (before r : GroupRec) : GroupRec :=
  match r.settings with
  | none => r
  | some _ =>
    { r with
      working := if before.working.timer = 0 then r.working else r.working.count
      protect := if before.protect.timer = 0 then r.protect else r.protect.count
      restore := if before.restore = 0 then r.restore else r.restore - 1 }

/-- Whether counting a boundary made a timer of the group expire (R140). -/
def timersExpired (r counted : GroupRec) : Bool :=
  (r.working.timer != 0 && counted.working.timer == 0) || (r.protect.timer != 0 && counted.protect.timer == 0)
    || (r.restore != 0 && counted.restore == 0)

/-- One boundary counted against the timers of one group; the expiries of the group are one event, after which it is
evaluated once (R140). -/
def Ev.countGroup (before : GroupRec) (g : Nat) (e : Ev) : Ev :=
  let r := e.st.group g
  let counted := before.countTimers r
  if timersExpired r counted then e.evaluateGroup g counted else e.modify (·.setGroup g counted)

/-- One boundary counted against the timers of the groups that `which` picks, in ascending group number (R140). -/
def Ev.countTimers (start : State) (which : Nat → Bool) (e : Ev) : Ev :=
  e.st.groups.keys.foldl (fun e g => if which g then e.countGroup (start.group g) g else e) e

/-! ### The controller request list -/

/-- R132: an entry is inserted at the position its rank gives. -/
def insertRequest (q : Request) : List Request → List Request
  | [] => [q]
  | p :: rest => if p.kind.rank < q.kind.rank then q :: p :: rest else p :: insertRequest q rest

/-! ### Reconciliation (R150 to R153) -/

/-- The class of a group at an adoption (R150). -/
inductive GroupClass where
  | undefined
  | removal
  | fresh (new : GroupDef)
  | kept (new : GroupDef)
  | redefined (new : GroupDef)
deriving DecidableEq, Repr

/-- R150: the class by the entries of the previous active bank and of the bank adopted. -/
def groupClass : Option GroupDef → Option GroupDef → GroupClass
  | none, none => .undefined
  | some _, none => .removal
  | none, some n => .fresh n
  | some o, some n =>
    if o.width == n.width && o.working == n.working && o.protect == n.protect then .kept n else .redefined n

/-- The notices of a removal (R151): one REQUEST_DISPLACED for each entry, then GROUP_SWITCH if PROTECT was selected. -/
def GroupRec.removalNotices (g : Nat) (r : GroupRec) : List NoticeBody :=
  r.requests.map (fun q => .requestDisplaced g q.kind q.origin .groupRemoved)
    ++ if r.selection = .protect then [.groupSwitch g .protect .working .groupRemoved] else []

/-- A fresh record (R152): reset values, settings from the bank, each side's conditions the raw condition the Defect
Monitor holds for its source, without hold-off. -/
def freshGroup (s : State) (d : GroupDef) : GroupRec :=
  { GroupRec.reset with
    settings := some d
    working := ⟨(s.defect d.working).raw, (s.defect d.working).raw, 0⟩
    protect := ⟨(s.defect d.protect).raw, (s.defect d.protect).raw, 0⟩ }

/-- The reconciliation of one group (R150): its timers are counted, its class is applied, the adoption's condition
changes reach it, and it is evaluated once. -/
def Ev.reconcileGroup (old new : Bank) (changes : List RawChange) (g : Nat) (e : Ev) : Ev :=
  let r := (e.st.group g).countTimers (e.st.group g)
  match groupClass (old.groupDef g) (new.groupDef g) with
  | .undefined => e
  | .removal => (e.modify (·.setGroup g GroupRec.reset)).raiseAll .protection (r.removalNotices g)
  | .fresh d => e.evaluateGroup g (freshGroup e.st d)
  | .kept d => e.evaluateGroup g (({ r with settings := some d } : GroupRec).takeChanges changes)
  | .redefined d => (e.raiseAll .protection (r.removalNotices g)).evaluateGroup g (freshGroup e.st d)

/-- Every group number is reconciled, in ascending order (R150). -/
def Ev.reconcile (old new : Bank) (changes : List RawChange) (e : Ev) : Ev :=
  (sortedUnique (old.groups.keys ++ new.groups.keys)).foldl (fun e g => e.reconcileGroup old new changes g) e

end Sys2Proof.Machine
end

