-- ==== Sys2Proof/Machine/Monitor.lean ====
section
/-! DEFINITION. The Defect Monitor (file 07): reports from the other blocks, raw condition changes, errored events and
degrade, the Watch Table and the pattern sets. -/

namespace Sys2Proof.Machine

/-! ### Watches (R117 to R121) and pattern sets (R125) -/

/-- An entry's condition holds (R118): its index is a watched head and its watched level equals its polarity. -/
def State.watchHolds (s : State) (n : Nat) : Bool :=
  s.isHead n && ((s.watch n).level.value (s.defect n).raw == (s.watch n).polarity)

/-- A watch latches and raises its notice, if it is enabled and its latch is clear (R119 to R121). -/
def Ev.latchWatch (n : Nat) (e : Ev) : Ev :=
  let w := e.st.watch n
  if w.enabled && !w.latch then
    (e.modify (·.setWatch n { w with latch := true })).raise .monitor
      (.watch n w.cls (w.level.value (e.st.defect n).raw))
  else e

/-- A LEVEL entry latches on its condition (R119); a CHANGE entry is not evaluated. -/
def Ev.evalLevelWatch (n : Nat) (e : Ev) : Ev :=
  if (e.st.watch n).type = .level ∧ e.st.watchHolds n = true then e.latchWatch n else e

/-- A raw condition change is a transition of an entry (R118): it changes the watched level, at a watched head. -/
def State.isTransition (s : State) (c : RawChange) : Bool :=
  s.isHead c.source && ((s.watch c.source).level.value c.old != (s.watch c.source).level.value c.new)

/-- The watch of a source at a raw condition change of it: LEVEL on its condition (R119), CHANGE on a transition
(R120). -/
def Ev.evalWatchAtChange (c : RawChange) (e : Ev) : Ev :=
  match (e.st.watch c.source).type with
  | .level => e.evalLevelWatch c.source
  | .change => if e.st.isTransition c then e.latchWatch c.source else e

/-- The members of a pattern set (R125): the watched heads whose entry names it. -/
def State.patternMembers (s : State) (p : Nat) : List Nat :=
  s.watches.keys.filter (fun n => s.isHead n && (s.watch n).pattern == some p)

/-- The condition of a pattern set (R125): at least one member, and every member's level equals its polarity. -/
def State.patternHolds (s : State) (p : Nat) : Bool :=
  !(s.patternMembers p).isEmpty && (s.patternMembers p).all (fun n => s.watchHolds n)

/-- A pattern set is evaluated (R125). -/
def Ev.evalPattern (p : Nat) (e : Ev) : Ev :=
  let t := e.st.pattern p
  if t.enabled && !t.latch && e.st.patternHolds p then
    (e.modify (·.setPattern p { t with latch := true })).raise .monitor (.pattern p t.cls)
  else e

/-- Every pattern set is evaluated, in ascending number (R125). -/
def Ev.evalPatterns (e : Ev) : Ev := (List.range 8).foldl (fun e p => e.evalPattern p) e

/-! ### Raw condition changes (R113) -/

/-- The raw condition changes that an event leaves at the sources it touched (R113). -/
def State.rawChanges (s : State) (touched : List Nat) : List RawChange :=
  touched.filterMap fun n =>
    if (s.defect n).raw = s.derivedRaw n then none else some ⟨n, (s.defect n).raw, s.derivedRaw n⟩

/-- The new raw conditions are stored (R113, step 1). -/
def State.storeRaw (s : State) (changes : List RawChange) : State :=
  changes.foldl (fun s c => s.setDefect c.source { s.defect c.source with raw := c.new }) s

/-- The end of an event at the Defect Monitor (R113): the raw condition of every touched source is derived, changes are
stored, delivered to the Protection Engine, and the watches and pattern sets are evaluated. -/
def Ev.settleRaw (touched : List Nat) (e : Ev) : Ev :=
  let changes := e.st.rawChanges touched
  if changes.isEmpty then e
  else
    ((changes.foldl (fun e c => e.evalWatchAtChange c)
      ((e.modify (·.storeRaw changes)).deliverChanges changes))).evalPatterns

/-! ### Reports (R111) -/

/-- The source's store is PRIMING or RUNNING, so that reports against it are applied (R111). -/
def State.referencedNow (s : State) (n : Nat) : Bool := (s.store n).state != .idle

/-- A report against a source changes its levels; it is disregarded while the store is IDLE (R111, R113). -/
def Ev.sourceReport (n : Nat) (f : DefectRec → DefectRec) (e : Ev) : Ev :=
  if e.st.referencedNow n then (e.modify (fun s => s.setDefect n (f (s.defect n)))).settleRaw [n] else e

/-- An errored event is counted in the window in progress, holding at 65535 (R114). -/
def DefectRec.countError (d : DefectRec) : DefectRec := { d with errored := min (d.errored + 1) 65535 }

/-- An errored event against a source (R111, R114). -/
def State.erroredEvent (s : State) (n : Nat) : State :=
  if s.referencedNow n then s.setDefect n (s.defect n).countError else s

/-- The sources on a line whose stores are not IDLE, in ascending number. -/
def State.sourcesOnLine (s : State) (l : Nat) : List Nat :=
  s.stores.keys.filter (fun n => s.referencedNow n && lineOfSlot n == l)

/-- A change of a line defect level of a line (R111): applied whatever the state of the sources, then every source of
the line that is evaluated has its raw condition derived. -/
def Ev.lineReport (l : Nat) (f : LineDefects → LineDefects) (e : Ev) : Ev :=
  (e.modify (fun s => s.setLineDefect l (f (s.lineDefect l)))).settleRaw (e.st.sourcesOnLine l)

/-! ### Degrade (R115, R116) -/

/-- R115: DEGRADE after a window end, from the errored-event count n and the threshold T. -/
def degradeAfter (t n : Nat) (before : Bool) : Bool :=
  if t = 0 then false else if t ≤ n then true else if n ≤ t / 2 then false else before

/-- The degrade threshold of a source in the active bank; 0 at an undefined profile (R54). -/
def State.threshold (s : State) (n : Nat) : Nat :=
  match s.activeBank.profile n with
  | some p => p.threshold
  | none => 0

/-- R116: every errored-event count returns to 0 at a restart of windows. -/
def State.clearErrored (s : State) : State :=
  { s with defects := s.defects.mapAll DefectRec.reset (fun _ d => { d with errored := 0 }) }

end Sys2Proof.Machine
end

