-- ==== Sys2Proof/Machine/Stores.lean ====
section
/-! DEFINITION. The elastic stores and the Justification Controller (file 02): arrivals, the core frame decision, window
counting. -/

namespace Sys2Proof.Machine

/-- The fill F: the number of stored bytes (R20). -/
def Store.fill (st : Store) : Nat := st.bytes.length

/-- The width of a store in base slots; 0 while it has none. -/
def Store.w (st : Store) : Nat :=
  match st.width with
  | some w => w.toNat
  | none => 0

/-- A slip (R35): the slip count rises by 1, holding at 255. -/
def bumpSlips (n : Nat) : Nat := min (n + 1) 255

/-- An arrival of bytes reaches a store (R22 to R24): the store afterwards, and whether it overflowed. -/
def Store.arrive (bs : List Byte) (st : Store) : Store × Bool :=
  if st.state = .idle then (st, false)
  else if st.fill + bs.length ≤ 256 * st.w then ({ st with bytes := st.bytes ++ bs }, false)
  else
    let full := (st.bytes ++ bs).take (256 * st.w)
    ({ st with bytes := full.drop (full.length - 128 * st.w), integrator := 0, slips := bumpSlips st.slips }, true)

/-- What a store hands the Switch at a boundary (R25): code, bytes, and whether the decision was a PRIMING decision of
zero bytes (R26, R103). -/
structure Take where
  code    : TakeCode
  bytes   : List Byte
  priming : Bool
deriving DecidableEq, Repr

/-- R28: the clamp of the integrator to -4095 to +4095. -/
def clampIntegrator (i : Int) : Int := max (-4095) (min i 4095)

/-- R27, R28: the decision of a RUNNING store with fill f, width w and integrator i under threshold j: the code, and the
integrator afterwards. -/
def justify (j : Nat) (w f : Nat) (i : Int) : TakeCode × Int :=
  if 256 * w - 16 ≤ f then (.advance, 0)
  else if f ≤ 64 * w + 16 then (.retard, 0)
  else
    let sum := clampIntegrator (i + ((f : Int) - 128 * w))
    if (j : Int) ≤ sum then (.advance, sum - j)
    else if sum ≤ -(j : Int) then (.retard, sum + j)
    else (.nominal, sum)

/-- The bytes a RUNNING decision asks for: 64w, 64w + 1 or 64w - 1 (R27, R28). -/
def takeCount (c : TakeCode) (w : Nat) : Nat :=
  match c with
  | .nominal => 64 * w
  | .advance => 64 * w + 1
  | .retard => 64 * w - 1

/-- A RUNNING decision (R27 to R33): the store afterwards, its take, and whether it underflowed. -/
def Store.decideRunning (j : Nat) (st : Store) : Store × Take × Bool :=
  let d := justify j st.w st.fill st.integrator
  let t := takeCount d.1 st.w
  let counted : Store :=
    { st with
      lastCode := d.1
      advances := if d.1 = .advance then st.advances + 1 else st.advances
      retards := if d.1 = .retard then st.retards + 1 else st.retards }
  if t ≤ st.fill then
    ({ counted with state := .running, integrator := d.2, bytes := st.bytes.drop t },
      ⟨d.1, st.bytes.take t, false⟩, false)
  else
    ({ counted with
        state := .priming, integrator := 0, bytes := [], slips := bumpSlips st.slips, complete := false },
      ⟨d.1, st.bytes ++ List.replicate (t - st.fill) 0, false⟩, true)

/-- The core frame decision of a store (R25, R26). An IDLE store makes none. -/
def Store.decide (j : Nat) (st : Store) : Store × Option Take × Bool :=
  match st.state with
  | .idle => (st, none, false)
  | .priming =>
    if st.fill < 128 * st.w then ({ st with lastCode := .nominal }, some ⟨.nominal, [], true⟩, false)
    else
      let out := { st with state := .running, integrator := 0 : Store }.decideRunning j
      (out.1, some out.2.1, out.2.2)
  | .running =>
    let out := st.decideRunning j
    (out.1, some out.2.1, out.2.2)

/-- The sources whose stores decide at a boundary, in ascending number. -/
def State.deciding (s : State) : List Nat := s.stores.keys.filter (fun n => s.referencedNow n)

/-- The take each deciding store hands the Switch at this boundary (R25). -/
def State.takeOf (s : State) (n : Nat) : Option Take := ((s.store n).decide s.rate.j).2.1

/-- One store decides; an underflow is an errored event against its source (R31). -/
def State.decideStore (s : State) (n : Nat) : State :=
  let out := (s.store n).decide s.rate.j
  let s' := s.setStore n out.1
  if out.2.2 then s'.erroredEvent n else s'

/-- Every store that is not IDLE decides (R25). -/
def State.decideStores (s : State) : State := s.deciding.foldl State.decideStore s

/-- R49: the window counts and the window-complete flag are cleared at a restart of windows. -/
def Store.restartWindow (st : Store) : Store := { st with advances := 0, retards := 0, complete := false }

/-- R33, R34: a store at a window end, after the Rate Monitor has read it. -/
def Store.endWindow (st : Store) : Store :=
  { st with advances := 0, retards := 0, complete := st.state == .running }

/-- R37: a store told to start anew. -/
def Store.startAnew (w : Option Width) : Store := { Store.reset with state := .priming, width := w }

end Sys2Proof.Machine
end

