-- ==== Sys2Proof/Machine/Rate.lean ====
section
/-! DEFINITION. The Rate Monitor (file 03): the estimate and RATE_EXCURSION at a window end, and the restart of windows at
a change of k. -/

namespace Sys2Proof.Machine

/-- R45: the quotient E0, truncated toward zero. -/
def rateQuotient (k w advances retards : Nat) : Int :=
  Int.tdiv (((advances : Int) - retards) * 10000000) ((2 : Int) ^ k * (64 * w))

/-- R45: the estimate and the saturated flag from the truncated quotient. -/
def saturateEstimate (e : Int) : Int × Bool :=
  if 32767 < e then (32767, true) else if e < -32767 then (-32767, true) else (e, false)

/-- R44 to R46: the evaluation of a source's rate record at a window end. -/
def RateRec.evaluate (k l : Nat) (st : Store) (r : RateRec) : RateRec :=
  if st.complete then
    let e := saturateEstimate (rateQuotient k st.w st.advances st.retards)
    { r with estimate := e.1, saturated := e.2, valid := true, excursion := e.2 || decide ((l : Int) < |e.1|) }
  else { r with valid := false, excursion := false }

/-- R115: the defect record of a source at a window end, before its raw condition is derived: the RATE_EXCURSION change
if one is reported, DEGRADE unless the source became referenced during the window, and the count back to 0. -/
def DefectRec.endWindow (threshold : Nat) (before after : RateRec) (d : DefectRec) : DefectRec :=
  { d with
    excursion := if after.excursion = before.excursion then d.excursion else after.excursion
    degrade := if before.newInWindow then d.degrade else degradeAfter threshold d.errored d.degrade
    errored := 0 }

/-- One source at a window end (R44, R47, R115). -/
def Ev.endWindowOf (n : Nat) (e : Ev) : Ev :=
  let before := e.st.rateOf n
  let after := before.evaluate e.st.rate.k e.st.rate.l (e.st.store n)
  (e.modify (fun s =>
    ((s.setStore n (s.store n).endWindow).setRate n { after with newInWindow := false }).setDefect n
      ((s.defect n).endWindow (s.threshold n) before after))).settleRaw [n]

/-- The window end (R44): every source whose store is PRIMING or RUNNING, in ascending number. -/
def Ev.windowEnd (e : Ev) : Ev := e.st.deciding.foldl (fun e n => e.endWindowOf n) e

/-- R49, R116: a pending exponent takes effect: the window counts, flags and errored-event counts restart. The window
that begins here is a whole window for every source already referenced. -/
def State.restartWindows (k : Nat) (s : State) : State :=
  { s.clearErrored with
    rate := { s.rate with k := k, pendingK := none, counter := 0 }
    stores := s.stores.mapAll Store.reset (fun _ st => st.restartWindow)
    rates := s.rates.mapAll RateRec.reset (fun _ r => { r with newInWindow := false }) }

/-- R42: the window counter reaches 2^k at the next boundary, and no pending exponent takes that boundary. -/
def State.windowEndsNext (s : State) : Bool := s.rate.pendingK.isNone && s.rate.counter + 1 == 2 ^ s.rate.k

end Sys2Proof.Machine
end

