-- ==== Sys2Proof/Machine/Lines.lean ====
section
/-! DEFINITION. The ingress side of the Line Interfaces (file 01): signal detection, frame alignment, and the work of an
ingress arrival at each source head. -/

namespace Sys2Proof.Machine

/-- The alignment word 4Eh 97h 1Dh C2h (R3). -/
def alignmentWord : Word := 0x4E971DC2#32

/-! ### Signal detection and alignment (R2 to R5) -/

/-- R2, R5: every ingress slot of a line loses its parity history and its runs; levels and accepted tags are kept. -/
def State.breakArrivals (l : Nat) (s : State) : State :=
  { s with
    slots := s.slots.mapAll Slot.reset (fun n sl =>
      if lineOfSlot n = l then { sl with markerRun := 0, mismatchRun := 0, parity := SlotParity.reset } else sl) }

/-- The LIF in HUNT: counts 0, no expected word position. -/
def Lif.hunting (lf : Lif) : Lif := { lf with align := .hunt, confirm := 0, miss := 0, expected := none }

/-- R2: the signal detector changes to signal absent. -/
def execSignalAbsent (l : LineNo) (s : State) : Answer :=
  let lf := s.lif l
  if !lf.signal then .next s
  else
    let e := ((Ev.start s).modify (fun s =>
      (s.setLif l { lf.hunting with signal := false }).breakArrivals l)).lineReport l (fun d => { d with absent := true })
    (if lf.align = .locked then e.lineReport l (fun d => { d with lost := true }) else e).done

/-- R2: the signal detector changes to signal present. -/
def execSignalPresent (l : LineNo) (s : State) : Answer :=
  let lf := s.lif l
  if lf.signal then .next s
  else
    (((Ev.start s).modify (·.setLif l { lf with signal := true })).lineReport l
      (fun d => { d with absent := false })).done

/-- R3: in HUNT, four received bytes are compared with the alignment word; at a find the LIF goes to CONFIRM. -/
def execAlignmentFind (l : LineNo) (position : Nat) (word : Word) (s : State) : Answer :=
  let lf := s.lif l
  if lf.align = .hunt ∧ lf.signal = true ∧ word = alignmentWord then
    .next (s.setLif l
      { lf with align := .confirm, confirm := 0, miss := 0, expected := some (position + frameLength l) })
  else .next s

/-- The expected word position moves on by one frame length. -/
def Lif.moveOn (l : LineNo) (lf : Lif) : Lif := { lf with expected := lf.expected.map (· + frameLength l) }

/-- R4: in CONFIRM, the four bytes at the expected word position are a hit or a miss. -/
def execConfirmWord (l : LineNo) (word : Word) (s : State) : Answer :=
  let lf := s.lif l
  if lf.align = .confirm then
    if word = alignmentWord then
      if 2 ≤ lf.confirm + 1 then
        (((Ev.start s).modify (·.setLif l
          { lf.moveOn l with align := .locked, confirm := lf.confirm + 1, miss := 0 })).lineReport l
            (fun d => { d with lost := false })).done
      else .next (s.setLif l { lf.moveOn l with confirm := lf.confirm + 1 })
    else .next (s.setLif l lf.hunting)
  else .next s

/-- R5: in LOCKED, the four bytes at the expected word position are a hit or a miss; the fourth consecutive miss returns
the LIF to HUNT. -/
def execLockedWord (l : LineNo) (word : Word) (s : State) : Answer :=
  let lf := s.lif l
  if lf.align = .locked then
    if word = alignmentWord then .next (s.setLif l { lf.moveOn l with miss := 0 })
    else if lf.miss + 1 < 4 then .next (s.setLif l { lf.moveOn l with miss := lf.miss + 1 })
    else
      (((Ev.start s).modify (fun s => (s.setLif l lf.hunting).breakArrivals l)).lineReport l
        (fun d => { d with lost := true })).done
  else .next s

/-! ### Ingress arrival (R6 to R11) -/

/-- A pair of code bits of a control byte, by the place of its lower bit (file 12). -/
def codePair (control : Byte) (place : Nat) : Nat := (control.toNat / 2 ^ place) % 4

/-- R7: the pair value that appears at least twice, if one does. -/
def majority (a b c : Nat) : Option Nat := if a = b ∨ a = c then some a else if b = c then some b else none

/-- R7: the code taken, and whether the frame is errored by its code. -/
def codeTaken (control : Byte) : TakeCode × Bool :=
  match majority (codePair control 6) (codePair control 4) (codePair control 2) with
  | some 0 => (.nominal, false)
  | some 1 => (.advance, false)
  | some 2 => (.retard, false)
  | _ => (.nominal, true)

/-- The XOR of some bytes (R8, R15). -/
def xorBytes (bs : List Byte) : Byte := bs.foldl (· ^^^ ·) 0

/-- The slot at a place of a received frame. -/
def rxSlot (slots : List RxSlot) (i : Nat) : RxSlot := slots.getD i ⟨0, 0, []⟩

/-- R8: the current arrival joins a slot's parity history. -/
def SlotParity.push (x : Byte) (p : SlotParity) : SlotParity := ⟨min (p.held + 1) 2, x, p.newer⟩

/-- R8: a phase-1 frame is in parity error when every covered slot holds 2 arrivals and their XOR differs from the
received overhead byte. -/
def parityError (phase : Bool) (overhead : Byte) (histories : List SlotParity) : Bool :=
  phase && histories.all (fun p => p.held == 2)
    && overhead != xorBytes (histories.flatMap (fun p => [p.newer, p.older]))

/-- R9: the marker bit of an arrival against the slot's MARKER level and run; whether the level changed. -/
def Slot.markerStep (bit : Bool) (sl : Slot) : Slot × Bool :=
  if bit = sl.marker then ({ sl with markerRun := 0 }, false)
  else if 3 ≤ sl.markerRun + 1 then ({ sl with marker := bit, markerRun := 0 }, true)
  else ({ sl with markerRun := sl.markerRun + 1 }, false)

/-- R10: the tag candidate after a received tag. -/
def candidateAfter (tag : Byte) : Option TagCandidate → TagCandidate
  | some c => if c.tag = tag then ⟨tag, min (c.run + 1) 5⟩ else ⟨tag, 1⟩
  | none => ⟨tag, 1⟩

/-- R10: the received tag of a phase-0 arrival against the candidate and the accepted tag. -/
def Slot.tagStep (tag : Byte) (sl : Slot) : Slot :=
  let c := candidateAfter tag sl.candidate
  { sl with candidate := some c, accepted := if 5 ≤ c.run then some tag else sl.accepted }

/-- R11: the received tag against the expected tag; whether TAG_MISMATCH changed. Without an expected tag nothing is
evaluated. -/
def Slot.mismatchStep (expected : Option Byte) (tag : Byte) (sl : Slot) : Slot × Bool :=
  match expected with
  | none => (sl, false)
  | some x =>
    if (tag != x) = sl.mismatch then ({ sl with mismatchRun := 0 }, false)
    else if 5 ≤ sl.mismatchRun + 1 then ({ sl with mismatch := !sl.mismatch, mismatchRun := 0 }, true)
    else ({ sl with mismatchRun := sl.mismatchRun + 1 }, false)

/-- R7, R8: the bytes of an arrival go to the source's store, and its errored events to the Defect Monitor. -/
def State.arriveStore (n : Nat) (bytes : List Byte) (errored : Bool) (s : State) : State :=
  let out := (s.store n).arrive bytes
  let s1 := s.setStore n out.1
  let s2 := if out.2 then s1.erroredEvent n else s1
  if errored then s2.erroredEvent n else s2

/-- R8: the parity histories of the covered slots take the XOR of each slot's 65 payload positions. -/
def State.pushParity (n : Nat) (w : Width) (base : Nat) (slots : List RxSlot) (s : State) : State :=
  { s with
    slots := s.slots.update Slot.reset (coveredSlots n w) (fun m sl =>
      { sl with parity := sl.parity.push (xorBytes (rxSlot slots (m - base)).payload) }) }

/-- R9: the marker of an arrival at a head, and the report of a change of MARKER. -/
def Ev.markerArrival (n : Nat) (bit : Bool) (e : Ev) : Ev :=
  let out := (e.st.slot n).markerStep bit
  let e1 := e.modify (·.setSlot n out.1)
  if out.2 then e1.sourceReport n (fun d => { d with marker := out.1.marker }) else e1

/-- R10, R11: the tag of a phase-0 arrival at a head, and the report of a change of TAG_MISMATCH. -/
def Ev.tagArrival (n : Nat) (expected : Option Byte) (tag : Byte) (e : Ev) : Ev :=
  let out := ((e.st.slot n).tagStep tag).mismatchStep expected tag
  let e1 := e.modify (·.setSlot n out.1)
  if out.2 then e1.sourceReport n (fun d => { d with mismatch := out.1.mismatch }) else e1

/-- The work of an arrival at one source head (R6): code and bytes, parity, marker, and on a phase-0 frame the tag. -/
def Ev.headArrival (base : Nat) (slots : List RxSlot) (n : Nat) (p : Profile) (e : Ev) : Ev :=
  let head := rxSlot slots (n - base)
  let covered := coveredSlots n p.width
  let code := codeTaken head.control
  let payload := covered.flatMap (fun m => (rxSlot slots (m - base)).payload)
  let phase := head.control.getLsbD 0
  let bad := code.2 || parityError phase head.overhead (covered.map (fun m => (e.st.slot m).parity))
  let e1 := e.modify (fun s =>
    (s.arriveStore n (payload.take (codeCount code.1 p.width)) bad).pushParity n p.width base slots)
  let e2 := e1.markerArrival n (head.control.getLsbD 1)
  if phase then e2 else e2.tagArrival n p.expectedTag head.overhead

/-- The source heads of the active bank on a line, in ascending number (R6). -/
def State.headsOnLine (s : State) (l : Nat) : List Nat :=
  s.activeBank.profiles.keys.filter (fun n => s.isHead n && lineOfSlot n == l)

/-- The work of an arrival at every source head of the line (R6). -/
def Ev.arrivals (l : Nat) (slots : List RxSlot) (e : Ev) : Ev :=
  (e.st.headsOnLine l).foldl
    (fun e n =>
      match e.st.activeBank.profile n with
      | some p => e.headArrival (firstSlot l) slots n p
      | none => e) e

/-- R5, R6: the end of a frame received in LOCKED is an ingress arrival. -/
def execIngressArrival (l : LineNo) (slots : List RxSlot) (s : State) : Answer :=
  if !wellFormedFrame l slots then .refused .illFormed
  else if (s.lif l).align = .locked then ((Ev.start s).arrivals l slots).done
  else .next s

end Sys2Proof.Machine
end

