-- ==== Sys2Proof/Machine/Switch.lean ====
section
/-! DEFINITION. The Tributary Switch and the egress side of the LIFs (files 05, 06, 01): adoption and what it tells the
other blocks, the resolution of every egress head, and the frame handed to the LIFs. -/

namespace Sys2Proof.Machine

/-! ### Adoption: stores, rates, LIFs and defect levels (R90, R91) -/

/-- The instruction of R90 to a source's store. -/
inductive StoreOrder where
  | nothing
  | keep
  | startAnew
  | enterIdle
deriving DecidableEq, Repr

/-- The width a bank gives a source it references: that of its Source Profile (R68). -/
def Bank.sourceWidth (b : Bank) (n : Nat) : Option Width := (b.profile n).map (·.width)

/-- R90: the instruction to a source by the bank active before and the bank adopted. -/
def storeOrder (old new : Bank) (n : Nat) : StoreOrder :=
  match decide (n ∈ old.referenced), decide (n ∈ new.referenced) with
  | false, false => .nothing
  | false, true => .startAnew
  | true, false => .enterIdle
  | true, true => if old.sourceWidth n = new.sourceWidth n then .keep else .startAnew

/-- A source is told to start anew or to enter IDLE. -/
def StoreOrder.changes : StoreOrder → Bool
  | .startAnew | .enterIdle => true
  | .nothing | .keep => false

/-- R36 to R38: a store carries out its instruction. -/
def Store.obey (o : StoreOrder) (w : Option Width) (st : Store) : Store :=
  match o with
  | .startAnew => Store.startAnew w
  | .enterIdle => Store.reset
  | .nothing | .keep => st

/-- R43, R47: a rate record at an adoption: reset values for a source that starts anew or enters IDLE. -/
def RateRec.obey (o : StoreOrder) (r : RateRec) : RateRec :=
  match o with
  | .startAnew => { RateRec.reset with newInWindow := true }
  | .enterIdle => RateRec.reset
  | .nothing | .keep => r

/-- R12: the LIF starts a head's state afresh: it starts anew or enters IDLE, or its profile is newly defined or has
changed width. -/
def headAfresh (old new : Bank) (n : Nat) : Bool :=
  StoreOrder.changes (storeOrder old new n)
    || ((new.profile n).isSome && old.sourceWidth n != new.sourceWidth n)

/-- R12: a head's per-slot state started afresh; the parity history is cleared with those of its covered slots. -/
def Slot.afresh (sl : Slot) : Slot :=
  { sl with
    markerRun := 0, marker := false, mismatchRun := 0, mismatch := false, candidate := none, accepted := none }

/-- R11: the mismatch state of a head that is not started afresh, when the adoption changes its expected tag. -/
def Slot.newExpectation (old new : Option Byte) (sl : Slot) : Slot :=
  match new with
  | none => { sl with mismatch := false, mismatchRun := 0 }
  | some _ => if old = new then sl else { sl with mismatchRun := 0 }

/-- The expected tag a bank gives a slot. -/
def Bank.expectedTag (b : Bank) (n : Nat) : Option Byte := (b.profile n).bind (·.expectedTag)

/-- R11, R12: the marker and tag state of a slot at an adoption. -/
def Slot.adopt (old new : Bank) (n : Nat) (sl : Slot) : Slot :=
  if headAfresh old new n then sl.afresh
  else if (new.profile n).isSome then sl.newExpectation (old.expectedTag n) (new.expectedTag n)
  else sl

/-- The slots whose parity history R12 clears for a head started afresh: those covered by its old and its new width
(DEDUCED, log entry 17). -/
def afreshCoverage (old new : Bank) (n : Nat) : List Nat :=
  (match old.sourceWidth n with | some w => coveredSlots n w | none => [])
    ++ (match new.sourceWidth n with | some w => coveredSlots n w | none => [])

/-- The sources that either bank references, ascending. -/
def adoptionSources (old new : Bank) : List Nat := sortedUnique (old.referenced ++ new.referenced)

/-- The slots that either bank makes a head or references, ascending. -/
def adoptionHeads (old new : Bank) : List Nat :=
  sortedUnique (adoptionSources old new ++ old.profiles.keys ++ new.profiles.keys)

/-- R11, R12: the LIFs at an adoption. -/
def State.adoptSlots (old new : Bank) (s : State) : State :=
  let heads := adoptionHeads old new
  let marked := s.slots.update Slot.reset heads (fun n sl => sl.adopt old new n)
  { s with
    slots := marked.update Slot.reset ((heads.filter (headAfresh old new)).flatMap (afreshCoverage old new))
      (fun _ sl => { sl with parity := SlotParity.reset }) }

/-- R91, R11: the defect levels of a source at an adoption, before its raw condition is derived. -/
def DefectRec.adopt (o : StoreOrder) (mismatch : Bool) (d : DefectRec) : DefectRec :=
  if StoreOrder.changes o then
    { d with marker := false, mismatch := false, degrade := false, excursion := false, errored := 0 }
  else { d with mismatch := mismatch }

/-- The sources whose TAG_MISMATCH the LIF cleared at the adoption although they are kept (R11). -/
def mismatchCleared (before after : State) (n : Nat) : Bool := (before.slot n).mismatch && !(after.slot n).mismatch

/-- R90, R91: the sources whose defect levels the adoption event changes. -/
def adoptionTouched (old new : Bank) (before after : State) : List Nat :=
  (adoptionSources old new).filter fun n =>
    StoreOrder.changes (storeOrder old new n) || (storeOrder old new n == .keep && mismatchCleared before after n)

/-- R90: the stores, the rate records, the LIFs and the defect levels at an adoption. -/
def State.adoptSources (old new : Bank) (s : State) : State :=
  let sources := adoptionSources old new
  let s1 := s.adoptSlots old new
  let touched := adoptionTouched old new s s1
  { s1 with
    stores := s.stores.update Store.reset sources (fun n st => st.obey (storeOrder old new n) (new.sourceWidth n))
    rates := s.rates.update RateRec.reset sources (fun n r => r.obey (storeOrder old new n))
    defects := s.defects.update DefectRec.reset touched (fun n d =>
      d.adopt (storeOrder old new n) (s1.slot n).mismatch) }

/-- The watch of a source at an adoption (R119, R120): LEVEL is evaluated at every index, CHANGE on a transition. -/
def Ev.evalWatchAtAdoption (changes : List RawChange) (n : Nat) (e : Ev) : Ev :=
  match (e.st.watch n).type with
  | .level => e.evalLevelWatch n
  | .change =>
    match changes.find? (·.source = n) with
    | some c => if e.st.isTransition c then e.latchWatch n else e
    | none => e

/-- R182, R183: start-up finishes with the report of its adoption; START is the first notice offered
(DEDUCED, log entries 24 and 27). -/
def State.finishStartUp (s : State) : State :=
  let outcome := s.image.toReport
  let s1 : State := { s with image := { s.image with op := none, finished := true, outcome := outcome } }
  match outcome with
  | some o => s1.offerOne ⟨.start o, s1.time.seconds, s1.time.frame⟩
  | none => s1

/-- R89: the bank becomes active, the pending activation is absent, and the Map Engine releases its read-hold and becomes
READY. -/
def State.makeActive (b : BankNo) (s : State) : State :=
  { s.mapHold b none with active := some b, pendingAct := none, mapEngine := none }

/-- The adoption of a pending activation (R89 to R92): the banks, then every block's part of the instructions, the raw
condition changes, the groups, the watches and pattern sets, and the report. -/
def Ev.adopt (p : PendingActivation) (e : Ev) : Ev :=
  let before := e.st
  let old := before.activeBank
  let new := before.bank p.bank
  let s1 := (before.makeActive p.bank).adoptSources old new
  let changes := s1.rawChanges (adoptionTouched old new before s1)
  let e1 : Ev := { e with st := s1.storeRaw changes }
  let e2 := e1.reconcile old new changes
  let e3 := (e2.st.watches.keys.foldl (fun e n => e.evalWatchAtAdoption changes n) e2).evalPatterns
  let e4 := e3.raise .switch (.bankActivated p.bank p.revision before.active)
  if before.image.finished then e4 else e4.modify State.finishStartUp

/-! ### Resolution (R96 to R105) -/

/-- What the resolution of one boundary reads: the active bank, the state after the adoption and the decisions, each
store's take, and the selection each group had before the boundary's own evaluations (R100). -/
structure Resolving where
  bank      : Bank
  st        : State
  take      : Nat → Option Take
  selection : Nat → Selection

/-- A record that the Switch replaces (R102, R103): marker set, nominal, 64w filler bytes. -/
def Content.replaced (w : Width) (n : Nat) (tag : Option Byte) : Content :=
  ⟨w, .nominal, List.replicate (64 * w.toNat) 0, true, some n, tag⟩

/-- The content of a head that resolves to a source (R99, R102 to R104). -/
def Resolving.sourceContent (r : Resolving) (w : Width) (n : Nat) (tag : Option Byte) : Content :=
  if (r.st.defect n).raw = .failed then Content.replaced w n tag
  else
    match r.take n with
    | some t => if t.priming then Content.replaced w n tag else ⟨w, t.code, t.bytes, false, some n, tag⟩
    | none => Content.replaced w n tag

/-- The source a group's GROUP heads resolve to (R100). -/
def Resolving.groupSource (r : Resolving) (g : Nat) : Option Nat :=
  (r.bank.groupDef g).map fun d =>
    match r.selection g with
    | .working => d.working
    | .protect => d.protect

/-- The content of a SOURCE or GROUP head (R99, R100); none for the other kinds. -/
def Resolving.directContent (r : Resolving) : Entry → Option Content
  | .source w n t => some (r.sourceContent w n t)
  | .group w g t => (r.groupSource g).map (fun n => r.sourceContent w n t)
  | .follow _ _ _ => none
  | .idle => none

/-- The content of an egress head (R99 to R101): a FOLLOW carries the record of the head it names, with its own width
and transmit tag. None for an IDLE entry, or where a reference fails. -/
def Resolving.headContent (r : Resolving) (h : Nat) : Option Content :=
  match r.bank.entry h with
  | .follow w e t => (r.directContent (r.bank.entry e)).map (fun c => { c with width := w, tag := t })
  | en => r.directContent en

/-- The content records of every egress head (R96); every other uncovered slot has IDLE content (R97). -/
def Resolving.contents (r : Resolving) : Table Content :=
  r.bank.map.keys.foldl
    (fun t h => match r.headContent h with | some c => t.set Content.idle h c | none => t) Table.empty

/-! ### The egress frame (R13 to R15) -/

/-- The payload of a content record laid over its slots: 65w positions, filler after the bytes (R13). -/
def Content.positions (c : Content) : List Byte :=
  c.payload ++ List.replicate (65 * c.width.toNat - c.payload.length) 0

/-- The head that covers a slot, looking at the head's place first (R13). -/
def coveringHead (content : Table Content) (n : Nat) : Nat :=
  ((List.range 8).findSome? (fun i =>
    if i ≤ n then
      match findKey content.entries (n - i) with
      | some c => if i < c.width.toNat then some (n - i) else none
      | none => none
    else none)).getD n

/-- The 65 payload positions of an egress slot: its part of the head that covers it (R13). -/
def slotPositions (content : Table Content) (n : Nat) : List Byte :=
  let h := coveringHead content n
  ((content.get Content.idle h).positions.drop (65 * (n - h))).take 65

/-- R14: the tag of a head in a phase-0 frame. -/
def State.egressTag (s : State) (c : Content) : Byte :=
  match c.tag with
  | some t => t
  | none =>
    match c.resolved with
    | some n => ((s.slot n).accepted).getD 0
    | none => 0

/-- R15: the parity of a head in a phase-1 frame, from the histories of the slots it covers. -/
def State.egressParity (s : State) (h : Nat) (w : Width) : Byte :=
  xorBytes ((coveredSlots h w).flatMap (fun n => [(s.sent n).newer, (s.sent n).older]))

/-- The overhead byte of a head or an uncovered slot in the frame that begins (R13 to R15). -/
def State.egressOverhead (s : State) (content : Table Content) (h : Nat) : Byte :=
  let c := content.get Content.idle h
  if (s.lif (lineOfSlot h)).egressPhase then s.egressParity h c.width else s.egressTag c

/-- The slots whose sent payload or parity history may differ from filler. -/
def State.egressSlots (s : State) (content : Table Content) : List Nat :=
  sortedUnique (content.keys.flatMap (fun h => coveredSlots h (content.get Content.idle h).width) ++ s.sentParity.keys)

/-- R13 to R15: every LIF begins its frame: overhead bytes by the phase, the parity histories take the XOR of what each
slot is handed, and the egress phase toggles. -/
def State.beginFrames (content : Table Content) (s : State) : State :=
  let slots := s.egressSlots content
  { s with
    egress := some
      ⟨content, (Table.empty : Table Byte).update 0 (slots.filter (fun n => coveringHead content n == n))
        (fun n _ => s.egressOverhead content n)⟩
    sentParity := s.sentParity.update SentParity.reset slots (fun n p =>
      ⟨xorBytes (slotPositions content n), p.newer⟩)
    lifs := s.lifs.update Lif.reset (List.range 18) (fun _ lf => { lf with egressPhase := !lf.egressPhase }) }

/-- The control byte of a head (file 12): the code three times, the marker, the phase. -/
def controlByte (code : TakeCode) (marker phase : Bool) : Byte :=
  BitVec.ofNat 8 (code.code * 84 + (if marker then 2 else 0) + (if phase then 1 else 0))

/-- The 67 bytes of an egress slot in the frame being sent; members carry their head's control and overhead bytes
(R13). -/
def egressSlotBytes (f : EgressFrame) (phase : Bool) (n : Nat) : List Byte :=
  let h := coveringHead f.content n
  let c := f.content.get Content.idle h
  [controlByte c.code c.marker phase, f.overhead.get 0 h] ++ slotPositions f.content n

/-- The bytes of a frame on a line: the alignment word, then every slot in order (R13). -/
def frameBytes (f : EgressFrame) (phase : Bool) (l : LineNo) : List Byte :=
  byte4 alignmentWord.toNat ++ (List.range (slotsOfLine l)).flatMap (fun i => egressSlotBytes f phase (firstSlot l + i))

/-- The whole frame a LIF has begun to send at the last boundary (R13); none before the first boundary after reset
(R108). -/
def lineFrame (s : State) (l : LineNo) : Option (List Byte) :=
  s.egress.map fun f => frameBytes f (!(s.lif l).egressPhase) l

/-- R13: how many whole bytes a line carries in so many nanoseconds, a frame occupying it for 250 microseconds. DEDUCED:
every byte takes the same time, and a byte cut in its middle is not counted (log entry 19). -/
def lineBytesIn (l : LineNo) (span : Nat) : Nat := span * frameLength l / 250000

/-- R13: what a line carries in so many nanoseconds from the boundary at which a frame begins: the frame, as far as it
gets, and filler 00h after it. -/
def lineCarries (frame : List Byte) (l : LineNo) (span : Nat) : List Byte :=
  frame.take (lineBytesIn l span) ++ List.replicate (lineBytesIn l span - frame.length) 0

/-- R13: the bytes on a line so many nanoseconds after the last boundary. -/
def lineSince (s : State) (l : LineNo) (span : Nat) : Option (List Byte) :=
  (lineFrame s l).map fun f => lineCarries f l span

/-- R13: the bytes a line carried between the last two boundaries: an early boundary has cut the frame, and a late one
has let filler follow it. -/
def lineBefore (s : State) (l : LineNo) : Option (List Byte) :=
  s.ended.map fun e => lineCarries (frameBytes e.frame (s.lif l).egressPhase l) l e.span

end Sys2Proof.Machine
end

