-- ==== Sys2Proof/Machine/Boundary.lean ====
section
/-! DEFINITION. The core frame boundary as one event, in the order the rules of all blocks give it, and the events of the
Core Timebase that produce it (R16, R17). The rows of the table that name what comes about at a boundary (SECOND_ROLLOVER,
WINDOW_END, HOLD_OFF_EXPIRY, RESTORE_WAIT_EXPIRY, ALERT_DELAY_EXPIRY, ADOPTION) are that boundary, whole (DEDUCED, log entry 3). -/

namespace Sys2Proof.Machine

/-! ### Site time and waiting notices -/

/-- R17: the site time at a boundary. The first boundary after reset begins frame 0 of second 0; at frame 4000 the
seconds take the pending value, or rise by 1. -/
def Timebase.tick (t : Timebase) : Timebase :=
  if !t.clockRunning then { t with clockRunning := true }
  else if t.frame + 1 < 4000 then { t with frame := t.frame + 1 }
  else { t with frame := 0, seconds := t.pendingSeconds.getD (t.seconds + 1), pendingSeconds := none }

/-- R169, R172: at a boundary every wait count rises by 1, holding at 4,000, and the alert line is evaluated. -/
def LinkState.countWaits (l : LinkState) : LinkState :=
  LinkState.evalAlert { l with queue := l.queue.map (fun q => { q with wait := min (q.wait + 1) 4000 }) }

/-- The site time and both links' queues at a boundary, before any notice of the boundary is raised. -/
def State.beginBoundary (s : State) : State :=
  { s with time := s.time.tick, linkA := s.linkA.countWaits, linkB := s.linkB.countWaits }

/-! ### The boundary -/

/-- R100: the selection a GROUP head uses at this boundary: the one held before the boundary's own evaluations, and
WORKING for a group that an adoption at this boundary resets or defines afresh. -/
def State.selectionBefore (s : State) (adopted : Option PendingActivation) (g : Nat) : Selection :=
  match adopted with
  | none => (s.group g).selection
  | some p =>
    match groupClass (s.activeBank.groupDef g) ((s.bank p.bank).groupDef g) with
    | .kept _ => (s.group g).selection
    | .undefined | .removal | .fresh _ | .redefined _ => .working

/-- R140: whether the timers of a group are counted before the window end's condition changes at this boundary. Only a
window end without an adoption leaves a choice (R150; a free value, log entry 8). -/
def State.timersFirst (s : State) (g : Nat) : Bool :=
  !s.windowEndsNext || Config.expiryFirst s.choices g

/-- R42, R49: the windows at a boundary before the decisions: a pending exponent restarts them. -/
def State.applyExponent (s : State) : State :=
  match s.rate.pendingK with
  | some k => s.restartWindows k
  | none => s

/-- R42, R49: the window counter rises by 1; at 2^k it returns to 0. -/
def State.countWindow (ends : Bool) (s : State) : State :=
  { s with rate := { s.rate with counter := if ends then 0 else s.rate.counter + 1 } }

/-- R96 to R105, R25: every store decides, every head is resolved from the takes, and every LIF begins its frame. -/
def State.decideAndAssemble (selection : Nat → Selection) (s : State) : State :=
  let decided := s.decideStores
  let content :=
    match s.active with
    | some b => Resolving.contents ⟨s.bank b, decided, s.takeOf, selection⟩
    | none => Table.empty
  decided.beginFrames content

/-- The pending activation is adopted, or else the groups' timers are counted on their own (R96, R140, R150). -/
def Ev.adoptOrCount (s0 : State) (e : Ev) : Ev :=
  match s0.pendingAct with
  | some p => e.adopt p
  | none => e.countTimers s0 s0.timersFirst

/-- R42, R44, R140: the window counter, the window end if this boundary is one, and then the timers that were left to
come after it. -/
def Ev.closeBoundary (s0 : State) (e : Ev) : Ev :=
  if s0.windowEndsNext then
    let e1 := (e.modify (·.countWindow true)).windowEnd
    let e2 := if s0.pendingAct.isNone then e1.countTimers s0 (fun g => !s0.timersFirst g) else e1
    e2.modify (fun s => { s with choices := s.choices + 1 })
  else e.modify (·.countWindow false)

/-- A core frame boundary, whole (R96): site time and waits, the TIMING notice if the reference changes here, the
restart of windows, the adoption or the timers, the decisions and the frame, the window end. DEDUCED order (log entry 22). -/
def Ev.boundary (timing : Option Bool) (e : Ev) : Ev :=
  let s0 := e.st
  let e1 := e.modify State.beginBoundary
  let e2 := match timing with | some regained => e1.raise .timebase (.timing regained) | none => e1
  let e3 := (e2.modify State.applyExponent).adoptOrCount s0
  (e3.modify (·.decideAndAssemble (s0.selectionBefore s0.pendingAct))).closeBoundary s0

/-! ### The timebase's events (R16) -/

/-- 125 microseconds. -/
def markSpacingMin : Nat := 125000
/-- 250 microseconds. -/
def framePeriod : Nat := 250000
/-- 375 microseconds. -/
def markSpacingMax : Nat := 375000

/-- R16: a mark counts toward the regain while the reference is absent. -/
def Timebase.countMark (time : Nat) (t : Timebase) : Timebase :=
  let spaced :=
    match t.lastMark with
    | some m => decide (m + markSpacingMin ≤ time) && decide (time ≤ m + markSpacingMax)
    | none => false
  { t with lastMark := some time, regain := if t.regain != 0 && spaced then t.regain + 1 else 1 }

/-- R16: the mark is the 16th good one, while the reference is absent. -/
def Timebase.regainsAt (time : Nat) (t : Timebase) : Bool := !t.refPresent && decide (16 ≤ (t.countMark time).regain)

/-- R16: the reference is present again, and the regain count is 0. -/
def Timebase.regained (t : Timebase) : Timebase := { t with refPresent := true, regain := 0, lastMark := none }

/-- The timebase as the boundary a cause produces leaves it, if in this state that cause produces one (R16). The mark at
which the reference is regained is a boundary if it comes 125 microseconds or more after the last one. DESIGN CHOICE of
the times (log entry 4), and of no upper limit on that mark (log entry 5). -/
def Timebase.boundaryAt (c : BoundaryCause) (t : Timebase) : Option Timebase :=
  match c with
  | .mark time =>
    if t.refPresent = true ∧ t.lastBoundary + markSpacingMin ≤ time ∧ time ≤ t.lastBoundary + markSpacingMax then
      some { t with lastBoundary := time }
    else if t.regainsAt time = true ∧ t.lastBoundary + markSpacingMin ≤ time then
      some { t.regained with lastBoundary := time }
    else none
  | .oscillator =>
    if t.refPresent = true then none else some { t with lastBoundary := t.lastBoundary + framePeriod }
  | .lost =>
    if t.refPresent = true then
      some { t with refPresent := false, regain := 0, lastMark := none, lastBoundary := t.lastBoundary + markSpacingMax }
    else none

/-- R16: the change of the reference at the boundary a cause produces: lost, regained, or none. -/
def Timebase.timingAt (c : BoundaryCause) (t : Timebase) : Option Bool :=
  match c with
  | .mark _ => if t.refPresent = true then none else some true
  | .oscillator => none
  | .lost => some false

/-- The boundary a cause produces (R16); a cause that produces none in this state is no event. Each LIF stops the frame it
was sending (R13). -/
def State.boundary (c : BoundaryCause) (s : State) : State :=
  match s.time.boundaryAt c with
  | some t =>
    ((Ev.start { s with
        time := t, ended := s.egress.map (⟨·, t.lastBoundary - s.time.lastBoundary⟩) }).boundary (s.time.timingAt c)).offer
  | none => s

/-- R16: a mark while the reference is absent: the 16th good one makes the reference present and raises TIMING, and is a
boundary too if it comes 125 microseconds or more after the last one. -/
def State.markTowardRegain (time : Nat) (s : State) : State :=
  if s.time.regainsAt time then
    if s.time.lastBoundary + markSpacingMin ≤ time then s.boundary (.mark time)
    else ((Ev.start { s with time := s.time.regained }).raise .timebase (.timing true)).offer
  else { s with time := s.time.countMark time }

/-- R16: a frame mark: a boundary, disregarded, or counted toward the regain. A mark later than 375 microseconds finds
the reference lost at that instant, and counts (DESIGN CHOICE, unsafe, log entry 5). -/
def execFrameMark (time : Nat) (s : State) : Answer :=
  if s.time.refPresent = true then
    if time < s.time.lastBoundary + markSpacingMin then .next s
    else if time ≤ s.time.lastBoundary + markSpacingMax then .next (s.boundary (.mark time))
    else .next ((s.boundary .lost).markTowardRegain time)
  else .next (s.markTowardRegain time)

/-- R16: 375 microseconds pass after the last boundary without a mark. -/
def execReferenceLost (s : State) : Answer := .next (s.boundary .lost)

/-- R16: while the reference is absent the oscillator produces a boundary. -/
def execOscillatorBoundary (s : State) : Answer := .next (s.boundary .oscillator)

/-- R16: while the reference is absent, a gap of more than 375 microseconds without a mark sets the regain count to 0. -/
def execRegainGap (s : State) : Answer :=
  if s.time.refPresent = true then .next s
  else .next { s with time := { s.time with regain := 0, lastMark := none } }

/-! ### Boundaries by what comes about at them (log entry 3) -/

/-- R17: the next boundary brings the frame within second to 4,000. -/
def State.rolloverDue (s : State) : Bool := s.time.clockRunning && decide (4000 ≤ s.time.frame + 1)

/-- R17: the boundary at which the second rolls over. -/
def execSecondRollover (c : BoundaryCause) (s : State) : Answer :=
  if s.rolloverDue then .next (s.boundary c) else .next s

/-- R44: the boundary at which the window counter reaches 2^k. -/
def execWindowEnd (c : BoundaryCause) (s : State) : Answer :=
  if s.windowEndsNext then .next (s.boundary c) else .next s

/-- The hold-off timer of a side (R129). -/
def GroupRec.timerOf (r : GroupRec) : Side → Nat
  | .working => r.working.timer
  | .protect => r.protect.timer

/-- R140: the boundary at which a side's hold-off timer reaches 0. -/
def execHoldOffExpiry (g : GroupNo) (side : Side) (c : BoundaryCause) (s : State) : Answer :=
  if (s.group g).settings.isSome && (s.group g).timerOf side == 1 then .next (s.boundary c) else .next s

/-- R140, R144: the boundary at which a group's restore-wait timer reaches 0. -/
def execRestoreWaitExpiry (g : GroupNo) (c : BoundaryCause) (s : State) : Answer :=
  if (s.group g).settings.isSome && (s.group g).restore == 1 then .next (s.boundary c) else .next s

/-- R172: the next boundary brings the oldest queued notice's wait count to the alert delay. -/
def LinkState.delayDue (l : LinkState) : Bool :=
  match l.queue with
  | [] => false
  | q :: _ => decide (0 < l.delay) && q.wait + 1 == l.delay * 4

/-- R172: the boundary at which the oldest notice of a link reaches the alert delay. -/
def execAlertDelayExpiry (x : Link) (c : BoundaryCause) (s : State) : Answer :=
  if (s.link x).delayDue then .next (s.boundary c) else .next s

/-- R89: the boundary that ends a pending period. -/
def execAdoption (c : BoundaryCause) (s : State) : Answer :=
  if s.pendingAct.isSome then .next (s.boundary c) else .next s

end Sys2Proof.Machine
end

