-- ==== Sys2Proof/Machine/Engine.lean ====
section
/-! DEFINITION. The Map Engine (files 04 and 05): the consistency check C1 to C6, the completions of its operations and
the end of an activation check. -/

namespace Sys2Proof.Machine

/-! ### The consistency check (R69 to R75) -/

/-- The first violation of a bank: table, index, rule (R69). -/
structure Violation where
  table : TableName
  index : Nat
  rule  : Nat
deriving DecidableEq, Repr

/-- The member slots of a head: those it covers beside itself. -/
def memberSlots (h : Nat) (w : Width) : List Nat := (coveredSlots h w).tail

/-- R70 (C1): the profiles a defined profile covers are undefined. -/
def Bank.checkProfile (b : Bank) (h : Nat) : Option Violation :=
  match b.profile h with
  | none => none
  | some p => if (memberSlots h p.width).all (fun n => (b.profile n).isNone) then none else some ⟨.profiles, h, 1⟩

/-- The profile at a slot is defined and has a width. -/
def Bank.definedWith (b : Bank) (n : Nat) (w : Width) : Bool := b.sourceWidth n == some w

/-- R71 (C2): a defined group pairs two different defined sources of its width. -/
def Bank.checkGroup (b : Bank) (g : Nat) : Option Violation :=
  match b.groupDef g with
  | none => none
  | some d =>
    if d.working != d.protect && b.definedWith d.working d.width && b.definedWith d.protect d.width then none
    else some ⟨.groups, g, 2⟩

/-- R72 (C3): the entries that an egress head covers are IDLE. -/
def Bank.membersIdle (b : Bank) (h : Nat) (w : Width) : Bool :=
  (memberSlots h w).all (fun n => b.entry n == .idle)

/-- R73 to R75 (C4 to C6): the rule number of an entry's kind, if its reference breaks the rule. -/
def Bank.referenceFault (b : Bank) : Entry → Option Nat
  | .idle => none
  | .source w s _ => if b.definedWith s w then none else some 4
  | .group w g _ => if (b.groupDef g).map (·.width) == some w then none else some 5
  | .follow w e _ =>
    match b.entry e with
    | .source w' _ _ | .group w' _ _ => if w' = w then none else some 6
    | .idle | .follow _ _ _ => some 6

/-- R72 to R75: C3 is tested at an egress head before the rule of its kind. -/
def Bank.checkEntry (b : Bank) (h : Nat) : Option Violation :=
  match (b.entry h).width? with
  | none => none
  | some w =>
    if b.membersIdle h w then (b.referenceFault (b.entry h)).map (fun r => ⟨.map, h, r⟩) else some ⟨.map, h, 3⟩

/-- R69: the consistency check: profiles, groups, map, each in ascending order, to the first violation. -/
def Bank.check (b : Bank) : Option Violation :=
  (((List.range 1536).findSome? b.checkProfile).or ((List.range 256).findSome? b.checkGroup)).or
    ((List.range 1536).findSome? b.checkEntry)

/-! ### Completions (R81 to R84) -/

/-- The Map Engine's operation ends: it becomes READY. -/
def State.mapReady (s : State) : State := { s with mapEngine := none }

/-- R81: CLEAR BANK completes. -/
def execClearCompletion (s : State) : Answer :=
  match s.mapEngine with
  | some (.clear b) =>
    let v := (s.bank b).cleared.bumped
    (((Ev.start (((s.setBank b v).mapHold b none).mapReady)).raise .mapEngine (.opDone .clear b v.revision .ok))).done
  | _ => .next s

/-- R82: COPY BANK completes. -/
def execCopyCompletion (s : State) : Answer :=
  match s.mapEngine with
  | some (.copy src dst) =>
    let v : Bank := { s.bank src with revision := (s.bank dst).revision + 1 }
    ((Ev.start ((((s.setBank dst v).mapHold src none).mapHold dst none).mapReady)).raise .mapEngine
      (.opDone .copy dst v.revision .ok)).done
  | _ => .next s

/-- The result of a check as OP_DONE reports it (R83). -/
def checkResult : Option Violation → OpResult
  | none => .ok
  | some v => .invalid v.table v.index v.rule

/-- R83: VERIFY BANK completes. -/
def execVerifyCompletion (s : State) : Answer :=
  match s.mapEngine with
  | some (.verify b rev) =>
    ((Ev.start ((s.mapHold b none).mapReady)).raise .mapEngine (.opDone .verify b rev (checkResult (s.bank b).check))).done
  | _ => .next s

/-- R85, R182: a bank is handed to the Map Engine as an activation: read-held, and its check begins. -/
def State.startCheck (b : BankNo) (s : State) : State :=
  { s.mapHold b (some .read) with mapEngine := some (.activateCheck b (s.bank b).revision) }

/-- R182: the start outcome to be reported. -/
def State.toReport (o : StartOutcome) (s : State) : State := { s with image := { s.image with toReport := some o } }

/-- R182: during start-up, a check of bank 0 decides the start outcome, and its failure falls back to bank 2
(DEDUCED, log entry 26). -/
def State.startUpAfterCheck (b : BankNo) (passed : Bool) (s : State) : State :=
  if s.image.finished || b != 0 then s
  else if passed then s.toReport .imageStarted
  else (s.toReport .imageInconsistent).startCheck 2

/-- R87: an activation check ends: a violation releases the bank, a pass records the pending activation. -/
def execActivationCheckEnd (s : State) : Answer :=
  match s.mapEngine with
  | some (.activateCheck b rev) =>
    match (s.bank b).check with
    | some v =>
      (((Ev.start ((s.mapHold b none).mapReady)).raise .mapEngine
        (.activationRefused b v.table v.index v.rule)).modify (State.startUpAfterCheck b false)).done
    | none =>
      .next (State.startUpAfterCheck b true
        { s with pendingAct := some ⟨b, rev⟩, mapEngine := some (.activatePending b rev) })
  | _ => .next s

end Sys2Proof.Machine
end

