-- ==== Sys2Proof/Machine/Image.lean ====
section
/-! DEFINITION. The Image Store Controller (file 11): the image's pages and record stream, page reads and writes, the end
of each operation, and the reset line that begins start-up. -/

namespace Sys2Proof.Machine

/-! ### Pages (R175) -/

/-- The page check: the sum of the 254 data bytes modulo 65536. -/
def pageCheck (data : List Byte) : Half := BitVec.ofNat 16 ((data.map BitVec.toNat).sum)

/-- A page of 254 data bytes with its page check. -/
def pageOf (data : List Byte) : List Byte := data ++ byte2 (pageCheck data).toNat

/-- Data bytes filled up with zeros to 254. -/
def padData (data : List Byte) : List Byte := data ++ List.replicate (254 - data.length) 0

/-- The header page (R175). -/
def headerPage (revision : Half) (seconds : Word) : List Byte :=
  pageOf (padData (byte2 0x47D2 ++ byte2 revision.toNat ++ byte4 seconds.toNat ++ byte2 17408 ++ byte1 70))

/-- The invalidated header (R179): format mark 0000h, zeros, and a correct page check. -/
def invalidHeaderPage : List Byte := pageOf (padData [])

/-- The record stream of a bank (R175): Egress Map, Source Profiles, Group Table. -/
def Bank.stream (b : Bank) : List Byte :=
  (List.range 1536).flatMap (fun n => entryBytes (b.entry n))
    ++ ((List.range 1536).flatMap (fun n => profileBytes (b.profile n))
      ++ (List.range 256).flatMap (fun g => groupBytes (b.groupDef g)))

/-- The page of the record stream with a number 1 to 69. -/
def Bank.streamPage (b : Bank) (p : Nat) : List Byte :=
  pageOf (padData ((b.stream.drop ((p - 1) * 254)).take 254))

/-- The page check of a page read agrees (R178). -/
def pageAgrees (bytes : List Byte) : Bool :=
  pageCheck (bytes.take 254) == BitVec.ofNat 16 (value2 (bytes.getD 254 0) (bytes.getD 255 0))

/-- The format mark of a header read (R178). -/
def markPresent (bytes : List Byte) : Bool := value2 (bytes.getD 0 0) (bytes.getD 1 0) == 0x47D2

/-- The record byte count and the page count of a header read (R178). -/
def countsAgree (bytes : List Byte) : Bool :=
  value2 (bytes.getD 8 0) (bytes.getD 9 0) == 17408 && (bytes.getD 10 0).toNat == 70

/-! ### Records of the stream -/

/-- A record of the stream at its index. -/
inductive BankRecord where
  | entry (index : Nat) (e : Entry)
  | profile (index : Nat) (p : Option Profile)
  | group (index : Nat) (g : Option GroupDef)
deriving DecidableEq, Repr

/-- The size of the record with a number in stream order: 1,536 entries, 1,536 profiles, 256 groups. -/
def recordSize (r : Nat) : Nat := if r < 1536 then 6 else if r < 3072 then 4 else 8

/-- How many whole records the first bytes of the stream hold. -/
def recordsWithin (n : Nat) : Nat :=
  if n < 9216 then n / 6 else if n < 15360 then 1536 + (n - 9216) / 4 else 3072 + (n - 15360) / 8

/-- R184: image records are decoded as the write commands decode them, but no value is clamped: one out of range gives
no record. -/
def decodeRecord (r : Nat) (bytes : List Byte) : Option BankRecord :=
  if r < 1536 then (decodeEntry r bytes).map (.entry r)
  else if r < 3072 then
    match decodeProfile (r - 1536) bytes with
    | some (some p) => if p.threshold ≤ 4095 then some (.profile (r - 1536) (some p)) else none
    | some none => some (.profile (r - 1536) none)
    | none => none
  else
    match decodeGroup bytes with
    | some (some g) =>
      if g.holdOff ≤ 100 ∧ 1 ≤ g.restoreWait ∧ g.restoreWait ≤ 72 then some (.group (r - 3072) (some g)) else none
    | some none => some (.group (r - 3072) none)
    | none => none

/-- R180: a decoded record is written into the bank at its index. -/
def Bank.writeRecord (b : Bank) : BankRecord → Bank
  | .entry i e => b.setEntry i e
  | .profile i p => b.setProfile i p
  | .group i g => b.setGroupDef i g

/-- R181: a decoded record equals the bank's record at its index (R56); else the difference pair. -/
def Bank.differs (b : Bank) : BankRecord → Option (TableName × Nat)
  | .entry i e => if b.entry i = e then none else some (.map, i)
  | .profile i p => if b.profile i = p then none else some (.profiles, i)
  | .group i g => if b.groupDef i = g then none else some (.groups, i)

/-- R178: the records whose last byte some bytes of the stream carry, from the record with a number on, in stream order
(none where an encoding gives no record), and the bytes left of a record that ends later. -/
def splitRecords : (fuel r : Nat) → List Byte → List (Option BankRecord) × List Byte
  | 0, _, bs => ([], bs)
  | f + 1, r, bs =>
    if r < 3328 ∧ recordSize r ≤ bs.length then
      let rest := splitRecords f (r + 1) (bs.drop (recordSize r))
      (decodeRecord r (bs.take (recordSize r)) :: rest.1, rest.2)
    else ([], bs)

/-- R180: the records are written as they are decoded; a record with no form ends the read. -/
def Bank.loadRecords : Bank → List (Option BankRecord) → Bank × Option OpResult
  | b, [] => (b, none)
  | b, none :: _ => (b, some .imageCorrupt)
  | b, some r :: rest => (b.writeRecord r).loadRecords rest

/-- R181: the records are compared as they are decoded; the first difference, or a record with no form, ends the
read. -/
def Bank.compareRecords (b : Bank) : List (Option BankRecord) → Option OpResult
  | [] => none
  | none :: _ => some .imageCorrupt
  | some r :: rest =>
    match b.differs r with
    | some (t, i) => some (.differs t i)
    | none => b.compareRecords rest

/-! ### The end of a read (R180 to R182) -/

/-- R180: the bank a load leaves: its revision raised, and every record reset unless the load succeeded. -/
def Bank.afterLoad (success : Bool) (b : Bank) : Bank := if success then b.bumped else b.cleared.bumped

/-- The controller becomes READY. -/
def State.imageReady (s : State) : State := { s with image := { s.image with op := none } }

/-- R182: START-LOAD ends: the bank is left as LOAD IMAGE leaves it, the write-hold is released, the controller stays
BUSY, and bank 0 or, as the fallback, bank 2 is handed to the Map Engine. -/
def State.endStartLoad (op : ImageOp) (res : OpResult) (s : State) : State :=
  let s1 := (s.setBank op.bank ((s.bank op.bank).afterLoad (res == .ok))).imageHold op.bank none
  let s2 : State := { s1 with image := { s1.image with op := some { op with page := none, carry := [] } } }
  match res with
  | .ok => s2.startCheck 0
  | .blankStore => (s2.toReport .blankStore).startCheck 2
  | .imageCorrupt | .invalid _ _ _ | .differs _ _ => (s2.toReport .imageCorrupt).startCheck 2

/-- A read of the image ends with a result (R180 to R182). -/
def State.endRead (op : ImageOp) (res : OpResult) (s : State) : State :=
  match op.op with
  | .load =>
    let v := (s.bank op.bank).afterLoad (res == .ok)
    ((Ev.start (((s.setBank op.bank v).imageHold op.bank none).imageReady)).raise .imageStore
      (.opDone .load op.bank v.revision res)).offer
  | .verifyImage =>
    ((Ev.start ((s.imageHold op.bank none).imageReady)).raise .imageStore
      (.opDone .verifyImage op.bank op.revision res)).offer
  | .startLoad => s.endStartLoad op res
  | .save => s

/-- The operation in progress is at another page or attempt. -/
def State.imageAt (op : ImageOp) (s : State) : State := { s with image := { s.image with op := some op } }

/-- R178: a page passes: the header's counts are tested, or the records it completes are written or compared; then the
next page is read, or the read ends. -/
def State.pagePassed (op : ImageOp) (p : Nat) (bytes : List Byte) (s : State) : State :=
  if p = 0 then
    if countsAgree bytes then s.imageAt { op with page := some 1, attempts := 0, carry := [] }
    else s.endRead op .imageCorrupt
  else
    let data := op.carry ++ bytes.take (if p = 69 then 136 else 254)
    let records := splitRecords data.length (recordsWithin ((p - 1) * 254)) data
    let next : ImageOp := { op with page := some (p + 1), attempts := 0, carry := records.2 }
    match op.op with
    | .verifyImage =>
      match (s.bank op.bank).compareRecords records.1 with
      | some res => s.endRead op res
      | none => if p < 69 then s.imageAt next else s.endRead op .ok
    | .load | .startLoad | .save =>
      let out := (s.bank op.bank).loadRecords records.1
      let s1 := s.setBank op.bank out.1
      match out.2 with
      | some res => s1.endRead op res
      | none => if p < 69 then s1.imageAt next else s1.endRead op .ok

/-- R178: one page read attempt ends: the format mark at page 0, then the page check with its retries. -/
def State.pageRead (op : ImageOp) (p : Nat) (bytes : List Byte) (s : State) : State :=
  if p = 0 ∧ markPresent bytes = false then s.endRead op .blankStore
  else if pageAgrees bytes then s.pagePassed op p bytes
  else if op.attempts < op.retries then s.imageAt { op with attempts := op.attempts + 1 }
  else s.endRead op .imageCorrupt

/-- R178: a page read attempt ends, with the bytes the flash holds or with others. -/
def execPageReadCompletion (r : PageRead) (s : State) : Answer :=
  if !r.wellFormed then .refused .illFormed
  else
    match s.image.op with
    | none => .next s
    | some op =>
      match op.op, op.page with
      | .save, _ => .next s
      | _, none => .next s
      | _, some p => .next (s.pageRead op p (match r with | .stored => s.flashPage p | .received bs => bs))

/-! ### SAVE IMAGE (R179) -/

/-- The bytes of the page that SAVE IMAGE is writing. -/
def State.savePage (op : ImageOp) (p : Nat) (s : State) : List Byte :=
  if p = 0 then if op.finalHeader then headerPage op.revision op.seconds else invalidHeaderPage
  else (s.bank op.bank).streamPage p

/-- R179: a page write of SAVE IMAGE ends; after the final header the operation completes. -/
def execPageWriteCompletion (s : State) : Answer :=
  match s.image.op with
  | none => .next s
  | some op =>
    match op.op, op.page with
    | .save, some p =>
      let s1 := s.setFlashPage p (s.savePage op p)
      if op.finalHeader then
        ((Ev.start ((s1.imageHold op.bank none).imageReady)).raise .imageStore
          (.opDone .save op.bank op.revision .ok)).done
      else if p < 69 then .next (s1.imageAt { op with page := some (p + 1) })
      else .next (s1.imageAt { op with page := some 0, finalHeader := true })
    | _, _ => .next s

/-! ### The reset line (R182, R94, R108, R154, R166, R174, R176) -/

/-- R176: a page write in progress is cut by reset, and leaves that page as the cut left it (free values,
log entry 10). -/
def State.cutPage (s : State) : Option Nat :=
  match s.image.op with
  | some op => if op.op = .save then op.page else none
  | none => none

/-- R178: a header read with these bytes passes: format mark, page check and counts. -/
def headerPasses (bytes : List Byte) : Bool := markPresent bytes && pageAgrees bytes && countsAgree bytes

/-- R176, R179: the bytes that a cut write leaves in a page: free values, but for page 0, whose bytes never pass as a
header, since "the next read therefore ends with BLANK_STORE or IMAGE_CORRUPT". Bytes that would pass are free in every
place but the format mark's, so that every page 0 that does not pass is still possible (log entry 10). -/
def cutPageBytes (event p : Nat) : List Byte :=
  let bytes := (List.range 256).map (Config.cutByte event)
  if p = 0 ∧ headerPasses bytes = true then [0x00#8, 0x00#8] ++ bytes.drop 2 else bytes

/-- R155, R166: the decoder of a link after reset: SKIPPING if select is low as reset ends. -/
def LinkState.afterReset (selectLow : Bool) : LinkState :=
  { LinkState.reset with decoder := if selectLow then .skipping else .quiet }

/-- R182: power-on or the reset line: every block takes its reset values and start-up begins. The flash keeps what it
holds, but for a page whose write is cut; the model's own queue and count of choices are kept (DEDUCED, log entry 21). -/
def execResetLine (lowA lowB : Bool) (s : State) : Answer :=
  let base : State :=
    { State.reset with
      pending := s.pending
      flash := s.flash
      choices := s.choices
      linkA := LinkState.afterReset lowA
      linkB := LinkState.afterReset lowB }
  match s.cutPage with
  | some p =>
    .next { base.setFlashPage p (cutPageBytes s.choices p) with choices := s.choices + 1 }
  | none => .next base

end Sys2Proof.Machine
end

