-- ==== Sys2Proof/Machine/Links.lean ====
section
/-! DEFINITION. The control links (file 09): transfers, the arrival of a frame, the bytes of a read transfer, and the take
of the untaken command by its owning block. -/

namespace Sys2Proof.Machine

/-! ### Write transfers (R156 to R158) -/

/-- The codes of the 34 catalogue commands (file 12, Command Codes). -/
def commandCodes : List Nat :=
  [0x01, 0x02, 0x03, 0x04, 0x05, 0x06, 0x07, 0x08, 0x09, 0x10, 0x11, 0x12, 0x13, 0x14, 0x15, 0x16, 0x17, 0x18, 0x19,
    0x20, 0x21, 0x22, 0x23, 0x24, 0x25, 0x28, 0x29, 0x2A, 0x2B, 0x2C, 0x2D, 0x30, 0x31, 0x32]

/-- The sum of some bytes modulo 256. -/
def byteSum (bs : List Byte) : Byte := bs.foldl (· + ·) 0

/-- R157: the frame check of a frame of so many bytes, of which at most 255 are stored. -/
def frameGood (bytes : List Byte) (length : Nat) : Bool :=
  decide (3 ≤ length) && decide ((bytes.getD 1 0).toNat ≤ 250) && length == (bytes.getD 1 0).toNat + 3
    && byteSum bytes == 0

/-- R158: the code of an accepted frame: UNKNOWN, or its PENDING form and the untaken command. -/
def LinkState.acceptFrame (code : Byte) (args : List Byte) (l : LinkState) : LinkState :=
  if code.toNat ∈ commandCodes then
    { l with untaken := some ⟨code, args⟩, response := ⟨code, .pending, false, []⟩ }
  else { l with untaken := none, response := ⟨code ||| 0x80#8, .unknown, false, []⟩ }

/-- R157: the arrival of a frame: overrun, frame check, acceptance. -/
def LinkState.frameArrives (bytes : List Byte) (length : Nat) (l : LinkState) : LinkState :=
  if l.untaken.isSome then { l with overrun := true }
  else if frameGood bytes length then l.acceptFrame (bytes.getD 0 0) ((bytes.drop 2).take (length - 3))
  else { l with response := ⟨bytes.getD 0 0, .frameError, false, []⟩ }

/-- R156: the part sends so many further bytes 00h. -/
def LinkState.sendZeros (n : Nat) (l : LinkState) : LinkState := { l with sent := l.sent ++ List.replicate n 0 }

/-- R156: a transfer begins: during its first byte the part sends 00h. -/
def LinkState.transferBegins (d : DecoderState) (l : LinkState) : LinkState := { l with decoder := d, sent := [0] }

/-- R156: bytes received in a write transfer; the first ones follow the fall of select and the byte 01h. Bytes beyond
the 255th are counted and not stored. The part sends 00h throughout. -/
def LinkState.writeBytes (bs : List Byte) (l : LinkState) : LinkState :=
  match l.decoder with
  | .quiet =>
    { (l.transferBegins .writing).sendZeros bs.length with frameBuf := bs.take 255, frameLen := bs.length }
  | .writing =>
    { l.sendZeros bs.length with frameBuf := (l.frameBuf ++ bs).take 255, frameLen := l.frameLen + bs.length }
  | .reading | .skipping => l

/-- R156, R157: select rises at the end of a write transfer: the decoder is QUIET and the frame arrives. -/
def LinkState.writeEnds (l : LinkState) : LinkState :=
  match l.decoder with
  | .writing =>
    LinkState.frameArrives l.frameBuf l.frameLen { l with decoder := .quiet, frameBuf := [], frameLen := 0 }
  | .quiet | .reading | .skipping => l

/-- R157: a write transfer on a link, or a part of one. A whole transfer begins with the decoder QUIET. -/
def execFrameArrival (x : Link) (p : WritePart) (s : State) : Answer :=
  let l := s.link x
  .next (s.setLink x (match p with
    | .shift bs => l.writeBytes bs
    | .rise => l.writeEnds
    | .whole bs => if l.decoder = .quiet then (l.writeBytes bs).writeEnds else l))

/-! ### Read transfers (R160) -/

/-- Items 1 to 4 of a response: echo, outcome with the clamped flag, length, result. -/
def Response.items (r : Response) : List Byte :=
  [r.echo, BitVec.ofNat 8 (r.outcome.code + (if r.clamped then 128 else 0)), BitVec.ofNat 8 r.result.length] ++ r.result

/-- R160: the next byte of a read transfer, with the link's status word as it now stands: items 1 to 4 fixed when item 1
begins, the status word computed when its first byte is sent, the check byte, then status words without end. The 00h of the
transfer's first byte stands before them in `sent` (R156). -/
def LinkState.sendByte (word : Half) (l : LinkState) : LinkState :=
  let items := l.readItems.getD l.response.items
  let p := l.sent.length - 1
  let k := items.length
  if p < k then { l with readItems := some items, sent := l.sent ++ [items.getD p 0] }
  else if p = k + 2 then { l with sent := l.sent ++ [0 - byteSum l.sent] }
  else if p = k ∨ (k + 2 < p ∧ (p - k) % 2 = 1) then
    { l with statusOut := word, sent := l.sent ++ [BitVec.ofNat 8 (word.toNat / 256)] }
  else { l with sent := l.sent ++ [BitVec.ofNat 8 l.statusOut.toNat] }

/-- So many bytes of a read transfer, with one status word throughout (DESIGN CHOICE, log entry 23). -/
def LinkState.sendBytes (word : Half) : Nat → LinkState → LinkState
  | 0, l => l
  | n + 1, l => LinkState.sendBytes word n (l.sendByte word)

/-- R156: select falls and the controller sends 02h. -/
def LinkState.readBegins (l : LinkState) : LinkState :=
  match l.decoder with
  | .quiet => { l.transferBegins .reading with readItems := none }
  | .writing | .reading | .skipping => l

/-- R156: select rises at the end of a read transfer. -/
def LinkState.readEnds (l : LinkState) : LinkState :=
  match l.decoder with
  | .reading => { l with decoder := .quiet, readItems := none }
  | .quiet | .writing | .skipping => l

/-- R160: a read transfer on a link, or a part of one. -/
def execReadTransfer (x : Link) (p : ReadPart) (s : State) : Answer :=
  let l := s.link x
  .next (s.setLink x (match p with
    | .start => l.readBegins
    | .shift n => if l.decoder = .reading then l.sendBytes (s.statusWord x) n else l
    | .rise => l.readEnds
    | .whole n => if l.decoder = .quiet then (l.readBegins.sendBytes (s.statusWord x) n).readEnds else l))

/-! ### Skipped transfers (R156, R166) -/

/-- R156: a transfer whose first byte names no type begins. -/
def LinkState.skipBegins (l : LinkState) : LinkState :=
  match l.decoder with
  | .quiet => l.transferBegins .skipping
  | .writing | .reading | .skipping => l

/-- R156: the part sends 00h throughout a skipped transfer. -/
def LinkState.skipBytes (n : Nat) (l : LinkState) : LinkState :=
  match l.decoder with
  | .skipping => l.sendZeros n
  | .quiet | .writing | .reading => l

/-- R156, R166: select rises, and a decoder that was SKIPPING is QUIET. -/
def LinkState.skipEnds (l : LinkState) : LinkState :=
  match l.decoder with
  | .skipping => { l with decoder := .quiet }
  | .quiet | .writing | .reading => l

/-- R156: a skipped transfer on a link, or a part of one. -/
def execSkippedTransfer (x : Link) (p : SkipPart) (s : State) : Answer :=
  if !p.wellFormed then .refused .illFormed
  else
    let l := s.link x
    .next (s.setLink x (match p with
      | .start _ => l.skipBegins
      | .shift n => l.skipBytes n
      | .rise => l.skipEnds
      | .whole _ n => if l.decoder = .quiet then (l.skipBegins.skipBytes n).skipEnds else l))

/-! ### The take of a command (R158, R159, R161) -/

/-- What the owning block writes into the response buffer, beside the echo. -/
structure Reply where
  outcome : RespCode
  clamped : Bool
  result  : List Byte
deriving DecidableEq, Repr

/-- R161: a refusal: the clamped flag clear and an empty result. -/
def Reply.refuse (o : RespCode) : Reply := ⟨o, false, []⟩

/-- DONE with a result. -/
def Reply.done (result : List Byte) : Reply := ⟨.done, false, result⟩

/-- DONE with a result and a clamped flag. -/
def Reply.doneClamped (clamped : Bool) (result : List Byte) : Reply := ⟨.done, clamped, result⟩

/-- ACCEPTED with a result. -/
def Reply.accepted (result : List Byte) : Reply := ⟨.accepted, false, result⟩

/-- A command judged by its owner: the event it makes and its reply. -/
abbrev Judged := Ev × Reply

/-- A refused command has no effect beyond its response (R161). -/
def refused (s : State) (o : RespCode) : Judged := (Ev.start s, Reply.refuse o)

/-- An executed command whose event changes only the state. -/
def executed (s : State) (r : Reply) : Judged := (Ev.start s, r)

/-- R158: at the take the block writes the response and the untaken command becomes absent. -/
def LinkState.respond (code : Byte) (r : Reply) (l : LinkState) : LinkState :=
  { l with untaken := none, response := ⟨code, r.outcome, r.clamped, r.result⟩ }

/-- R158, R159: the owning block takes the link's untaken command, if it is the one with this code. Before start-up has
finished it answers STARTING, unless it is one of the three that are answered then. DEDUCED: each catalogue row is this
take (log entry 12), and one with no such untaken command is no event (log entry 2). -/
def takeCommand (code : Byte) (duringStartUp : Bool) (x : Link) (judge : List Byte → State → Judged) (s : State) :
    Answer :=
  match (s.link x).untaken with
  | none => .next s
  | some f =>
    if f.code = code then
      let out := if !duringStartUp && !s.image.finished then refused s .starting else judge f.args s
      let s' := out.1.offer
      .next (s'.setLink x ((s'.link x).respond code out.2))
    else .next s

end Sys2Proof.Machine
end

