-- ==== Sys2Proof/Machine/DeviceCommands.lean ====
section
/-! DEFINITION. The Device commands: READ STATUS, SET PARAMETERS, LINK RESET, SUBSCRIBE, SET ALERT, READ NOTICES, SET TIME,
READ TIME, READ LINES (R163, R48, R49, R164, R170, R173, R171, R17, R18). -/

namespace Sys2Proof.Machine

/-- R163: READ STATUS notes and clears the overrun flag. DESIGN CHOICE of the link's byte (log entry 15). -/
def judgeReadStatus (x : Link) (args : List Byte) (s : State) : Judged :=
  match args with
  | [] =>
    let l := s.link x
    executed (s.setLink x { l with overrun := false })
      (.done (byte1 (linkCode x) ++ [flagByte l.overrun] ++ byte1 l.queue.length))
  | _ => refused s .badArgument

/-- READ_STATUS (R163). -/
def execReadStatus (x : Link) (s : State) : Answer := takeCommand 0x01#8 true x (judgeReadStatus x) s

/-- R48: the result of SET PARAMETERS, with the window counter. -/
def parametersResult (r : RateParams) : List Byte :=
  byte2 r.j ++ byte2 r.l ++ byte1 r.retries ++ byte1 r.k ++ optionalItem byte1 r.pendingK ++ byte2 r.counter

/-- A value clamped to a range. -/
def clampTo (lo hi n : Nat) : Nat := max lo (min n hi)

/-- R48, R49: SET PARAMETERS with its four values clamped: J, L and the retry count are stored, a k that differs becomes
the pending exponent, and a k that does not drops it. -/
def RateParams.store (j k l retries : Nat) (r : RateParams) : RateParams :=
  { r with j := j, l := l, retries := retries, pendingK := if k = r.k then none else some k }

/-- R48: SET PARAMETERS carries nothing or exactly 6 bytes. -/
def judgeSetParameters (args : List Byte) (s : State) : Judged :=
  match args with
  | [] => executed s (.done (parametersResult s.rate))
  | [j1, j0, k, l1, l0, n] =>
    let j' := clampTo 64 2048 (value2 j1 j0)
    let k' := clampTo 10 14 k.toNat
    let l' := clampTo 0 32767 (value2 l1 l0)
    let n' := clampTo 0 3 n.toNat
    let clamped := j' != value2 j1 j0 || k' != k.toNat || l' != value2 l1 l0 || n' != n.toNat
    let rate := s.rate.store j' k' l' n'
    executed { s with rate := rate } (.doneClamped clamped (parametersResult rate))
  | _ => refused s .badArgument

/-- SET_PARAMETERS (R48, R49). -/
def execSetParameters (x : Link) (s : State) : Answer := takeCommand 0x02#8 false x judgeSetParameters s

/-- R164: LINK RESET empties the queue, clears the lost and overrun flags and deasserts the alert line. -/
def judgeLinkReset (x : Link) (args : List Byte) (s : State) : Judged :=
  match args with
  | [] => executed (s.setLink x { s.link x with queue := [], lost := false, overrun := false, alert := false }) (.done [])
  | _ => refused s .badArgument

/-- LINK_RESET (R164). -/
def execLinkReset (x : Link) (s : State) : Answer := takeCommand 0x03#8 false x (judgeLinkReset x) s

/-- R170: SUBSCRIBE sets or reports the mask; bits that name no kind are not stored. -/
def judgeSubscribe (x : Link) (args : List Byte) (s : State) : Judged :=
  match args with
  | [] => executed s (.done (byte2 (s.link x).mask.toNat))
  | [m1, m0] =>
    let mask := BitVec.ofNat 9 (value2 m1 m0)
    executed (s.setLink x { s.link x with mask := mask }) (.done (byte2 mask.toNat))
  | _ => refused s .badArgument

/-- SUBSCRIBE (R170). -/
def execSubscribe (x : Link) (s : State) : Answer := takeCommand 0x04#8 false x (judgeSubscribe x) s

/-- R173: the result of SET ALERT. DESIGN CHOICE of the byte of the alert line state, 01h asserted (log entry 15). -/
def alertResult (l : LinkState) : List Byte := byte1 l.batch ++ byte2 l.delay ++ [flagByte l.alert]

/-- R173: SET ALERT clamps and stores the batch and the delay, and evaluates the alert line at once. -/
def judgeSetAlert (x : Link) (args : List Byte) (s : State) : Judged :=
  match args with
  | [] => executed s (.done (alertResult (s.link x)))
  | [b, d1, d0] =>
    let b' := clampTo 1 32 b.toNat
    let d' := clampTo 0 1000 (value2 d1 d0)
    let l := LinkState.evalAlert { s.link x with batch := b', delay := d' }
    executed (s.setLink x l) (.doneClamped (b' != b.toNat || d' != value2 d1 d0) (alertResult l))
  | _ => refused s .badArgument

/-- SET_ALERT (R173). -/
def execSetAlert (x : Link) (s : State) : Answer := takeCommand 0x05#8 false x (judgeSetAlert x) s

/-- R171: READ NOTICES removes the oldest notices, at most 8, and clears the lost flag it reports. -/
def judgeReadNotices (x : Link) (args : List Byte) (s : State) : Judged :=
  match args with
  | [n] =>
    if n = 0x00#8 then refused s .badArgument
    else
      let l := s.link x
      let taken := l.queue.take (min n.toNat 8)
      let rest := l.queue.drop (min n.toNat 8)
      executed (s.setLink x (LinkState.evalAlert { l with queue := rest, lost := false }))
        (.doneClamped (decide (8 < n.toNat))
          (byte1 taken.length ++ [flagByte l.lost] ++ byte1 rest.length ++ taken.flatMap (fun q => noticeBytes q.notice)))
  | _ => refused s .badArgument

/-- READ_NOTICES (R171). -/
def execReadNotices (x : Link) (s : State) : Answer := takeCommand 0x06#8 false x (judgeReadNotices x) s

/-- R17: SET TIME makes its 4-byte value the pending seconds value. -/
def judgeSetTime (args : List Byte) (s : State) : Judged :=
  match args with
  | [b3, b2, b1, b0] =>
    executed { s with time := { s.time with
      pendingSeconds := some (BitVec.ofNat 32 (value2 b3 b2 * 65536 + value2 b1 b0)) } } (.done [])
  | _ => refused s .badArgument

/-- SET_TIME (R17). -/
def execSetTime (x : Link) (s : State) : Answer := takeCommand 0x07#8 false x judgeSetTime s

/-- R18: the result of READ TIME. -/
def timeResult (t : Timebase) : List Byte :=
  byte4 t.seconds.toNat ++ byte2 t.frame ++ optionalItem byte4 (t.pendingSeconds.map BitVec.toNat)
    ++ [flagByte t.refPresent]

/-- R18: READ TIME. DESIGN CHOICE of the byte of the reference state (log entry 15). -/
def judgeReadTime (args : List Byte) (s : State) : Judged :=
  match args with
  | [] => executed s (.done (timeResult s.time))
  | _ => refused s .badArgument

/-- READ_TIME (R18). -/
def execReadTime (x : Link) (s : State) : Answer := takeCommand 0x08#8 true x judgeReadTime s

/-- R18: the record of a line in READ LINES. -/
def lineRecord (s : State) (l : Nat) : List Byte :=
  byte1 l ++ [flagByte (s.lif l).signal] ++ byte1 (s.lif l).align.code ++ byte1 (s.lif l).confirm
    ++ byte1 (s.lif l).miss

/-- R18: READ LINES. -/
def judgeReadLines (args : List Byte) (s : State) : Judged :=
  match args with
  | [] => executed s (.done ((List.range 18).flatMap (lineRecord s)))
  | _ => refused s .badArgument

/-- READ_LINES (R18). -/
def execReadLines (x : Link) (s : State) : Answer := takeCommand 0x09#8 true x judgeReadLines s

end Sys2Proof.Machine
end

