-- ==== Sys2Proof/Machine/BankCommands.lean ====
section
/-! DEFINITION. The Bank commands: the three writes (R58 to R63), the three reads (R64 to R67), and the Map Engine's
CLEAR BANK, COPY BANK, VERIFY BANK (R80) and ACTIVATE BANK (R85). -/

namespace Sys2Proof.Machine

/-! ### Writes -/

/-- R58, steps 3 to 5: a write whose argument has passed its checks is refused on the active bank and on a held bank;
else the record is replaced and the revision rises. The result is R62's. -/
def judgeWrite (b : BankNo) (index : List Byte) (clamped : Bool) (put : Bank → Bank) (record : Bank → List Byte)
    (s : State) : Judged :=
  if s.active = some b then refused s .activeBank
  else if !(s.hold b).noHold then refused s .busy
  else
    let v := (put (s.bank b)).bumped
    executed (s.setBank b v) (.doneClamped clamped (byte1 b.val ++ index ++ byte2 v.revision.toNat ++ record v))

/-- R59: WRITE ENTRY. -/
def judgeWriteEntry (args : List Byte) (s : State) : Judged :=
  match args with
  | [b, i1, i0, e0, e1, e2, e3, e4, e5] =>
    match bankOf b with
    | none => refused s .badArgument
    | some bank =>
      if value2 i1 i0 < 1536 then
        match decodeEntry (value2 i1 i0) [e0, e1, e2, e3, e4, e5] with
        | none => refused s .badArgument
        | some e =>
          judgeWrite bank (byte2 (value2 i1 i0)) false (·.setEntry (value2 i1 i0) e)
            (fun v => entryBytes (v.entry (value2 i1 i0))) s
      else refused s .badArgument
  | _ => refused s .badArgument

/-- WRITE_ENTRY (R58, R59, R62). -/
def execWriteEntry (x : Link) (s : State) : Answer := takeCommand 0x10#8 false x judgeWriteEntry s

/-- R60: WRITE PROFILE. -/
def judgeWriteProfile (args : List Byte) (s : State) : Judged :=
  match args with
  | [b, i1, i0, p0, p1, p2, p3] =>
    match bankOf b with
    | none => refused s .badArgument
    | some bank =>
      if value2 i1 i0 < 1536 then
        match decodeProfile (value2 i1 i0) [p0, p1, p2, p3] with
        | none => refused s .badArgument
        | some p =>
          judgeWrite bank (byte2 (value2 i1 i0)) (p.map Profile.clamp != p)
            (·.setProfile (value2 i1 i0) (p.map Profile.clamp)) (fun v => profileBytes (v.profile (value2 i1 i0))) s
      else refused s .badArgument
  | _ => refused s .badArgument

/-- WRITE_PROFILE (R58, R60, R62). -/
def execWriteProfile (x : Link) (s : State) : Answer := takeCommand 0x11#8 false x judgeWriteProfile s

/-- R61: WRITE GROUP. -/
def judgeWriteGroup (args : List Byte) (s : State) : Judged :=
  match args with
  | [b, g, g0, g1, g2, g3, g4, g5, g6, g7] =>
    match bankOf b with
    | none => refused s .badArgument
    | some bank =>
      match decodeGroup [g0, g1, g2, g3, g4, g5, g6, g7] with
      | none => refused s .badArgument
      | some d =>
        judgeWrite bank (byte1 g.toNat) (d.map GroupDef.clamp != d) (·.setGroupDef g.toNat (d.map GroupDef.clamp))
          (fun v => groupBytes (v.groupDef g.toNat)) s
  | _ => refused s .badArgument

/-- WRITE_GROUP (R58, R61, R62). -/
def execWriteGroup (x : Link) (s : State) : Answer := takeCommand 0x12#8 false x judgeWriteGroup s

/-! ### Reads -/

/-- R64 to R67: a read of consecutive records of a bank that is not write-held. -/
def judgeRead (b : BankNo) (size limit first count : Nat) (firstBytes : List Byte) (record : Bank → Nat → List Byte)
    (s : State) : Judged :=
  if (s.hold b).writeHeld then refused s .busy
  else
    let n := min (min count limit) (size - first)
    executed s (.doneClamped (decide (limit < count))
      (byte1 b.val ++ byte2 (s.bank b).revision.toNat ++ [flagByte (s.active == some b)] ++ firstBytes ++ byte1 n
        ++ (List.range n).flatMap (fun i => record (s.bank b) (first + i))))

/-- R64: READ ENTRIES. -/
def judgeReadEntries (args : List Byte) (s : State) : Judged :=
  match args with
  | [b, i1, i0, n] =>
    match bankOf b with
    | none => refused s .badArgument
    | some bank =>
      if value2 i1 i0 < 1536 ∧ n ≠ 0x00#8 then
        judgeRead bank 1536 40 (value2 i1 i0) n.toNat (byte2 (value2 i1 i0)) (fun v i => entryBytes (v.entry i)) s
      else refused s .badArgument
  | _ => refused s .badArgument

/-- READ_ENTRIES (R64, R67). -/
def execReadEntries (x : Link) (s : State) : Answer := takeCommand 0x13#8 false x judgeReadEntries s

/-- R65: READ PROFILES. -/
def judgeReadProfiles (args : List Byte) (s : State) : Judged :=
  match args with
  | [b, i1, i0, n] =>
    match bankOf b with
    | none => refused s .badArgument
    | some bank =>
      if value2 i1 i0 < 1536 ∧ n ≠ 0x00#8 then
        judgeRead bank 1536 60 (value2 i1 i0) n.toNat (byte2 (value2 i1 i0)) (fun v i => profileBytes (v.profile i)) s
      else refused s .badArgument
  | _ => refused s .badArgument

/-- READ_PROFILES (R65, R67). -/
def execReadProfiles (x : Link) (s : State) : Answer := takeCommand 0x14#8 false x judgeReadProfiles s

/-- R66: READ GROUPS. -/
def judgeReadGroups (args : List Byte) (s : State) : Judged :=
  match args with
  | [b, g, n] =>
    match bankOf b with
    | none => refused s .badArgument
    | some bank =>
      if n ≠ 0x00#8 then
        judgeRead bank 256 30 g.toNat n.toNat (byte1 g.toNat) (fun v i => groupBytes (v.groupDef i)) s
      else refused s .badArgument
  | _ => refused s .badArgument

/-- READ_GROUPS (R66, R67). -/
def execReadGroups (x : Link) (s : State) : Answer := takeCommand 0x15#8 false x judgeReadGroups s

/-! ### Map Engine operations -/

/-- R80: CLEAR BANK. -/
def judgeClearBank (args : List Byte) (s : State) : Judged :=
  match args with
  | [b] =>
    match bankOf b with
    | none => refused s .badArgument
    | some bank =>
      if s.active = some bank then refused s .activeBank
      else if s.mapEngine.isSome then refused s .busy
      else if !(s.hold bank).noHold then refused s .busy
      else
        executed { s.mapHold bank (some .write) with mapEngine := some (.clear bank) }
          (.accepted (byte1 OpName.clear.code ++ byte1 bank.val ++ byte2 (s.bank bank).revision.toNat))
  | _ => refused s .badArgument

/-- CLEAR_BANK (R80, R81). -/
def execClearBank (x : Link) (s : State) : Answer := takeCommand 0x16#8 false x judgeClearBank s

/-- R80: COPY BANK: the source read-held, the destination write-held. -/
def judgeCopyBank (args : List Byte) (s : State) : Judged :=
  match args with
  | [b, d] =>
    match bankOf b, bankOf d with
    | some src, some dst =>
      if src = dst then refused s .badArgument
      else if s.active = some dst then refused s .activeBank
      else if s.mapEngine.isSome then refused s .busy
      else if (s.hold src).writeHeld || !(s.hold dst).noHold then refused s .busy
      else
        executed { (s.mapHold src (some .read)).mapHold dst (some .write) with mapEngine := some (.copy src dst) }
          (.accepted (byte1 OpName.copy.code ++ byte1 src.val ++ byte1 dst.val ++ byte2 (s.bank src).revision.toNat
            ++ byte2 (s.bank dst).revision.toNat))
    | _, _ => refused s .badArgument
  | _ => refused s .badArgument

/-- COPY_BANK (R80, R82). -/
def execCopyBank (x : Link) (s : State) : Answer := takeCommand 0x17#8 false x judgeCopyBank s

/-- R80: VERIFY BANK. -/
def judgeVerifyBank (args : List Byte) (s : State) : Judged :=
  match args with
  | [b] =>
    match bankOf b with
    | none => refused s .badArgument
    | some bank =>
      if s.mapEngine.isSome then refused s .busy
      else if (s.hold bank).writeHeld then refused s .busy
      else
        executed { s.mapHold bank (some .read) with mapEngine := some (.verify bank (s.bank bank).revision) }
          (.accepted (byte1 OpName.verify.code ++ byte1 bank.val ++ byte2 (s.bank bank).revision.toNat))
  | _ => refused s .badArgument

/-- VERIFY_BANK (R80, R83). -/
def execVerifyBank (x : Link) (s : State) : Answer := takeCommand 0x18#8 false x judgeVerifyBank s

/-- The expected revision of an ACTIVATE BANK argument: absent in 1 byte, present in 3; other lengths are refused
(R85). -/
def activateArgument : List Byte → Option (Byte × Option Half)
  | [b] => some (b, none)
  | [b, r1, r0] => some (b, some (BitVec.ofNat 16 (value2 r1 r0)))
  | _ => none

/-- R85, steps 3 to 7: ACTIVATE BANK of a bank, with an expected revision or without. -/
def judgeActivate (bank : BankNo) (expected : Option Half) (s : State) : Judged :=
  let result := byte1 bank.val ++ byte2 (s.bank bank).revision.toNat
  if s.active = some bank then refused s .activeBank
  else if s.mapEngine.isSome then refused s .busy
  else if (s.hold bank).writeHeld then refused s .busy
  else if expected.isSome && expected != some (s.bank bank).revision then executed s ⟨.stale, false, result⟩
  else executed (s.startCheck bank) (.accepted result)

/-- R85: ACTIVATE BANK. -/
def judgeActivateBank (args : List Byte) (s : State) : Judged :=
  match activateArgument args with
  | none => refused s .badArgument
  | some (b, expected) =>
    match bankOf b with
    | none => refused s .badArgument
    | some bank => judgeActivate bank expected s

/-- ACTIVATE_BANK (R85). -/
def execActivateBank (x : Link) (s : State) : Answer := takeCommand 0x19#8 false x judgeActivateBank s

end Sys2Proof.Machine
end

