-- ==== Sys2Proof/Machine/ProtectionCommands.lean ====
section
/-! DEFINITION. The Protection commands: PUSH REQUEST, WITHDRAW REQUEST, WITHDRAW ALL (R133 to R135), READ GROUP STATE
(R149), READ STAMP and SET STAMP LOCK (R148). -/

namespace Sys2Proof.Machine

/-- The list of a group in a result: its count, then each kind and origin, highest rank first. -/
def requestListBytes (r : GroupRec) : List Byte :=
  byte1 r.requests.length ++ r.requests.flatMap (fun q => byte1 q.kind.code ++ byte1 (linkCode q.origin))

/-- R133: the DONE result of a request command. -/
def requestResult (g : Nat) (r : GroupRec) : List Byte :=
  byte1 g ++ requestListBytes r ++ byte1 r.governing.code ++ byte1 r.selection.code ++ byte2 r.switchCount

/-- A request command changes the list and evaluates the group in the same event. -/
def evaluated (g : Nat) (r : GroupRec) (lead : List Byte) (s : State) : Judged :=
  let e := (Ev.start s).evaluateGroup g r
  (e, .done (lead ++ requestResult g (e.st.group g)))

/-- R133, step 4: the list already holds the kind, or a manual request for a manual kind. -/
def GroupRec.duplicates (k : ReqKind) (r : GroupRec) : Bool :=
  r.requests.any (fun q => q.kind == k) || (k.isManual && r.requests.any (fun q => q.kind.isManual))

/-- R133, step 6: the list with a request inserted at its rank. -/
def GroupRec.push (k : ReqKind) (x : Link) (r : GroupRec) : GroupRec :=
  { r with requests := insertRequest ⟨k, x⟩ r.requests }

/-- R133: PUSH REQUEST. -/
def judgePushRequest (x : Link) (args : List Byte) (s : State) : Judged :=
  match args with
  | [g, k] =>
    match controllerKind k with
    | none => refused s .badArgument
    | some kind =>
      let r := s.group g.toNat
      if r.settings.isNone then refused s .notDefined
      else if r.duplicates kind then refused s .duplicate
      else if kind.isManual && decide (2 < r.governing.rank) then refused s .outranked
      else evaluated g.toNat (r.push kind x) [] s
  | _ => refused s .badArgument

/-- PUSH_REQUEST (R133). -/
def execPushRequest (x : Link) (s : State) : Answer := takeCommand 0x20#8 false x (judgePushRequest x) s

/-- R134: WITHDRAW REQUEST. -/
def judgeWithdrawRequest (args : List Byte) (s : State) : Judged :=
  match args with
  | [g, k] =>
    match controllerKind k with
    | none => refused s .badArgument
    | some kind =>
      let r := s.group g.toNat
      if r.settings.isNone then refused s .notDefined
      else if r.requests.any (fun q => q.kind == kind) then
        evaluated g.toNat { r with requests := r.requests.filter (fun q => q.kind != kind) } [] s
      else refused s .notPresent
  | _ => refused s .badArgument

/-- WITHDRAW_REQUEST (R134). -/
def execWithdrawRequest (x : Link) (s : State) : Answer := takeCommand 0x21#8 false x judgeWithdrawRequest s

/-- R135: WITHDRAW ALL. -/
def judgeWithdrawAll (args : List Byte) (s : State) : Judged :=
  match args with
  | [g] =>
    let r := s.group g.toNat
    if r.settings.isNone then refused s .notDefined
    else evaluated g.toNat { r with requests := [] } (byte1 r.requests.length) s
  | _ => refused s .badArgument

/-- WITHDRAW_ALL (R135). -/
def execWithdrawAll (x : Link) (s : State) : Answer := takeCommand 0x22#8 false x judgeWithdrawAll s

/-- One side of READ GROUP STATE: raw condition, effective condition, hold-off timer. -/
def sideBytes (sd : SideRec) : List Byte := byte1 sd.raw.code ++ byte1 sd.eff.code ++ byte2 sd.timer

/-- R149: the result of READ GROUP STATE. -/
def groupStateResult (g : Nat) (r : GroupRec) : List Byte :=
  byte1 g ++ [flagByte r.settings.isSome] ++ groupBytes r.settings ++ byte1 r.selection.code ++ byte1 r.governing.code
    ++ requestListBytes r ++ sideBytes r.working ++ sideBytes r.protect ++ byte4 r.restore ++ byte2 r.switchCount
    ++ [flagByte r.lock, flagByte r.held]

/-- R149: READ GROUP STATE. DESIGN CHOICE of the settings' bytes of an undefined group (log entry 14). -/
def judgeReadGroupState (args : List Byte) (s : State) : Judged :=
  match args with
  | [g] => executed s (.done (groupStateResult g.toNat (s.group g.toNat)))
  | _ => refused s .badArgument

/-- READ_GROUP_STATE (R149). -/
def execReadGroupState (x : Link) (s : State) : Answer := takeCommand 0x23#8 false x judgeReadGroupState s

/-- A stamp in a result: presence, seconds, frame, from, to, cause (R184). -/
def stampBytes : Option Stamp → List Byte
  | some t =>
    [0x01#8] ++ byte4 t.seconds.toNat ++ byte2 t.frame ++ byte1 t.source.code ++ byte1 t.target.code
      ++ byte1 t.cause.code
  | none => List.replicate 10 0x00#8

/-- R148: READ STAMP reports, and then clears the held flag. -/
def judgeReadStamp (args : List Byte) (s : State) : Judged :=
  match args with
  | [g] =>
    let r := s.group g.toNat
    executed (s.setGroup g.toNat { r with held := false })
      (.done (byte1 g.toNat ++ [flagByte r.settings.isSome] ++ byte2 r.switchCount ++ stampBytes r.stamp
        ++ [flagByte r.lock, flagByte r.held]))
  | _ => refused s .badArgument

/-- READ_STAMP (R148). -/
def execReadStamp (x : Link) (s : State) : Answer := takeCommand 0x24#8 false x judgeReadStamp s

/-- R148: SET STAMP LOCK; the held flag is cleared with the lock off. -/
def judgeSetStampLock (args : List Byte) (s : State) : Judged :=
  match args with
  | [g, v] =>
    match flagOf v with
    | none => refused s .badArgument
    | some lock =>
      let r := s.group g.toNat
      if r.settings.isNone then refused s .notDefined
      else
        let r' := { r with lock := lock, held := lock && r.held }
        executed (s.setGroup g.toNat r')
          (.done (byte1 g.toNat ++ [flagByte r'.lock, flagByte r'.held] ++ stampBytes r'.stamp))
  | _ => refused s .badArgument

/-- SET_STAMP_LOCK (R148). -/
def execSetStampLock (x : Link) (s : State) : Answer := takeCommand 0x25#8 false x judgeSetStampLock s

end Sys2Proof.Machine
end

