-- ==== Sys2Proof/Machine/SourceCommands.lean ====
section
/-! DEFINITION. The Sources commands: READ SOURCE (R128), SET WATCH (R122), READ LATCHES (R124), ACK LATCH (R123), SET
PATTERN and ACK PATTERN (R126). -/

namespace Sys2Proof.Machine

/-- The store record of READ SOURCE (R39). -/
def storeBytes (st : Store) : List Byte :=
  byte1 st.state.code ++ byte1 (widthCode st.width) ++ byte2 st.fill ++ signed2 st.integrator ++ byte1 st.lastCode.code
    ++ byte1 st.slips ++ byte2 st.advances ++ byte2 st.retards ++ [flagByte st.complete]

/-- The rate record of READ SOURCE (R50). -/
def rateBytes (r : RateRec) : List Byte :=
  signed2 r.estimate ++ [flagByte r.valid, flagByte r.saturated, flagByte r.excursion]

/-- The Defect Monitor's record of READ SOURCE (R110). -/
def defectBytes (d : DefectRec) : List Byte :=
  [flagByte d.marker, flagByte d.mismatch, flagByte d.degrade] ++ byte2 d.errored ++ byte1 d.raw.code

/-- R128: the result of READ SOURCE. DEDUCED form of an absent width (log entry 16). -/
def sourceResult (s : State) (n : Nat) : List Byte :=
  byte2 n ++ [flagByte (s.isHead n)] ++ byte1 (widthCode (s.activeBank.sourceWidth n)) ++ byte1 (lineOfSlot n)
    ++ [flagByte (s.lineDefect (lineOfSlot n)).absent, flagByte (s.lineDefect (lineOfSlot n)).lost]
    ++ storeBytes (s.store n) ++ rateBytes (s.rateOf n) ++ defectBytes (s.defect n) ++ optionalByte (s.slot n).accepted
    ++ watchBytes (s.watch n) ++ [flagByte (s.watch n).latch]

/-- R128: READ SOURCE. -/
def judgeReadSource (args : List Byte) (s : State) : Judged :=
  match args with
  | [i1, i0] =>
    if value2 i1 i0 < 1536 then executed s (.done (sourceResult s (value2 i1 i0))) else refused s .badArgument
  | _ => refused s .badArgument

/-- READ_SOURCE (R128). -/
def execReadSource (x : Link) (s : State) : Answer := takeCommand 0x28#8 false x judgeReadSource s

/-- R122: the event of SET WATCH with a new entry: the latch is cleared when the entry is disabled; an enabled LEVEL
entry is evaluated at once; then every pattern set is evaluated. -/
def State.setWatchEvent (s : State) (n : Nat) (w : Watch) : Ev :=
  let e := (Ev.start s).modify (·.setWatch n { w with latch := w.enabled && w.latch })
  (if w.enabled then e.evalLevelWatch n else e).evalPatterns

/-- R122: SET WATCH. -/
def judgeSetWatch (args : List Byte) (s : State) : Judged :=
  match args with
  | [i1, i0, w0, w1, w2, w3, w4, w5] =>
    let n := value2 i1 i0
    if n < 1536 then
      match decodeWatch (s.watch n).latch [w0, w1, w2, w3, w4, w5] with
      | none => refused s .badArgument
      | some w =>
        let e := s.setWatchEvent n w
        (e, .done (byte2 n ++ [flagByte (s.isHead n)] ++ watchBytes (e.st.watch n) ++ [flagByte (e.st.watch n).latch]))
    else refused s .badArgument
  | _ => refused s .badArgument

/-- SET_WATCH (R122). -/
def execSetWatch (x : Link) (s : State) : Answer := takeCommand 0x29#8 false x judgeSetWatch s

/-- R124: the latched source indices below a starting index, in descending order. -/
def State.latchedBelow (s : State) (bound : Nat) : List Nat :=
  ((sortedUnique s.watches.keys).reverse).filter (fun n => (s.watch n).latch && decide (n < bound))

/-- R124: the result of READ LATCHES: the number of indices, the indices, the flag, the pattern latches
(DEDUCED order, log entry 13). -/
def latchesResult (s : State) (bound : Nat) : List Byte :=
  let all := s.latchedBelow bound
  let shown := all.take 32
  byte1 shown.length ++ shown.flatMap byte2 ++ [flagByte (decide (32 < all.length))]
    ++ (List.range 8).map (fun p => flagByte (s.pattern p).latch)

/-- R124: READ LATCHES carries nothing or a 2-byte starting index. -/
def judgeReadLatches (args : List Byte) (s : State) : Judged :=
  match args with
  | [] => executed s (.done (latchesResult s 1536))
  | [i1, i0] =>
    if value2 i1 i0 < 1536 then executed s (.done (latchesResult s (value2 i1 i0))) else refused s .badArgument
  | _ => refused s .badArgument

/-- READ_LATCHES (R124). -/
def execReadLatches (x : Link) (s : State) : Answer := takeCommand 0x2A#8 false x judgeReadLatches s

/-- R123: the event of ACK LATCH: the latch is cleared, and an enabled LEVEL entry is evaluated at once. -/
def State.ackLatchEvent (s : State) (n : Nat) : Ev :=
  ((Ev.start s).modify (·.setWatch n { s.watch n with latch := false })).evalLevelWatch n

/-- R123: ACK LATCH. -/
def judgeAckLatch (args : List Byte) (s : State) : Judged :=
  match args with
  | [i1, i0] =>
    let n := value2 i1 i0
    if n < 1536 then
      let e := s.ackLatchEvent n
      (e, .done (byte2 n ++ [flagByte (s.watch n).latch, flagByte (e.st.watch n).latch]))
    else refused s .badArgument
  | _ => refused s .badArgument

/-- ACK_LATCH (R123). -/
def execAckLatch (x : Link) (s : State) : Answer := takeCommand 0x2B#8 false x judgeAckLatch s

/-- R126: SET PATTERN. -/
def judgeSetPattern (args : List Byte) (s : State) : Judged :=
  match args with
  | [p, en, cls] =>
    match flagOf en with
    | none => refused s .badArgument
    | some enabled =>
      if p.toNat ≤ 7 ∧ cls.toNat ≤ 15 then
        let t : Pattern := ⟨enabled, cls.toNat, enabled && (s.pattern p.toNat).latch⟩
        let e := ((Ev.start s).modify (·.setPattern p.toNat t)).evalPattern p.toNat
        (e, .done (byte1 p.toNat ++ [flagByte enabled] ++ byte1 cls.toNat ++ [flagByte (s.patternHolds p.toNat)]
          ++ byte2 (s.patternMembers p.toNat).length ++ [flagByte (e.st.pattern p.toNat).latch]))
      else refused s .badArgument
  | _ => refused s .badArgument

/-- SET_PATTERN (R126). -/
def execSetPattern (x : Link) (s : State) : Answer := takeCommand 0x2C#8 false x judgeSetPattern s

/-- R126: ACK PATTERN. -/
def judgeAckPattern (args : List Byte) (s : State) : Judged :=
  match args with
  | [p] =>
    if p.toNat ≤ 7 then
      let e := ((Ev.start s).modify (·.setPattern p.toNat { s.pattern p.toNat with latch := false })).evalPattern p.toNat
      (e, .done (byte1 p.toNat ++ [flagByte (s.pattern p.toNat).latch, flagByte (e.st.pattern p.toNat).latch]))
    else refused s .badArgument
  | _ => refused s .badArgument

/-- ACK_PATTERN (R126). -/
def execAckPattern (x : Link) (s : State) : Answer := takeCommand 0x2D#8 false x judgeAckPattern s

end Sys2Proof.Machine
end

