-- ==== Sys2Proof/Machine/ImageCommands.lean ====
section
/-! DEFINITION. The Image commands SAVE IMAGE, LOAD IMAGE and VERIFY IMAGE (R177). -/

namespace Sys2Proof.Machine

/-- R177, steps 4 to 6: an image operation that needs a hold of a kind on its bank. DESIGN CHOICE: the record of SAVE IMAGE
takes the retry count in force as those of the other two do, and theirs the seconds; nothing reads either (log entry
28). -/
def judgeImage (op : ImageOpName) (name : OpName) (bank : BankNo) (kind : HoldKind) (s : State) : Judged :=
  let blocked :=
    match kind with
    | .write => !(s.hold bank).noHold
    | .read => (s.hold bank).writeHeld
  if s.image.op.isSome then refused s .busy
  else if blocked then refused s .busy
  else
    executed
      ((s.imageHold bank (some kind)).imageAt
        ⟨op, bank, (s.bank bank).revision, s.rate.retries, some 0, 0, s.time.seconds, false, []⟩)
      (.accepted (byte1 name.code ++ byte1 bank.val ++ byte2 (s.bank bank).revision.toNat))

/-- R177: SAVE IMAGE. -/
def judgeSaveImage (args : List Byte) (s : State) : Judged :=
  match args with
  | [b] =>
    match bankOf b with
    | none => refused s .badArgument
    | some bank => judgeImage .save .save bank .read s
  | _ => refused s .badArgument

/-- SAVE_IMAGE (R177, R179). -/
def execSaveImage (x : Link) (s : State) : Answer := takeCommand 0x30#8 false x judgeSaveImage s

/-- R177: LOAD IMAGE. -/
def judgeLoadImage (args : List Byte) (s : State) : Judged :=
  match args with
  | [b] =>
    match bankOf b with
    | none => refused s .badArgument
    | some bank => if s.active = some bank then refused s .activeBank else judgeImage .load .load bank .write s
  | _ => refused s .badArgument

/-- LOAD_IMAGE (R177, R180). -/
def execLoadImage (x : Link) (s : State) : Answer := takeCommand 0x31#8 false x judgeLoadImage s

/-- R177: VERIFY IMAGE. -/
def judgeVerifyImage (args : List Byte) (s : State) : Judged :=
  match args with
  | [b] =>
    match bankOf b with
    | none => refused s .badArgument
    | some bank => judgeImage .verifyImage .verifyImage bank .read s
  | _ => refused s .badArgument

/-- VERIFY_IMAGE (R177, R181). -/
def execVerifyImage (x : Link) (s : State) : Answer := takeCommand 0x32#8 false x judgeVerifyImage s

end Sys2Proof.Machine
end

