-- ==== Sys2Proof/Machine/Dispatch.lean ====
section
/-! DEFINITION. The meaning of every command: one arm for each row of spec/opcode_table.json. -/

namespace Sys2Proof.Machine

def exec (i : Instr) (s : State) : Host.Outcome State Fault Refusal :=
  match i with
  | .resetLine selectLowA selectLowB => Sys2Proof.Machine.execResetLine selectLowA selectLowB s
  | .signalAbsent line => Sys2Proof.Machine.execSignalAbsent line s
  | .signalPresent line => Sys2Proof.Machine.execSignalPresent line s
  | .alignmentFind line position word => Sys2Proof.Machine.execAlignmentFind line position word s
  | .confirmWord line word => Sys2Proof.Machine.execConfirmWord line word s
  | .lockedWord line word => Sys2Proof.Machine.execLockedWord line word s
  | .ingressArrival line slots => Sys2Proof.Machine.execIngressArrival line slots s
  | .frameMark time => Sys2Proof.Machine.execFrameMark time s
  | .referenceLost => Sys2Proof.Machine.execReferenceLost s
  | .oscillatorBoundary => Sys2Proof.Machine.execOscillatorBoundary s
  | .regainGap => Sys2Proof.Machine.execRegainGap s
  | .secondRollover cause => Sys2Proof.Machine.execSecondRollover cause s
  | .windowEnd cause => Sys2Proof.Machine.execWindowEnd cause s
  | .holdOffExpiry group side cause => Sys2Proof.Machine.execHoldOffExpiry group side cause s
  | .restoreWaitExpiry group cause => Sys2Proof.Machine.execRestoreWaitExpiry group cause s
  | .alertDelayExpiry link cause => Sys2Proof.Machine.execAlertDelayExpiry link cause s
  | .adoption cause => Sys2Proof.Machine.execAdoption cause s
  | .clearCompletion => Sys2Proof.Machine.execClearCompletion s
  | .copyCompletion => Sys2Proof.Machine.execCopyCompletion s
  | .verifyCompletion => Sys2Proof.Machine.execVerifyCompletion s
  | .activationCheckEnd => Sys2Proof.Machine.execActivationCheckEnd s
  | .pageReadCompletion read => Sys2Proof.Machine.execPageReadCompletion read s
  | .pageWriteCompletion => Sys2Proof.Machine.execPageWriteCompletion s
  | .frameArrival link part => Sys2Proof.Machine.execFrameArrival link part s
  | .readTransfer link part => Sys2Proof.Machine.execReadTransfer link part s
  | .readStatus link => Sys2Proof.Machine.execReadStatus link s
  | .setParameters link => Sys2Proof.Machine.execSetParameters link s
  | .linkReset link => Sys2Proof.Machine.execLinkReset link s
  | .subscribe link => Sys2Proof.Machine.execSubscribe link s
  | .setAlert link => Sys2Proof.Machine.execSetAlert link s
  | .readNotices link => Sys2Proof.Machine.execReadNotices link s
  | .setTime link => Sys2Proof.Machine.execSetTime link s
  | .readTime link => Sys2Proof.Machine.execReadTime link s
  | .readLines link => Sys2Proof.Machine.execReadLines link s
  | .writeEntry link => Sys2Proof.Machine.execWriteEntry link s
  | .writeProfile link => Sys2Proof.Machine.execWriteProfile link s
  | .writeGroup link => Sys2Proof.Machine.execWriteGroup link s
  | .readEntries link => Sys2Proof.Machine.execReadEntries link s
  | .readProfiles link => Sys2Proof.Machine.execReadProfiles link s
  | .readGroups link => Sys2Proof.Machine.execReadGroups link s
  | .clearBank link => Sys2Proof.Machine.execClearBank link s
  | .copyBank link => Sys2Proof.Machine.execCopyBank link s
  | .verifyBank link => Sys2Proof.Machine.execVerifyBank link s
  | .activateBank link => Sys2Proof.Machine.execActivateBank link s
  | .pushRequest link => Sys2Proof.Machine.execPushRequest link s
  | .withdrawRequest link => Sys2Proof.Machine.execWithdrawRequest link s
  | .withdrawAll link => Sys2Proof.Machine.execWithdrawAll link s
  | .readGroupState link => Sys2Proof.Machine.execReadGroupState link s
  | .readStamp link => Sys2Proof.Machine.execReadStamp link s
  | .setStampLock link => Sys2Proof.Machine.execSetStampLock link s
  | .readSource link => Sys2Proof.Machine.execReadSource link s
  | .setWatch link => Sys2Proof.Machine.execSetWatch link s
  | .readLatches link => Sys2Proof.Machine.execReadLatches link s
  | .ackLatch link => Sys2Proof.Machine.execAckLatch link s
  | .setPattern link => Sys2Proof.Machine.execSetPattern link s
  | .ackPattern link => Sys2Proof.Machine.execAckPattern link s
  | .saveImage link => Sys2Proof.Machine.execSaveImage link s
  | .loadImage link => Sys2Proof.Machine.execLoadImage link s
  | .verifyImage link => Sys2Proof.Machine.execVerifyImage link s
  | .skippedTransfer link part => Sys2Proof.Machine.execSkippedTransfer link part s

end Sys2Proof.Machine
end

