-- ==== Sys2Proof/Safety.lean ====
section
/-! DEFINITION. The terms in which claims about the block are stated: a command that waits on a link, the answer it gets,
a notice offered, what an event of the Defect Monitor may touch, and the laws of the device as predicates on its state. -/

namespace Sys2Proof.Machine

/-! ### Answers and notices -/

/-- The link's untaken command is this one (R158). -/
def State.waits (s : State) (x : Link) (code : Byte) (args : List Byte) : Prop := (s.link x).untaken = some ⟨code, args⟩

/-- The state in which the link's command has been taken with a reply, and nothing else has changed (R158). -/
def State.answered (s : State) (x : Link) (code : Byte) (r : Reply) : State := s.setLink x ((s.link x).respond code r)

/-- The state after one notice has been offered with the site time of the event; none is offered before start-up has
finished (R168). -/
def State.notify (s : State) (body : NoticeBody) : State :=
  if s.image.finished then s.offerOne ⟨body, s.time.seconds, s.time.frame⟩ else s

/-- The catalogue commands that are answered STARTING before start-up has finished, with their codes (R159, file 12). -/
def startingCommands (x : Link) : List (Byte × Instr) :=
  [(0x02#8, Instr.setParameters x), (0x03#8, .linkReset x), (0x04#8, .subscribe x), (0x05#8, .setAlert x),
    (0x06#8, .readNotices x), (0x07#8, .setTime x), (0x10#8, .writeEntry x), (0x11#8, .writeProfile x),
    (0x12#8, .writeGroup x), (0x13#8, .readEntries x), (0x14#8, .readProfiles x), (0x15#8, .readGroups x),
    (0x16#8, .clearBank x), (0x17#8, .copyBank x), (0x18#8, .verifyBank x), (0x19#8, .activateBank x),
    (0x20#8, .pushRequest x), (0x21#8, .withdrawRequest x), (0x22#8, .withdrawAll x), (0x23#8, .readGroupState x),
    (0x24#8, .readStamp x), (0x25#8, .setStampLock x), (0x28#8, .readSource x), (0x29#8, .setWatch x),
    (0x2A#8, .readLatches x), (0x2B#8, .ackLatch x), (0x2C#8, .setPattern x), (0x2D#8, .ackPattern x),
    (0x30#8, .saveImage x), (0x31#8, .loadImage x), (0x32#8, .verifyImage x)]

/-! ### Argument values (R51, R59 to R61, R184) -/

/-- The argument byte at a place. -/
def argByte (args : List Byte) (k : Nat) : Nat := (args.getD k 0x00#8).toNat

/-- The 2-byte quantity of an argument at a place. -/
def argPair (args : List Byte) (k : Nat) : Nat := argByte args k * 256 + argByte args (k + 1)

/-- R59: the local checks of an Egress Map entry, beyond the index range, refuse its 6 bytes. -/
def entryRefused (i : Nat) (bytes : List Byte) : Prop :=
  let kind := argByte bytes 0
  let width := argByte bytes 1
  let ref := argPair bytes 2
  3 < kind ∨ kind ≠ 0 ∧ (width ∉ [1, 2, 4, 8] ∨ i % width ≠ 0
    ∨ (kind = 1 ∨ kind = 3) ∧ (1536 ≤ ref ∨ ref % width ≠ 0) ∨ kind = 2 ∧ 256 ≤ ref)

/-- R60: the local checks of a Source Profile, beyond the index range, refuse its 4 bytes. -/
def profileRefused (i : Nat) (bytes : List Byte) : Prop :=
  let width := argByte bytes 0 % 16
  128 ≤ argByte bytes 0 ∧ (width ∉ [1, 2, 4, 8] ∨ i % width ≠ 0)

/-- R61: the local checks of a Group Table entry refuse its 8 bytes. -/
def groupRefused (bytes : List Byte) : Prop :=
  let width := argByte bytes 0 % 16
  let work := argPair bytes 1
  let prot := argPair bytes 3
  128 ≤ argByte bytes 0
    ∧ (width ∉ [1, 2, 4, 8] ∨ 1536 ≤ work ∨ work % width ≠ 0 ∨ 1536 ≤ prot ∨ prot % width ≠ 0)

/-- The catalogue commands with their codes, the argument lengths file 12 gives them, and the arguments of such a length
whose values their rules refuse: a bank above 2, an index out of its table's range, a count of 0, a code that names
nothing, a record that fails a local check. -/
def argumentRules (x : Link) : List (Byte × List Nat × Instr × (List Byte → Prop)) :=
  [(0x01#8, [0], .readStatus x, fun _ => False),
    (0x02#8, [0, 6], .setParameters x, fun _ => False),
    (0x03#8, [0], .linkReset x, fun _ => False),
    (0x04#8, [0, 2], .subscribe x, fun _ => False),
    (0x05#8, [0, 3], .setAlert x, fun _ => False),
    (0x06#8, [1], .readNotices x, fun a => argByte a 0 = 0),
    (0x07#8, [4], .setTime x, fun _ => False),
    (0x08#8, [0], .readTime x, fun _ => False),
    (0x09#8, [0], .readLines x, fun _ => False),
    (0x10#8, [9], .writeEntry x, fun a =>
      2 < argByte a 0 ∨ 1536 ≤ argPair a 1 ∨ entryRefused (argPair a 1) (a.drop 3)),
    (0x11#8, [7], .writeProfile x, fun a =>
      2 < argByte a 0 ∨ 1536 ≤ argPair a 1 ∨ profileRefused (argPair a 1) (a.drop 3)),
    (0x12#8, [10], .writeGroup x, fun a => 2 < argByte a 0 ∨ groupRefused (a.drop 2)),
    (0x13#8, [4], .readEntries x, fun a => 2 < argByte a 0 ∨ 1536 ≤ argPair a 1 ∨ argByte a 3 = 0),
    (0x14#8, [4], .readProfiles x, fun a => 2 < argByte a 0 ∨ 1536 ≤ argPair a 1 ∨ argByte a 3 = 0),
    (0x15#8, [3], .readGroups x, fun a => 2 < argByte a 0 ∨ argByte a 2 = 0),
    (0x16#8, [1], .clearBank x, fun a => 2 < argByte a 0),
    (0x17#8, [2], .copyBank x, fun a => 2 < argByte a 0 ∨ 2 < argByte a 1 ∨ argByte a 0 = argByte a 1),
    (0x18#8, [1], .verifyBank x, fun a => 2 < argByte a 0),
    (0x19#8, [1, 3], .activateBank x, fun a => 2 < argByte a 0),
    (0x20#8, [2], .pushRequest x, fun a => argByte a 1 ∉ [2, 3, 7, 9]),
    (0x21#8, [2], .withdrawRequest x, fun a => argByte a 1 ∉ [2, 3, 7, 9]),
    (0x22#8, [1], .withdrawAll x, fun _ => False),
    (0x23#8, [1], .readGroupState x, fun _ => False),
    (0x24#8, [1], .readStamp x, fun _ => False),
    (0x25#8, [2], .setStampLock x, fun a => 1 < argByte a 1),
    (0x28#8, [2], .readSource x, fun a => 1536 ≤ argPair a 0),
    (0x29#8, [8], .setWatch x, fun a =>
      1536 ≤ argPair a 0 ∨ (∃ k ∈ [2, 3, 4, 5], 1 < argByte a k) ∨ 15 < argByte a 6
        ∨ 7 < argByte a 7 ∧ argByte a 7 ≠ 0xFF),
    (0x2A#8, [0, 2], .readLatches x, fun a => a ≠ [] ∧ 1536 ≤ argPair a 0),
    (0x2B#8, [2], .ackLatch x, fun a => 1536 ≤ argPair a 0),
    (0x2C#8, [3], .setPattern x, fun a => 7 < argByte a 0 ∨ 1 < argByte a 1 ∨ 15 < argByte a 2),
    (0x2D#8, [1], .ackPattern x, fun a => 7 < argByte a 0),
    (0x30#8, [1], .saveImage x, fun a => 2 < argByte a 0),
    (0x31#8, [1], .loadImage x, fun a => 2 < argByte a 0),
    (0x32#8, [1], .verifyImage x, fun a => 2 < argByte a 0)]

/-! ### What an event of the Defect Monitor touches -/

/-- A link without its notices: what offering a notice leaves (R169). -/
def LinkState.besideNotices (l : LinkState) : LinkState := { l with queue := [], lost := false, alert := false }

/-- A defect record without its raw condition. -/
def DefectRec.besideRaw (d : DefectRec) : DefectRec := { d with raw := .ok }

/-- A watch entry without its latch. -/
def Watch.besideLatch (w : Watch) : Watch := { w with latch := false }

/-- A pattern set without its latch. -/
def Pattern.besideLatch (p : Pattern) : Pattern := { p with latch := false }

/-- Two states agree but for what a raw condition change may touch (R113): raw conditions, the groups' records short of
their settings and stamp locks, latches, the links' queues, lost flags and alert lines, and the MODEL count of free
choices. -/
structure State.SameButMonitor (s t : State) : Prop where
  pending     : t.pending = s.pending
  lifs        : t.lifs = s.lifs
  slots       : t.slots = s.slots
  sentParity  : t.sentParity = s.sentParity
  time        : t.time = s.time
  stores      : t.stores = s.stores
  rate        : t.rate = s.rate
  rates       : t.rates = s.rates
  banks       : t.banks = s.banks
  holds       : t.holds = s.holds
  active      : t.active = s.active
  pendingAct  : t.pendingAct = s.pendingAct
  mapEngine   : t.mapEngine = s.mapEngine
  egress      : t.egress = s.egress
  ended       : t.ended = s.ended
  lineDefects : t.lineDefects = s.lineDefects
  defects     : ∀ n, (t.defect n).besideRaw = (s.defect n).besideRaw
  watches     : ∀ n, (t.watch n).besideLatch = (s.watch n).besideLatch
  patterns    : ∀ p, (t.pattern p).besideLatch = (s.pattern p).besideLatch
  settings    : ∀ g, (t.group g).settings = (s.group g).settings
  locks       : ∀ g, (t.group g).lock = (s.group g).lock
  links       : ∀ x, (t.link x).besideNotices = (s.link x).besideNotices
  image       : t.image = s.image
  flash       : t.flash = s.flash

/-- R138, R139: a side of a group meets the raw condition of its source: a worsening waits for the hold-off, which starts
unless it runs already; any other change cancels the hold-off and takes effect at once. -/
def SideRec.meets (holdOff : Nat) (before after : Cond) (sd : SideRec) : SideRec :=
  if before = after then sd
  else if sd.eff.severity < after.severity ∧ 0 < holdOff then
    ⟨after, sd.eff, if sd.timer = 0 then holdOff * 400 else sd.timer⟩
  else ⟨after, after, 0⟩

/-- R137: a group takes the changes of its sources' raw conditions as one event, and is evaluated once if one changed: its
record afterwards, and the notices it raises. -/
def GroupRec.meets (g : Nat) (seconds : Word) (frame : Nat) (before after : Nat → Cond) (r : GroupRec) :
    GroupRec × List NoticeBody :=
  match r.settings with
  | none => (r, [])
  | some d =>
    if before d.working = after d.working ∧ before d.protect = after d.protect then (r, [])
    else GroupRec.evaluate g seconds frame
      { r with
        working := r.working.meets d.holdOff (before d.working) (after d.working)
        protect := r.protect.meets d.holdOff (before d.protect) (after d.protect) }

/-- What the Defect Monitor and the Protection Engine hold as an event, or several in a row, reach them: raw conditions,
groups, latches, and the notices each of the two has raised, in its order. -/
structure Settled where
  raw        : Nat → Cond
  group      : Nat → GroupRec
  watch      : Nat → Bool
  pattern    : Nat → Bool
  monitor    : List NoticeBody
  protection : List NoticeBody

/-- What a state holds, before any notice. -/
def State.settled (s : State) : Settled :=
  ⟨fun n => (s.defect n).raw, s.group, fun n => (s.watch n).latch, fun p => (s.pattern p).latch, [], []⟩

/-- R118 to R120: at a source whose raw condition was `before` and is `after`, the watch latches: enabled, at a watched
head, and its level equals its polarity (LEVEL) or has changed (CHANGE). The entries and heads are those of the state. -/
def State.watchFires (t : State) (before after : Cond) (n : Nat) : Bool :=
  let w := t.watch n
  w.enabled && t.isHead n
    && match w.type with
      | .level => w.level.value after == w.polarity
      | .change => w.level.value before != w.level.value after

/-- R125: under some raw conditions, a pattern set of the state has a member and every member's level equals its
polarity. -/
def State.patternHoldsIn (t : State) (raw : Nat → Cond) (p : Nat) : Bool :=
  !(t.patternMembers p).isEmpty
    && (t.patternMembers p).all (fun n => (t.watch n).level.value (raw n) == (t.watch n).polarity)

/-- R125: an enabled pattern set of the eight whose condition holds. -/
def State.patternFires (t : State) (raw : Nat → Cond) (p : Nat) : Bool :=
  decide (p < 8) && (t.pattern p).enabled && t.patternHoldsIn raw p

/-- R121, R125: the notices of the latches taken between two moments of one event: those of the watches of some sources,
then those of the pattern sets. Classes and levels are those of the state's entries. -/
def State.latchNotices (t : State) (v w : Settled) (sources : List Nat) : List NoticeBody :=
  (sources.filter (fun n => !v.watch n && w.watch n)).map
      (fun n => .watch n (t.watch n).cls ((t.watch n).level.value (w.raw n)))
    ++ ((List.range 8).filter (fun p => !v.pattern p && w.pattern p)).map (fun p => .pattern p (t.pattern p).cls)

/-- R113: one event gives some sources, in ascending order, their raw conditions `after`. If one changes, every group takes
the changes (R137), the watches of the changed sources (R119, R120) and then the pattern sets (R125) are evaluated, and the
notices are raised, WATCH before PATTERN. Settings, heads and the site time are those of the state. -/
def Settled.event (t : State) (sources : List Nat) (after : Nat → Cond) (v : Settled) : Settled :=
  let changed := sources.filter (fun n => v.raw n != after n)
  if changed = [] then v
  else
    let raw : Nat → Cond := fun n => if n ∈ changed then after n else v.raw n
    let met : Nat → GroupRec × List NoticeBody := fun g =>
      (v.group g).meets g t.time.seconds t.time.frame v.raw raw
    let w : Settled := { v with
      raw := raw
      group := fun g => (met g).1
      watch := fun n => v.watch n || (decide (n ∈ changed) && t.watchFires (v.raw n) (raw n) n)
      pattern := fun p => v.pattern p || t.patternFires raw p }
    { w with
      monitor := v.monitor ++ t.latchNotices v w changed
      protection := v.protection ++ t.groups.keys.flatMap (fun g => (met g).2) }

/-- R168: the links' notices of a state came about from those of another by offering what has been raised: the notices of
the Defect Monitor (kinds 0 and 1) and of the Protection Engine (2 and 3), each in its order, and those of the other blocks,
in some order among one another. -/
def State.Offered (before after : State) (v : Settled) (others : List NoticeBody) : Prop :=
  ∃ order : List NoticeBody,
    order.filter (fun b => decide (b.kindCode ≤ 1)) = v.monitor
    ∧ order.filter (fun b => decide (b.kindCode = 2 ∨ b.kindCode = 3)) = v.protection
    ∧ (order.filter (fun b => decide (4 ≤ b.kindCode))).Perm others
    ∧ ∀ x, after.link x = (order.foldl State.notify before).link x

/-- An event has brought the Defect Monitor and the Protection Engine to what is settled, and its notices to the links. -/
structure State.Reaches (before after : State) (v : Settled) (others : List NoticeBody) : Prop where
  groups   : ∀ g, after.group g = v.group g
  watches  : ∀ n, (after.watch n).latch = v.watch n
  patterns : ∀ p, (after.pattern p).latch = v.pattern p
  notices  : before.Offered after v others

/-- The raw condition changes from one state to another are those of one event, which has reached the groups, the watches,
the pattern sets and the links (R113). -/
def State.ChangesReach (s t : State) : Prop :=
  s.Reaches t (s.settled.event t s.stores.keys (fun n => (t.defect n).raw)) []

/-! ### The canonical form of every table -/

/-- A bank's three tables are canonical. -/
def Bank.canonical (b : Bank) : Bool := b.map.wf .idle && b.profiles.wf none && b.groups.wf none

/-- Every table of the state is canonical, those of each bank and of the egress frame among them. -/
structure State.Canonical (s : State) : Prop where
  lifs        : s.lifs.wf Lif.reset = true
  slots       : s.slots.wf Slot.reset = true
  sentParity  : s.sentParity.wf SentParity.reset = true
  stores      : s.stores.wf Store.reset = true
  rates       : s.rates.wf RateRec.reset = true
  banks       : s.banks.wf Bank.reset = true
  bankTables  : ∀ b : BankNo, (s.bank b).canonical = true
  holds       : s.holds.wf HoldRec.reset = true
  lineDefects : s.lineDefects.wf LineDefects.reset = true
  defects     : s.defects.wf DefectRec.reset = true
  watches     : s.watches.wf Watch.reset = true
  patterns    : s.patterns.wf Pattern.reset = true
  groups      : s.groups.wf GroupRec.reset = true
  flash       : s.flash.wf erasedPage = true
  egress      : ∀ f, s.egress = some f → f.content.wf Content.idle = true ∧ f.overhead.wf 0 = true
  ended       : ∀ e, s.ended = some e → e.frame.content.wf Content.idle = true ∧ e.frame.overhead.wf 0 = true

/-! ### Holds and the active bank (R76, R77, R89) -/

/-- The hold the Map Engine's operation places on a bank (R76). -/
def mapHoldOf (op : Option MapOp) (b : BankNo) : Option HoldKind :=
  match op with
  | none => none
  | some (.clear c) => if b = c then some .write else none
  | some (.copy c d) => if b = d then some .write else if b = c then some .read else none
  | some (.verify c _) => if b = c then some .read else none
  | some (.activateCheck c _) => if b = c then some .read else none
  | some (.activatePending c _) => if b = c then some .read else none

/-- The kind of hold an image operation needs (R76). -/
def ImageOpName.holdKind : ImageOpName → HoldKind
  | .save | .verifyImage => .read
  | .load | .startLoad => .write

/-- The hold the Image Store Controller's operation places on a bank; START-LOAD places none once its load has ended
(R182). -/
def imageHoldOf (op : Option ImageOp) (b : BankNo) : Option HoldKind :=
  match op with
  | none => none
  | some o => if o.page.isSome && b == o.bank then some o.op.holdKind else none

/-- The holds stand exactly for the operations in progress; a write-held bank is neither active nor otherwise held
(R77); exactly the finished start-up has an active bank (R89); a pending activation is the Map Engine's (R88); before
start-up has finished, the Image Store Controller runs START-LOAD, alone until its load has ended (R182). -/
structure State.HoldsOk (s : State) : Prop where
  mapEngine : ∀ b, (s.hold b).mapEngine = mapHoldOf s.mapEngine b
  image     : ∀ b, (s.hold b).image = imageHoldOf s.image.op b
  distinct  : ∀ c d, s.mapEngine = some (.copy c d) → c ≠ d
  alone     : ∀ b, (s.hold b).writeHeld = true → (s.hold b).mapEngine = none ∨ (s.hold b).image = none
  notActive : ∀ b, (s.hold b).writeHeld = true → s.active ≠ some b
  pending   : ∀ p : PendingActivation,
      s.pendingAct = some p ↔ s.mapEngine = some (.activatePending p.bank p.revision)
  started   : s.image.finished = s.active.isSome
  startLoad : s.image.finished = false →
      ∃ op, s.image.op = some op ∧ op.op = .startLoad ∧ (op.page ≠ none → s.mapEngine = none)
  running   : s.image.finished = true → ∀ op, s.image.op = some op → op.op ≠ .startLoad ∧ op.page ≠ none

/-- The active bank and a pending bank satisfy C1 to C6 (R89). -/
def State.Consistent (s : State) : Prop :=
  (∀ b, s.active = some b → (s.bank b).check = none)
    ∧ ∀ p : PendingActivation, s.pendingAct = some p → (s.bank p.bank).check = none

/-- The stores and groups follow the active bank: a store is IDLE exactly when the active bank does not reference its
source (R19), its width is that of the source's profile (R21), a group's settings are the active bank's entry (R129), and
an undefined group holds its reset values (R130). -/
structure State.FollowsBank (s : State) : Prop where
  idle     : ∀ n, (s.store n).state = .idle ↔ n ∉ s.activeBank.referenced
  width    : ∀ n, n ∈ s.activeBank.referenced → (s.store n).width = s.activeBank.sourceWidth n
  settings : ∀ g, (s.group g).settings = s.activeBank.groupDef g
  reset    : ∀ g, (s.group g).settings = none → s.group g = GroupRec.reset

/-- No record of a bank stands outside the index range of its table (R52, R54, R55). -/
structure Bank.Ranged (b : Bank) : Prop where
  map      : ∀ n, 1536 ≤ n → b.entry n = .idle
  profiles : ∀ n, 1536 ≤ n → b.profile n = none
  groups   : ∀ g, 256 ≤ g → b.groupDef g = none

/-- Every bank keeps to the index ranges of its tables. -/
def State.BanksRanged (s : State) : Prop := ∀ b, (s.bank b).Ranged

/-! ### Lines, sources, stores, requests, queues -/

/-- The Defect Monitor agrees with what it watches: LINE_ABSENT is the absence of signal and FRAME_LOST any alignment
state other than LOCKED (R18), and the raw condition held is the one the levels give (R112). -/
structure State.MonitorAgrees (s : State) : Prop where
  absent : ∀ l, (s.lineDefect l).absent = !(s.lif l).signal
  lost   : ∀ l, (s.lineDefect l).lost = ((s.lif l).align != .locked)
  raw    : ∀ n, (s.defect n).raw = s.derivedRaw n

/-- A store within its bounds (R19). -/
structure Store.Bounded (st : Store) : Prop where
  fill     : st.bytes.length ≤ 256 * st.w
  low      : -4095 ≤ st.integrator
  high     : st.integrator ≤ 4095
  rest     : st.state ≠ .running → st.integrator = 0
  idle     : st.state = .idle → st.width = none ∧ st.bytes = []
  slips    : st.slips ≤ 255

/-- The controller kinds (R131). -/
def ReqKind.isController (k : ReqKind) : Bool := k == .holdWorking || k == .forceProtect || k.isManual

/-- A controller request list: controller kinds of strictly decreasing rank (R132). -/
def requestsOrdered (l : List Request) : Prop :=
  (∀ q ∈ l, q.kind.isController = true) ∧ l.Pairwise (fun p q => q.kind.rank < p.kind.rank)

/-- Both links' notice queues hold at most 32 notices (R169). -/
def State.QueuesBounded (s : State) : Prop := ∀ x, (s.link x).queue.length ≤ 32

/-- R172: the alert line of a link should be asserted: its queue is not empty, and it holds at least batch notices or the
delay is above 0 and the oldest notice has waited for it. -/
def LinkState.alertWanted (l : LinkState) : Prop :=
  l.queue ≠ [] ∧ (l.batch ≤ l.queue.length ∨ 0 < l.delay ∧ ∃ q, l.queue.head? = some q ∧ l.delay * 4 ≤ q.wait)

/-- Every content record of the frame being sent carries the payload bytes that its code and width state (R98). -/
def State.FrameCounts (s : State) : Prop :=
  ∀ f, s.egress = some f → ∀ h, (f.content.get Content.idle h).payload.length
    = codeCount (f.content.get Content.idle h).code (f.content.get Content.idle h).width

/-- The numbers of the block lie in their ranges: stores (R19), request lists (R132), queues (R169) and alert lines
(R172), the site time (R17), the window exponents and counter (R41, R42); and between its two writes of page 0, SAVE IMAGE
has left an invalidated header there (R179). -/
structure State.RecordsBounded (s : State) : Prop where
  stores   : ∀ n, (s.store n).Bounded
  requests : ∀ g, requestsOrdered (s.group g).requests
  queues   : s.QueuesBounded
  alerts   : ∀ x, (s.link x).alert = true ↔ (s.link x).alertWanted
  frame    : s.time.frame < 4000
  saving   : ∀ op p, s.image.op = some op → op.op = .save → op.page = some p → 0 < p ∨ op.finalHeader = true →
      s.flashPage 0 = invalidHeaderPage
  exponent : 10 ≤ s.rate.k ∧ s.rate.k ≤ 14
  waiting  : ∀ k, s.rate.pendingK = some k → 10 ≤ k ∧ k ≤ 14
  counter  : s.rate.counter < 2 ^ s.rate.k

/-! ### Core frame boundaries (R16) -/

/-- R16: a mark at this time is the 16th good one while the reference is absent: 15 are counted, and it comes 125 to 375
microseconds after the previous one. -/
def State.regainsAt (s : State) (m : Nat) : Prop :=
  s.time.refPresent = false ∧ 15 ≤ s.time.regain ∧ ∃ q, s.time.lastMark = some q ∧ q + 125000 ≤ m ∧ m ≤ q + 375000

/-- The cause produces a boundary in this state: a mark 125 to 375 microseconds after the last boundary or the loss of the
reference while it is present, the oscillator while it is absent, and the mark that regains the reference if it comes 125
microseconds or more after the last boundary (R16). -/
def State.makesBoundary (s : State) : BoundaryCause → Prop
  | .mark m =>
    s.time.lastBoundary + 125000 ≤ m
      ∧ (s.time.refPresent = true ∧ m ≤ s.time.lastBoundary + 375000 ∨ s.regainsAt m)
  | .oscillator => s.time.refPresent = false
  | .lost => s.time.refPresent = true

/-- The timebase event that produces a boundary. -/
def boundaryEvent : BoundaryCause → Instr
  | .mark m => .frameMark m
  | .oscillator => .oscillatorBoundary
  | .lost => .referenceLost

/-- The next boundary is a window end (R42). -/
abbrev State.endsWindow (s : State) : Prop := s.rate.pendingK = none ∧ s.rate.counter + 1 = 2 ^ s.rate.k

/-- The commands that are the boundary a cause produces: the timebase event itself, and each row of the table that names
what comes about at a boundary, where that is due (log entry 3). -/
inductive State.BoundaryRow (s : State) (c : BoundaryCause) : Instr → Prop where
  | event : State.BoundaryRow s c (boundaryEvent c)
  | second : s.time.clockRunning = true → 3999 ≤ s.time.frame → State.BoundaryRow s c (.secondRollover c)
  | window : s.endsWindow → State.BoundaryRow s c (.windowEnd c)
  | holdOffWorking (g : GroupNo) :
      (s.group g).settings ≠ none → (s.group g).working.timer = 1 → State.BoundaryRow s c (.holdOffExpiry g .working c)
  | holdOffProtect (g : GroupNo) :
      (s.group g).settings ≠ none → (s.group g).protect.timer = 1 → State.BoundaryRow s c (.holdOffExpiry g .protect c)
  | restoreWait (g : GroupNo) :
      (s.group g).settings ≠ none → (s.group g).restore = 1 → State.BoundaryRow s c (.restoreWaitExpiry g c)
  | alertDelay (x : Link) (q : Queued) :
      (s.link x).queue.head? = some q → 0 < (s.link x).delay → q.wait + 1 = (s.link x).delay * 4 →
      State.BoundaryRow s c (.alertDelayExpiry x c)
  | adoption (p : PendingActivation) : s.pendingAct = some p → State.BoundaryRow s c (.adoption c)

/-! ### What the next boundary hands each record: the adoption's instructions (R90) and the restart of windows (R49) -/

/-- The active bank after the next boundary: the pending bank, if there is one (R89). -/
def State.bankNext (s : State) : Bank :=
  match s.pendingAct with
  | some p => s.bank p.bank
  | none => s.activeBank

/-- R90: the store of a source is told to start anew: the source is newly referenced, or with another width. -/
abbrev State.startsAnew (s : State) (n : Nat) : Prop :=
  n ∈ s.bankNext.referenced
    ∧ ¬(n ∈ s.activeBank.referenced ∧ s.activeBank.sourceWidth n = s.bankNext.sourceWidth n)

/-- R90: the store of a source is told to enter IDLE: the source is no longer referenced. -/
abbrev State.entersIdle (s : State) (n : Nat) : Prop := n ∉ s.bankNext.referenced ∧ n ∈ s.activeBank.referenced

/-- The store that makes the next boundary's decision (R36 to R38, R49). -/
def State.storeNext (s : State) (n : Nat) : Store :=
  if s.startsAnew n then ⟨.priming, s.bankNext.sourceWidth n, 0, .nominal, 0, 0, 0, false, []⟩
  else if s.entersIdle n then ⟨.idle, none, 0, .nominal, 0, 0, 0, false, []⟩
  else if s.rate.pendingK = none then s.store n
  else { s.store n with advances := 0, retards := 0, complete := false }

/-- The rate record of a source after the next boundary, unless that is a window end (R43, R47, R49). -/
def State.rateNext (s : State) (n : Nat) : RateRec :=
  if s.startsAnew n then ⟨0, false, false, false, true⟩
  else if s.entersIdle n then ⟨0, false, false, false, false⟩
  else if s.rate.pendingK = none then s.rateOf n
  else { s.rateOf n with newInWindow := false }

/-- R12: the LIF starts a head's per-slot state afresh. -/
abbrev State.startsAfresh (s : State) (n : Nat) : Prop :=
  s.startsAnew n ∨ s.entersIdle n
    ∨ s.bankNext.profile n ≠ none ∧ s.activeBank.sourceWidth n ≠ s.bankNext.sourceWidth n

/-- R12: a head that starts afresh covers the slot with its old or its new width, so that the slot's parity history is
cleared (both widths: DEDUCED, log entry 17). -/
def State.parityCleared (s : State) (n : Nat) : Prop :=
  ∃ h w, s.startsAfresh h ∧ (s.activeBank.sourceWidth h = some w ∨ s.bankNext.sourceWidth h = some w)
    ∧ h ≤ n ∧ n < h + w.toNat

/-- The ingress slot after the next boundary, but for its parity history (R11, R12). -/
def State.slotNext (s : State) (n : Nat) : Slot :=
  if s.pendingAct = none then s.slot n
  else if s.startsAfresh n then ⟨0, false, none, none, 0, false, (s.slot n).parity⟩
  else
    match s.bankNext.profile n with
    | none => s.slot n
    | some p =>
      match p.expectedTag with
      | none => { s.slot n with mismatch := false, mismatchRun := 0 }
      | some x =>
        if (s.activeBank.profile n).bind (·.expectedTag) = some x then s.slot n else { s.slot n with mismatchRun := 0 }

/-- The defect record of a source after the next boundary's adoption and restart of windows, before the boundary's
decisions and window end (R91, R112, R116). -/
def State.defectNext (s : State) (n : Nat) : DefectRec :=
  let line := s.lineDefect (lineOfSlot n)
  let d : DefectRec := if s.rate.pendingK = none then s.defect n else { s.defect n with errored := 0 }
  if s.startsAnew n then ⟨false, false, false, false, 0, if line.absent || line.lost then .failed else .ok⟩
  else if s.entersIdle n then ⟨false, false, false, false, 0, .ok⟩
  else if n ∈ s.bankNext.referenced ∧ (s.slot n).mismatch = true ∧ (s.slotNext n).mismatch = false then
    { d with
      mismatch := false
      raw := if (s.store n).state = .idle then .ok else rawCondition line { d with mismatch := false } }
  else d

/-- R140: one boundary counted against a side's hold-off timer, if it ran when the boundary began; where it reaches 0, the
effective condition becomes the raw condition. -/
def SideRec.counted (start sd : SideRec) : SideRec :=
  if start.timer = 0 then sd else if sd.timer = 1 then ⟨sd.raw, sd.raw, 0⟩ else { sd with timer := sd.timer - 1 }

/-- R140: one boundary counted against the timers of a defined group that ran when the boundary began. -/
def GroupRec.counted (start r : GroupRec) : GroupRec :=
  if r.settings = none then r
  else
    { r with
      working := start.working.counted r.working
      protect := start.protect.counted r.protect
      restore := if start.restore = 0 then r.restore else r.restore - 1 }

/-- R140: a timer of the group that ran when the boundary began reaches 0 at this count. -/
abbrev GroupRec.expires (start r : GroupRec) : Prop :=
  start.working.timer ≠ 0 ∧ r.working.timer = 1 ∨ start.protect.timer ≠ 0 ∧ r.protect.timer = 1
    ∨ start.restore ≠ 0 ∧ r.restore = 1

/-- R140: one boundary counted against a group, which is evaluated once if a timer expires: its record afterwards, and the
notices it raises. -/
def GroupRec.tick (g : Nat) (seconds : Word) (frame : Nat) (start r : GroupRec) : GroupRec × List NoticeBody :=
  if r.settings ≠ none ∧ start.expires r then (start.counted r).evaluate g seconds frame else (start.counted r, [])

/-- R150 to R153: a group when the next boundary's adoption has reconciled it, and the notices that raises. A removed group
loses its requests and its record; a group that is new, or whose width or a source changed, begins with its sources' raw
conditions; a group that is kept has its timers counted, takes the new settings and meets the adoption's condition changes. -/
def State.groupNext (s : State) (seconds : Word) (frame : Nat) (g : Nat) : GroupRec × List NoticeBody :=
  let r := s.group g
  let raw : Nat → Cond := fun n => (s.defectNext n).raw
  let removal : List NoticeBody :=
    r.requests.map (fun q => .requestDisplaced g q.kind q.origin .groupRemoved)
      ++ if r.selection = .protect then [.groupSwitch g .protect .working .groupRemoved] else []
  let fresh : GroupDef → GroupRec × List NoticeBody := fun d =>
    GroupRec.evaluate g seconds frame ⟨some d, .working, [], ⟨raw d.working, raw d.working, 0⟩,
      ⟨raw d.protect, raw d.protect, 0⟩, 0, .noRequest, 0, none, false, false⟩
  match s.activeBank.groupDef g, s.bankNext.groupDef g with
  | none, none => (r, [])
  | some _, none => (GroupRec.reset, removal)
  | none, some d => fresh d
  | some o, some d =>
    if o.width = d.width ∧ o.working = d.working ∧ o.protect = d.protect then
      GroupRec.evaluate g seconds frame
        { r.counted r with
          settings := some d
          working := (r.counted r).working.meets d.holdOff (s.defect d.working).raw (raw d.working)
          protect := (r.counted r).protect.meets d.holdOff (s.defect d.protect).raw (raw d.protect) }
    else ((fresh d).1, removal ++ (fresh d).2)

/-- R44, R137: a group meets the condition changes of a window end, from raw conditions before it to those after it, its
sources' changes each an event of its own, in ascending order of source (the model's order, log entry 7). -/
def GroupRec.meetsWindowEnd (g : Nat) (seconds : Word) (frame : Nat) (before after : Nat → Cond) (r : GroupRec) : GroupRec :=
  match r.settings with
  | none => r
  | some d =>
    let first := min d.working d.protect
    let between : Nat → Cond := fun n => if n = first then after n else before n
    ((r.meets g seconds frame before between).1.meets g seconds frame between after).1

/-- R89, R90, R150, R119, R120, R125: what the next boundary's adoption settles, before a window end: the raw conditions it
leaves, every group reconciled in ascending number, every watch and pattern set evaluated. -/
def State.settledAdoption (s t : State) : Settled :=
  let raw : Nat → Cond := fun n => (s.defectNext n).raw
  let v : Settled :=
    { raw := raw
      group := fun g => (s.groupNext t.time.seconds t.time.frame g).1
      watch := fun n => (s.watch n).latch || t.watchFires (s.defect n).raw (raw n) n
      pattern := fun p => (s.pattern p).latch || t.patternFires raw p
      monitor := []
      protection := (sortedUnique (s.activeBank.groups.keys ++ s.bankNext.groups.keys)).flatMap
        (fun g => (s.groupNext t.time.seconds t.time.frame g).2) }
  { v with monitor := t.latchNotices s.settled v s.watches.keys }

/-- R140: one boundary counted against the timers of the groups picked, in ascending number. -/
def Settled.countTimers (s t : State) (which : Nat → Bool) (v : Settled) : Settled :=
  let ticked : Nat → GroupRec × List NoticeBody := fun g =>
    if which g then (s.group g).tick g t.time.seconds t.time.frame (v.group g) else (v.group g, [])
  { v with
    group := fun g => (ticked g).1
    protection := v.protection ++ t.groups.keys.flatMap (fun g => (ticked g).2) }

/-- R42, R44, R115: if the next boundary is a window end, every source takes its raw condition as an event of its own, in
ascending order of source (the model's order, log entry 7). -/
def Settled.windowEnd (s t : State) (v : Settled) : Settled :=
  if s.endsWindow then t.stores.keys.foldl (fun v n => v.event t [n] (fun m => (t.defect m).raw)) v else v

/-- What the next boundary settles: its adoption, or else the groups' timers; and the window end, if it is one. The timers of
the groups in `first` are counted before the window end, the others after it; R140 leaves that open (log entry 8), and
an adoption counts the timers itself (R150). -/
def State.settledAt (s t : State) (first : Nat → Bool) : Settled :=
  if s.pendingAct = none then
    ((s.settled.countTimers s t first).windowEnd s t).countTimers s t (fun g => !first g)
  else
    let v := s.settledAdoption t
    Settled.windowEnd s t (if s.image.finished then v else { v with monitor := [], protection := [] })

/-! ### The notices of a boundary -/

/-- R169, R172: a link at a boundary, before the boundary's notices: every wait count has risen by 1, holding at 4,000, and
the alert line has been evaluated. -/
def LinkState.waited (l : LinkState) : LinkState :=
  let w : LinkState := { l with queue := l.queue.map (fun q => { q with wait := min (q.wait + 1) 4000 }) }
  { w with alert := w.alertDue }

/-- The state after a boundary with both links as they were before the boundary's notices were offered; where start-up
finishes at it, START, the first notice, has been offered (R182, R183; log entry 27). -/
def State.beforeNotices (s t : State) : State :=
  let u : State := { t with linkA := s.linkA.waited, linkB := s.linkB.waited }
  match s.image.finished, s.image.toReport with
  | false, some o => u.notify (.start o)
  | _, _ => u

/-- The notices of the Core Timebase and the Tributary Switch at the boundary a cause produces: TIMING for a loss and a
regain of the reference (R16), BANK_ACTIVATED for an adoption (R92); none before start-up has finished (R168). -/
def State.boundaryNotices (s : State) (c : BoundaryCause) : List NoticeBody :=
  if s.image.finished then
    (match c with
      | .mark _ => if s.time.refPresent then [] else [.timing true]
      | .oscillator => []
      | .lost => [.timing false])
    ++ match s.pendingAct with
      | some p => [.bankActivated p.bank p.revision s.active]
      | none => []
  else []

end Sys2Proof.Machine
end

