-- ==== Sys2Proof/Certificates/Slice0/Obligations.lean ====
section
/-! DEFINITION. The statements for the provers. A statement about a command's own effect has as its conclusion that `exec`
answers a next state, and which one; where that state is written out whole, everything it does not mention is unchanged. -/

open Sys2Proof Sys2Proof.Machine

/-! ### The queue and the commands as a whole -/

/-- A step with a command in front of the queue is `exec` of that command on the state with the queue's rest. -/
def Obligations.StepTakesFrontCommand : Prop :=
  ∀ (s : State) (c : Instr) (rest : List Instr),
    step { s with pending := c :: rest } = exec c { s with pending := rest }

/-- Every command that the pins can deliver ends in a next state, from every state; the only other answer is the
refusal of an operand that no pin can deliver. -/
def Obligations.EveryDeliverableCommandCompletes : Prop :=
  ∀ (c : Instr) (s : State),
    (c.wellFormed = true → ∃ t, exec c s = .next t) ∧ (c.wellFormed = false → exec c s = .refused .illFormed)

/-- R159: before start-up has finished, each of the 31 catalogue commands other than READ STATUS, READ TIME and READ
LINES is answered STARTING with the clamped flag clear and m = 0, whatever its arguments, and nothing else is done. -/
def Obligations.StartingAnswersTheOtherCommands : Prop :=
  ∀ (x : Link) (s : State) (args : List Byte) (code : Byte) (c : Instr),
    (code, c) ∈ startingCommands x →
    s.waits x code args → s.image.finished = false →
    exec c s = .next (s.answered x code ⟨.starting, false, []⟩)

/-- Argument lengths and values (R51, R59 to R61, R184 and the rules of each command): once start-up has finished, a
catalogue command is answered BAD_ARGUMENT, and nothing else is done, where its argument has a length that the table of
command codes does not give it, or a value that its rules refuse (a bank above 2, an index out of range, a count of 0, a
code that names nothing, a record that fails a local check); with any other argument it is answered otherwise. -/
def Obligations.WrongArgumentLengthIsRefused : Prop :=
  ∀ (x : Link) (s : State) (args : List Byte) (code : Byte) (lengths : List Nat) (c : Instr) (bad : List Byte → Prop),
    (code, lengths, c, bad) ∈ argumentRules x →
    s.waits x code args → s.image.finished = true →
    (args.length ∉ lengths ∨ bad args → exec c s = .next (s.answered x code ⟨.badArgument, false, []⟩))
    ∧ (args.length ∈ lengths → ¬bad args → ∃ t, exec c s = .next t ∧ (t.link x).response.outcome ≠ .badArgument)

/-! ### Device commands -/

/-- READ STATUS (R163), READ TIME and READ LINES (R18) are answered at any time, during start-up too: their results, the
overrun flag of READ STATUS's own link cleared, and nothing else changed. The bytes of the named link and of the reference
state follow log entry 15. -/
def Obligations.ReadsAnsweredAtAnyTime : Prop :=
  ∀ (x : Link) (s : State),
    (s.waits x 0x01#8 [] → exec (.readStatus x) s = .next
      ((s.setLink x { s.link x with overrun := false }).answered x 0x01#8
        ⟨.done, false, [match x with | .a => 0x00#8 | .b => 0x01#8, if (s.link x).overrun then 0x01#8 else 0x00#8,
          BitVec.ofNat 8 (s.link x).queue.length]⟩))
    ∧ (s.waits x 0x08#8 [] → exec (.readTime x) s = .next (s.answered x 0x08#8
        ⟨.done, false, byte4 s.time.seconds.toNat ++ byte2 s.time.frame
          ++ (match s.time.pendingSeconds with | some p => 0x01#8 :: byte4 p.toNat | none => [0, 0, 0, 0, 0])
          ++ [if s.time.refPresent then 0x01#8 else 0x00#8]⟩))
    ∧ (s.waits x 0x09#8 [] → exec (.readLines x) s = .next (s.answered x 0x09#8
        ⟨.done, false, (List.range 18).flatMap (fun l =>
          [BitVec.ofNat 8 l, if (s.lif l).signal then 0x01#8 else 0x00#8,
            match (s.lif l).align with | .hunt => 0x00#8 | .confirm => 0x01#8 | .locked => 0x02#8,
            BitVec.ofNat 8 (s.lif l).confirm, BitVec.ofNat 8 (s.lif l).miss])⟩))

/-- R48, R49: SET PARAMETERS. With nothing, it reports; with 6 bytes, it clamps the four values, stores J, L and the
retry count, makes a k that differs pending and drops the pending exponent for one that does not. Nothing else of the
state changes. -/
def Obligations.SetParametersClampsAndStores : Prop :=
  ∀ (x : Link) (s : State) (j k l n : Nat), s.image.finished = true → j < 65536 → k < 256 → l < 65536 → n < 256 →
    let report : RateParams → List Byte := fun r => byte2 r.j ++ byte2 r.l ++ byte1 r.retries ++ byte1 r.k
      ++ (match r.pendingK with | some p => 0x01#8 :: byte1 p | none => [0, 0]) ++ byte2 r.counter
    let j' := if j < 64 then 64 else if 2048 < j then 2048 else j
    let k' := if k < 10 then 10 else if 14 < k then 14 else k
    let l' := if 32767 < l then 32767 else l
    let n' := if 3 < n then 3 else n
    let r : RateParams := { s.rate with j := j', l := l', retries := n', pendingK := if k' = s.rate.k then none else some k' }
    (s.waits x 0x02#8 [] → exec (.setParameters x) s = .next (s.answered x 0x02#8 ⟨.done, false, report s.rate⟩))
    ∧ (s.waits x 0x02#8 (byte2 j ++ byte1 k ++ byte2 l ++ byte1 n) →
      exec (.setParameters x) s = .next (State.answered { s with rate := r } x 0x02#8
        ⟨.done, decide (j' ≠ j ∨ k' ≠ k ∨ l' ≠ l ∨ n' ≠ n), report r⟩))

/-- R164: LINK RESET empties the link's queue, clears its lost and overrun flags, deasserts its alert line and answers
DONE with m = 0; the link's mask and alert settings, the other link and every other state are kept. -/
def Obligations.LinkResetClearsItsOwnLink : Prop :=
  ∀ (x : Link) (s : State), s.waits x 0x03#8 [] → s.image.finished = true →
    exec (.linkReset x) s = .next
      (s.setLink x
        { s.link x with
          queue := [], lost := false, overrun := false, alert := false, untaken := none
          response := ⟨0x03#8, .done, false, []⟩ })

/-- R170, R173: SUBSCRIBE sets or reports the mask of the nine kinds; SET ALERT clamps and stores batch and delay, or
reports them, and drives the alert line as R172 says. Nothing else changes. -/
def Obligations.SubscriptionAndAlertSettings : Prop :=
  ∀ (x : Link) (s : State), s.image.finished = true →
    (s.waits x 0x04#8 [] → exec (.subscribe x) s
      = .next (s.answered x 0x04#8 ⟨.done, false, byte2 (s.link x).mask.toNat⟩))
    ∧ (∀ m : Nat, m < 65536 → s.waits x 0x04#8 (byte2 m) → exec (.subscribe x) s = .next
      ((s.setLink x { s.link x with mask := BitVec.ofNat 9 m }).answered x 0x04#8 ⟨.done, false, byte2 (m % 512)⟩))
    ∧ (s.waits x 0x05#8 [] → exec (.setAlert x) s = .next (s.answered x 0x05#8
        ⟨.done, false, byte1 (s.link x).batch ++ byte2 (s.link x).delay ++ [if (s.link x).alert then 0x01#8 else 0x00#8]⟩))
    ∧ (∀ b d : Nat, b < 256 → d < 65536 → s.waits x 0x05#8 (byte1 b ++ byte2 d) →
      let b' := if b = 0 then 1 else if 32 < b then 32 else b
      let d' := if 1000 < d then 1000 else d
      let q := (s.link x).queue
      let waited := match q with | [] => false | n :: _ => decide (0 < d' ∧ d' * 4 ≤ n.wait)
      let line := decide (q ≠ [] ∧ (b' ≤ q.length ∨ waited = true))
      exec (.setAlert x) s = .next
        ((s.setLink x { s.link x with batch := b', delay := d', alert := line }).answered x 0x05#8
          ⟨.done, decide (b' ≠ b ∨ d' ≠ d), byte1 b' ++ byte2 d' ++ [if line then 0x01#8 else 0x00#8]⟩))

/-- R171: READ NOTICES removes the oldest notices, at most 8, reports and clears the lost flag, reports how many are still
queued, and drives the alert line as R172 says for the queue that is left. Nothing else changes. -/
def Obligations.ReadNoticesRemovesTheOldest : Prop :=
  ∀ (x : Link) (s : State) (n : Nat), s.image.finished = true → 0 < n → n < 256 → s.waits x 0x06#8 (byte1 n) →
    let l := s.link x
    let taken := l.queue.take (min n 8)
    let rest := l.queue.drop (min n 8)
    exec (.readNotices x) s = .next
      ((s.setLink x { l with queue := rest, lost := false, alert := LinkState.alertDue { l with queue := rest } }).answered
        x 0x06#8 ⟨.done, decide (8 < n), [BitVec.ofNat 8 taken.length, if l.lost then 0x01#8 else 0x00#8,
          BitVec.ofNat 8 rest.length] ++ taken.flatMap (fun q => noticeBytes q.notice)⟩)

/-- R17: SET TIME makes its 4-byte value the pending seconds value, whatever was pending, and moves nothing else. -/
def Obligations.SetTimeOnlySetsThePendingSeconds : Prop :=
  ∀ (x : Link) (s : State) (v : Word), s.image.finished = true → s.waits x 0x07#8 (byte4 v.toNat) →
    exec (.setTime x) s = .next (State.answered { s with time := { s.time with pendingSeconds := some v } } x 0x07#8
      ⟨.done, false, []⟩)

/-! ### Bank commands -/

/-- R58, R62: a write whose argument gives a record, to a bank that is neither active nor held, replaces the record after
clamping and raises the revision by 1; the response holds bank, index, revision and record. Nothing else changes. -/
def Obligations.AcceptedWriteReplacesOneRecord : Prop :=
  ∀ (x : Link) (s : State) (b : BankNo) (i : Nat) (bytes : List Byte), s.image.finished = true → s.active ≠ some b →
    (s.hold b).mapEngine = none → (s.hold b).image = none →
    (∀ e : Entry, i < 1536 → bytes.length = 6 → decodeEntry i bytes = some e →
      s.waits x 0x10#8 (byte1 b.val ++ byte2 i ++ bytes) →
      exec (.writeEntry x) s = .next
        ((s.setBank b { s.bank b with
            map := (s.bank b).map.set .idle i e, revision := (s.bank b).revision + 1 }).answered x 0x10#8
          ⟨.done, false, byte1 b.val ++ byte2 i ++ byte2 ((s.bank b).revision + 1).toNat ++ entryBytes e⟩))
    ∧ (∀ p : Option Profile, i < 1536 → bytes.length = 4 → decodeProfile i bytes = some p →
      s.waits x 0x11#8 (byte1 b.val ++ byte2 i ++ bytes) →
      let q : Option Profile := p.map (fun p => { p with threshold := min p.threshold 4095 })
      exec (.writeProfile x) s = .next
        ((s.setBank b { s.bank b with
            profiles := (s.bank b).profiles.set none i q, revision := (s.bank b).revision + 1 }).answered x 0x11#8
          ⟨.done, decide (q ≠ p), byte1 b.val ++ byte2 i ++ byte2 ((s.bank b).revision + 1).toNat ++ profileBytes q⟩))
    ∧ (∀ d : Option GroupDef, i < 256 → bytes.length = 8 → decodeGroup bytes = some d →
      s.waits x 0x12#8 (byte1 b.val ++ byte1 i ++ bytes) →
      let q : Option GroupDef := d.map (fun d => { d with
        holdOff := min d.holdOff 100
        restoreWait := if d.restoreWait = 0 then 1 else if 72 < d.restoreWait then 72 else d.restoreWait })
      exec (.writeGroup x) s = .next
        ((s.setBank b { s.bank b with
            groups := (s.bank b).groups.set none i q, revision := (s.bank b).revision + 1 }).answered x 0x12#8
          ⟨.done, decide (q ≠ d), byte1 b.val ++ byte1 i ++ byte2 ((s.bank b).revision + 1).toNat ++ groupBytes q⟩))

/-- R58, steps 3 and 4: a write whose argument gives a record is refused with ACTIVE_BANK on the active bank, and
otherwise with BUSY on a held bank; the bank, its records and its revision stay as they were. -/
def Obligations.RefusedWriteChangesNothing : Prop :=
  ∀ (x : Link) (s : State) (b : BankNo) (i : Nat) (bytes : List Byte) (code : Byte) (c : Instr),
    s.image.finished = true →
    (c = .writeEntry x ∧ code = 0x10#8 ∧ i < 1536 ∧ bytes.length = 6 ∧ (decodeEntry i bytes).isSome
        ∧ s.waits x code (byte1 b.val ++ byte2 i ++ bytes)
      ∨ c = .writeProfile x ∧ code = 0x11#8 ∧ i < 1536 ∧ bytes.length = 4 ∧ (decodeProfile i bytes).isSome
        ∧ s.waits x code (byte1 b.val ++ byte2 i ++ bytes)
      ∨ c = .writeGroup x ∧ code = 0x12#8 ∧ i < 256 ∧ bytes.length = 8 ∧ (decodeGroup bytes).isSome
        ∧ s.waits x code (byte1 b.val ++ byte1 i ++ bytes)) →
    (s.active = some b → exec c s = .next (s.answered x code ⟨.activeBank, false, []⟩))
    ∧ (s.active ≠ some b → ((s.hold b).mapEngine ≠ none ∨ (s.hold b).image ≠ none) →
      exec c s = .next (s.answered x code ⟨.busy, false, []⟩))

/-- R59 to R61: the local checks of the writes, for which WRITE_ENTRY, WRITE_PROFILE and WRITE_GROUP answer BAD_ARGUMENT. An
entry of 6 bytes with an index in range is refused exactly when its kind is none of the four, or, for a kind other than
IDLE, its width is no width, the index is not aligned to it, or the reference is out of its range or not aligned; an
undefined profile or group is accepted whatever its other bytes; a defined one is refused exactly when its width is no
width, or the index of the profile, or a source of the group, is not aligned or out of range. -/
def Obligations.LocalChecksOfTheWrites : Prop :=
  (∀ (i : Nat) (k w r1 r0 p t : Byte), i < 1536 →
    (decodeEntry i [k, w, r1, r0, p, t] = none ↔ entryRefused i [k, w, r1, r0, p, t])
    ∧ (k.toNat = 0 → decodeEntry i [k, w, r1, r0, p, t] = some .idle))
  ∧ (∀ (i : Nat) (b0 b1 b2 b3 b4 b5 b6 b7 : Byte),
    (b0.toNat < 128 → decodeProfile i [b0, b1, b2, b3] = some none
      ∧ decodeGroup [b0, b1, b2, b3, b4, b5, b6, b7] = some none)
    ∧ (decodeProfile i [b0, b1, b2, b3] = none ↔ profileRefused i [b0, b1, b2, b3])
    ∧ (decodeGroup [b0, b1, b2, b3, b4, b5, b6, b7] = none ↔ groupRefused [b0, b1, b2, b3, b4, b5, b6, b7]))
  ∧ ∀ (x : Link) (s : State) (b i : Nat) (bytes : List Byte), s.image.finished = true → b < 256 → i < 65536 →
    (bytes.length = 6 → 2 < b ∨ 1536 ≤ i ∨ entryRefused i bytes → s.waits x 0x10#8 (byte1 b ++ byte2 i ++ bytes) →
      exec (.writeEntry x) s = .next (s.answered x 0x10#8 ⟨.badArgument, false, []⟩))
    ∧ (bytes.length = 4 → 2 < b ∨ 1536 ≤ i ∨ profileRefused i bytes → s.waits x 0x11#8 (byte1 b ++ byte2 i ++ bytes) →
      exec (.writeProfile x) s = .next (s.answered x 0x11#8 ⟨.badArgument, false, []⟩))
    ∧ (bytes.length = 8 → i < 256 → 2 < b ∨ groupRefused bytes → s.waits x 0x12#8 (byte1 b ++ byte1 i ++ bytes) →
      exec (.writeGroup x) s = .next (s.answered x 0x12#8 ⟨.badArgument, false, []⟩))

/-- R64 to R67: a read of a bank that is not write-held returns the bank, its revision, whether it is active, the first
index and the records from it on, at most 40, 60 or 30 of them and none past the end of the table; a larger count sets
the clamped flag; a write-held bank answers BUSY. A read changes nothing. -/
def Obligations.BankReadsReportAndChangeNothing : Prop :=
  ∀ (x : Link) (s : State) (b : BankNo) (i n : Nat), s.image.finished = true → 0 < n → n < 256 →
    let held := (s.hold b).mapEngine = some .write ∨ (s.hold b).image = some .write
    let head := byte1 b.val ++ byte2 (s.bank b).revision.toNat ++ [if s.active = some b then 0x01#8 else 0x00#8]
    let m40 := min (min n 40) (1536 - i)
    let m60 := min (min n 60) (1536 - i)
    let m30 := min (min n 30) (256 - i)
    (i < 1536 → s.waits x 0x13#8 (byte1 b.val ++ byte2 i ++ byte1 n) →
      (held → exec (.readEntries x) s = .next (s.answered x 0x13#8 ⟨.busy, false, []⟩))
      ∧ (¬held → exec (.readEntries x) s = .next (s.answered x 0x13#8 ⟨.done, decide (40 < n),
        head ++ byte2 i ++ byte1 m40 ++ (List.range m40).flatMap (fun j => entryBytes ((s.bank b).entry (i + j)))⟩)))
    ∧ (i < 1536 → s.waits x 0x14#8 (byte1 b.val ++ byte2 i ++ byte1 n) →
      (held → exec (.readProfiles x) s = .next (s.answered x 0x14#8 ⟨.busy, false, []⟩))
      ∧ (¬held → exec (.readProfiles x) s = .next (s.answered x 0x14#8 ⟨.done, decide (60 < n),
        head ++ byte2 i ++ byte1 m60 ++ (List.range m60).flatMap (fun j => profileBytes ((s.bank b).profile (i + j)))⟩)))
    ∧ (i < 256 → s.waits x 0x15#8 (byte1 b.val ++ byte1 i ++ byte1 n) →
      (held → exec (.readGroups x) s = .next (s.answered x 0x15#8 ⟨.busy, false, []⟩))
      ∧ (¬held → exec (.readGroups x) s = .next (s.answered x 0x15#8 ⟨.done, decide (30 < n),
        head ++ byte1 i ++ byte1 m30 ++ (List.range m30).flatMap (fun j => groupBytes ((s.bank b).groupDef (i + j)))⟩)))

/-- R80: with the Map Engine READY and every hold placeable, CLEAR BANK, COPY BANK and VERIFY BANK place their holds, make
the Map Engine BUSY and answer ACCEPTED with the operation, the banks and their revisions. Nothing else changes. -/
def Obligations.MapEngineTakesAnOperation : Prop :=
  ∀ (x : Link) (s : State) (b d : BankNo), s.image.finished = true → s.mapEngine = none →
    (s.waits x 0x16#8 (byte1 b.val) → s.active ≠ some b → s.hold b = ⟨none, none⟩ →
      exec (.clearBank x) s = .next (State.answered
        { s.setHold b ⟨some .write, none⟩ with mapEngine := some (.clear b) } x 0x16#8
        ⟨.accepted, false, [0x01#8] ++ byte1 b.val ++ byte2 (s.bank b).revision.toNat⟩))
    ∧ (s.waits x 0x17#8 (byte1 b.val ++ byte1 d.val) → b ≠ d → s.active ≠ some d → s.hold d = ⟨none, none⟩ →
      (s.hold b).mapEngine ≠ some .write → (s.hold b).image ≠ some .write →
      exec (.copyBank x) s = .next (State.answered
        { (s.setHold b ⟨some .read, (s.hold b).image⟩).setHold d ⟨some .write, none⟩ with
          mapEngine := some (.copy b d) } x 0x17#8
        ⟨.accepted, false, [0x02#8] ++ byte1 b.val ++ byte1 d.val ++ byte2 (s.bank b).revision.toNat
          ++ byte2 (s.bank d).revision.toNat⟩))
    ∧ (s.waits x 0x18#8 (byte1 b.val) → (s.hold b).mapEngine ≠ some .write → (s.hold b).image ≠ some .write →
      exec (.verifyBank x) s = .next (State.answered
        { s.setHold b ⟨some .read, (s.hold b).image⟩ with
          mapEngine := some (.verify b (s.bank b).revision) } x 0x18#8
        ⟨.accepted, false, [0x03#8] ++ byte1 b.val ++ byte2 (s.bank b).revision.toNat⟩))

/-- R80, steps 3 to 5: the refusals of CLEAR BANK, COPY BANK and VERIFY BANK, in their order. A refused command places no
hold and leaves both engines as they were. -/
def Obligations.MapEngineRefusesInOrder : Prop :=
  ∀ (x : Link) (s : State) (b d : BankNo), s.image.finished = true →
    (s.waits x 0x16#8 (byte1 b.val) →
      (s.active = some b → exec (.clearBank x) s = .next (s.answered x 0x16#8 ⟨.activeBank, false, []⟩))
      ∧ (s.active ≠ some b → s.mapEngine ≠ none ∨ s.hold b ≠ ⟨none, none⟩ →
        exec (.clearBank x) s = .next (s.answered x 0x16#8 ⟨.busy, false, []⟩)))
    ∧ (s.waits x 0x17#8 (byte1 b.val ++ byte1 d.val) →
      (b = d → exec (.copyBank x) s = .next (s.answered x 0x17#8 ⟨.badArgument, false, []⟩))
      ∧ (b ≠ d → s.active = some d → exec (.copyBank x) s = .next (s.answered x 0x17#8 ⟨.activeBank, false, []⟩))
      ∧ (b ≠ d → s.active ≠ some d →
        s.mapEngine ≠ none ∨ s.hold d ≠ ⟨none, none⟩ ∨ (s.hold b).mapEngine = some .write
          ∨ (s.hold b).image = some .write →
        exec (.copyBank x) s = .next (s.answered x 0x17#8 ⟨.busy, false, []⟩)))
    ∧ (s.waits x 0x18#8 (byte1 b.val) →
      s.mapEngine ≠ none ∨ (s.hold b).mapEngine = some .write ∨ (s.hold b).image = some .write →
      exec (.verifyBank x) s = .next (s.answered x 0x18#8 ⟨.busy, false, []⟩))

/-- R85: ACTIVATE BANK of a bank b, with an expected revision or without: ACTIVE_BANK, BUSY, STALE with b's revision in
the result, or accepted with the Map Engine's read-hold on b and its check begun. A refusal leaves everything else as it
was. -/
def Obligations.ActivateBankIsJudgedInOrder : Prop :=
  ∀ (x : Link) (s : State) (b : BankNo) (r : Option Half), s.image.finished = true →
    s.waits x 0x19#8 (byte1 b.val ++ r.elim [] (fun v => byte2 v.toNat)) →
    let report := byte1 b.val ++ byte2 (s.bank b).revision.toNat
    (s.active = some b → exec (.activateBank x) s = .next (s.answered x 0x19#8 ⟨.activeBank, false, []⟩))
    ∧ (s.active ≠ some b →
      s.mapEngine ≠ none ∨ (s.hold b).mapEngine = some .write ∨ (s.hold b).image = some .write →
      exec (.activateBank x) s = .next (s.answered x 0x19#8 ⟨.busy, false, []⟩))
    ∧ (s.active ≠ some b → s.mapEngine = none → (s.hold b).mapEngine ≠ some .write → (s.hold b).image ≠ some .write →
      ((∃ v, r = some v ∧ v ≠ (s.bank b).revision) →
        exec (.activateBank x) s = .next (s.answered x 0x19#8 ⟨.stale, false, report⟩))
      ∧ (r = none ∨ r = some (s.bank b).revision →
        exec (.activateBank x) s = .next (State.answered
          { s.setHold b ⟨some .read, (s.hold b).image⟩ with
            mapEngine := some (.activateCheck b (s.bank b).revision) } x 0x19#8 ⟨.accepted, false, report⟩)))

/-- R81 to R83: CLEAR, COPY and VERIFY complete as one event: the bank's tables and revision, the holds released, the Map
Engine READY, and OP_DONE offered. Nothing else changes. -/
def Obligations.MapEngineOperationsComplete : Prop :=
  ∀ (s : State) (b c d : BankNo) (r : Half),
    let free : BankNo → HoldRec := fun k => ⟨none, (s.hold k).image⟩
    (s.mapEngine = some (.clear b) → exec .clearCompletion s = .next (State.notify
      { (s.setBank b ⟨Table.empty, Table.empty, Table.empty, (s.bank b).revision + 1⟩).setHold b (free b) with
        mapEngine := none } (.opDone .clear b ((s.bank b).revision + 1) .ok)))
    ∧ (s.mapEngine = some (.copy c d) → c ≠ d → exec .copyCompletion s = .next (State.notify
      { ((s.setBank d ⟨(s.bank c).map, (s.bank c).profiles, (s.bank c).groups, (s.bank d).revision + 1⟩).setHold c
          (free c)).setHold d (free d) with
        mapEngine := none } (.opDone .copy d ((s.bank d).revision + 1) .ok)))
    ∧ (s.mapEngine = some (.verify b r) → exec .verifyCompletion s = .next (State.notify
      { s.setHold b (free b) with mapEngine := none }
      (.opDone .verify b r (match (s.bank b).check with | none => .ok | some v => .invalid v.table v.index v.rule))))

/-- R87 and R182, steps 2 and 3: once start-up has finished, a violation at the end of an activation check releases the
read-hold, makes the Map Engine READY and raises ACTIVATION_REFUSED; a pass records the pending activation and keeps the
hold. During start-up, a check of bank 0 that passes makes it pending with IMAGE_STARTED to be reported; one that fails
raises nothing and hands bank 2 to the Map Engine with IMAGE_INCONSISTENT to be reported; a check of bank 2 that passes
makes it pending and keeps the outcome to be reported. -/
def Obligations.ActivationCheckEnds : Prop :=
  ∀ (s : State) (b : BankNo) (r : Half),
    (s.image.finished = true → s.mapEngine = some (.activateCheck b r) →
      (∀ v, (s.bank b).check = some v → exec .activationCheckEnd s = .next (State.notify
        { s.setHold b ⟨none, (s.hold b).image⟩ with mapEngine := none }
        (.activationRefused b v.table v.index v.rule)))
      ∧ ((s.bank b).check = none → exec .activationCheckEnd s = .next
        { s with pendingAct := some ⟨b, r⟩, mapEngine := some (.activatePending b r) }))
    ∧ (s.image.finished = false → s.mapEngine = some (.activateCheck 0 r) →
      ((s.bank 0).check = none → exec .activationCheckEnd s = .next
        { s with
          pendingAct := some ⟨0, r⟩, mapEngine := some (.activatePending 0 r)
          image := { s.image with toReport := some .imageStarted } })
      ∧ ((s.bank 0).check ≠ none → exec .activationCheckEnd s = .next
        { (s.setHold 0 ⟨none, (s.hold 0).image⟩).setHold 2 ⟨some .read, (s.hold 2).image⟩ with
          mapEngine := some (.activateCheck 2 (s.bank 2).revision)
          image := { s.image with toReport := some .imageInconsistent } }))
    ∧ (s.image.finished = false → s.mapEngine = some (.activateCheck 2 r) → (s.bank 2).check = none →
      exec .activationCheckEnd s = .next
        { s with pendingAct := some ⟨2, r⟩, mapEngine := some (.activatePending 2 r) })

/-- R69 to R75: the consistency check visits the profiles 0 to 1535, the groups 0 to 255 and the egress heads 0 to 1535, in
that order. A defined profile passes if it satisfies C1, a defined group C2, an egress head C3 and the rule of its kind, C4,
C5 or C6; every other record passes. The check finds no violation exactly when every record passes, and otherwise the triple
of the first that does not: its table, its index and its rule, which at an egress head is 3 before the rule of its kind. -/
def Obligations.CheckPassesExactlyWhenConsistent : Prop :=
  ∀ b : Bank,
    let has : Nat → Width → Prop := fun n w => ∃ p, b.profile n = some p ∧ p.width = w
    let membersIdle : Nat → Prop := fun h =>
      ∀ w, (b.entry h).width? = some w → ∀ i, 0 < i → i < w.toNat → b.entry (h + i) = .idle
    let passes : TableName → Nat → Prop := fun t i =>
      match t with
      | .profiles => ∀ p, b.profile i = some p → ∀ j, 0 < j → j < p.width.toNat → b.profile (i + j) = none
      | .groups => ∀ d, b.groupDef i = some d →
        d.working ≠ d.protect ∧ has d.working d.width ∧ has d.protect d.width
      | .map => membersIdle i
        ∧ match b.entry i with
          | .source w r _ => has r w
          | .group w g _ => ∃ d, b.groupDef g = some d ∧ d.width = w
          | .follow w e _ => ∃ r t, b.entry e = .source w r t ∨ b.entry e = .group w r t
          | .idle => True
    let size : TableName → Nat := fun t => match t with | .profiles => 1536 | .groups => 256 | .map => 1536
    let turn : TableName → Nat := fun t => match t with | .profiles => 1 | .groups => 2 | .map => 3
    (b.check = none ↔ ∀ t i, i < size t → passes t i)
    ∧ ∀ t i r, b.check = some ⟨t, i, r⟩ ↔
      i < size t ∧ ¬passes t i
      ∧ (∀ u j, j < size u → turn u < turn t ∨ u = t ∧ j < i → passes u j)
      ∧ match t with
        | .profiles => r = 1
        | .groups => r = 2
        | .map => (¬membersIdle i → r = 3)
          ∧ (membersIdle i → r = match b.entry i with | .source _ _ _ => 4 | .group _ _ _ => 5 | .follow _ _ _ => 6 | .idle => 0)

/-! ### Core frame boundaries -/

/-- R16, R17, R42: FRAME_MARK (the mark that regains the reference too), REFERENCE_LOST, OSCILLATOR_BOUNDARY and the rows that
name what comes about at a boundary move the site time by one core frame (the first boundary after reset begins frame 0 of
second 0; at frame 4,000 the seconds take the pending value or rise by 1) and the window counter by 1; a pending exponent
restarts it. Every LIF begins a frame, toggles its phase and has sent the one before for the time since the last boundary.
Once start-up has finished, TIMING is offered exactly at a loss and a regain, BANK_ACTIVATED exactly at an adoption, each
once, and no notice of kinds 5, 6 and 8 is, all after every queued notice's wait has been counted. Banks, line defect levels,
the flash and the rest of each LIF and link are kept. -/
def Obligations.EveryBoundaryMovesTimeAndCounter : Prop :=
  ∀ (s : State) (c : BoundaryCause) (i : Instr), s.makesBoundary c → s.BoundaryRow c i →
    let base : Timebase :=
      match c with
      | .mark m =>
        if s.time.refPresent then { s.time with lastBoundary := m }
        else { s.time with refPresent := true, regain := 0, lastMark := none, lastBoundary := m }
      | .oscillator => { s.time with lastBoundary := s.time.lastBoundary + 250000 }
      | .lost => { s.time with
          refPresent := false, regain := 0, lastMark := none, lastBoundary := s.time.lastBoundary + 375000 }
    ∃ t, exec i s = .next t
      ∧ t.time = (if s.time.clockRunning = false then { base with clockRunning := true }
          else if s.time.frame + 1 < 4000 then { base with frame := s.time.frame + 1 }
          else { base with
            frame := 0, pendingSeconds := none
            seconds := match s.time.pendingSeconds with | some v => v | none => s.time.seconds + 1 })
      ∧ t.rate = (match s.rate.pendingK with
          | some k => { s.rate with k := k, pendingK := none, counter := 1 }
          | none => { s.rate with counter := if s.rate.counter + 1 = 2 ^ s.rate.k then 0 else s.rate.counter + 1 })
      ∧ (∀ l, t.lif l = if l < 18 then { s.lif l with egressPhase := !(s.lif l).egressPhase } else s.lif l)
      ∧ t.egress ≠ none ∧ t.ended = s.egress.map (fun f => ⟨f, base.lastBoundary - s.time.lastBoundary⟩)
      ∧ t.pending = s.pending ∧ (∀ b, t.bank b = s.bank b) ∧ t.lineDefects = s.lineDefects ∧ t.flash = s.flash
      ∧ (∀ x, (t.link x).besideNotices = (s.link x).besideNotices)
      ∧ (s.image.finished = true → ∃ order : List NoticeBody,
          (order.filter (fun b => decide (4 ≤ b.kindCode))).Perm (s.boundaryNotices c)
          ∧ ∀ x, t.link x = (order.foldl State.notify (s.beforeNotices t)).link x)

/-- A boundary that ends no pending period (R89) leaves the active bank, the holds, the engines, the ingress slots, and
of the watches, pattern sets and groups everything but latches, conditions, timers, requests and switches. -/
def Obligations.BoundaryWithoutAdoptionKeepsTheRest : Prop :=
  ∀ (s : State) (c : BoundaryCause) (i : Instr), s.makesBoundary c → s.BoundaryRow c i → s.pendingAct = none →
    ∃ t, exec i s = .next t ∧ t.active = s.active ∧ t.pendingAct = none ∧ t.mapEngine = s.mapEngine
      ∧ t.holds = s.holds ∧ t.image = s.image ∧ t.slots = s.slots
      ∧ (∀ n, (t.watch n).besideLatch = (s.watch n).besideLatch)
      ∧ (∀ n, (s.watch n).latch = true → (t.watch n).latch = true)
      ∧ (∀ p, (t.pattern p).besideLatch = (s.pattern p).besideLatch)
      ∧ ∀ g, (t.group g).settings = (s.group g).settings ∧ (t.group g).lock = (s.group g).lock
        ∧ (t.group g).requests.Sublist (s.group g).requests

/-- R16: a mark less than 125 microseconds after the last boundary is disregarded; while the reference is absent a mark
counts toward the regain, the 16th makes the reference present and raises TIMING, and is a boundary unless it comes less
than 125 microseconds after the last one; a gap sets the count to 0. Log entry 5, the model's choice: a mark later than 375
microseconds while the reference is present finds it lost at that instant, with its boundary, and then counts. Log entry 2,
an inference: REGAIN_GAP while the reference is present is no event and changes nothing. -/
def Obligations.MarksRegainTheReference : Prop :=
  ∀ (s : State) (m : Nat),
    let spaced := ∃ q, s.time.lastMark = some q ∧ q + 125000 ≤ m ∧ m ≤ q + 375000
    (s.time.refPresent = true → m < s.time.lastBoundary + 125000 → exec (.frameMark m) s = .next s)
    ∧ (s.time.refPresent = false →
      (s.time.regain ≠ 0 → spaced → s.time.regain + 1 < 16 → exec (.frameMark m) s = .next
        { s with time := { s.time with lastMark := some m, regain := s.time.regain + 1 } })
      ∧ (s.time.regain = 0 ∨ ¬spaced → exec (.frameMark m) s = .next
        { s with time := { s.time with lastMark := some m, regain := 1 } })
      ∧ (s.time.regain ≠ 0 → spaced → 16 ≤ s.time.regain + 1 →
        (m < s.time.lastBoundary + 125000 → exec (.frameMark m) s = .next (State.notify
          { s with time := { s.time with refPresent := true, regain := 0, lastMark := none } } (.timing true)))
        ∧ (s.time.lastBoundary + 125000 ≤ m → s.makesBoundary (.mark m) ∧ ∃ t, exec (.frameMark m) s = .next t
          ∧ t.time.refPresent = true ∧ t.time.regain = 0 ∧ t.time.lastMark = none ∧ t.time.lastBoundary = m))
      ∧ exec .regainGap s = .next { s with time := { s.time with regain := 0, lastMark := none } })
    ∧ (s.time.refPresent = true → exec .regainGap s = .next s)
    ∧ (s.time.refPresent = true → s.time.lastBoundary + 375000 < m →
      ∃ u t, exec .referenceLost s = .next u ∧ u.time.refPresent = false ∧ exec (.frameMark m) u = .next t
        ∧ exec (.frameMark m) s = .next t)

/-- R25, R36 to R38, R43, R49, R91, R116: at a boundary that is no window end, every source first carries out the adoption's
instruction, if there is one (keep; start anew with the new bank's width; enter IDLE), with its store, its rate record and
its defect levels, and its store then makes its decision under J; an underflow is an errored event (R31). A pending exponent
clears its window counts, flag and errored-event count first. -/
def Obligations.StoresObeyThenDecide : Prop :=
  ∀ (s : State) (c : BoundaryCause) (i : Instr), s.makesBoundary c → s.BoundaryRow c i → ¬s.endsWindow →
    s.stores.wf Store.reset = true →
    ∃ t, exec i s = .next t ∧ ∀ n,
      let d := (s.storeNext n).decide s.rate.j
      let r := s.defectNext n
      t.store n = d.1 ∧ t.rateOf n = s.rateNext n
        ∧ t.defect n = if d.2.2 then { r with errored := min (r.errored + 1) 65535 } else r

/-- R44 to R47, R33, R34, R115: at a boundary that is a window end (WINDOW_END and every other boundary row, an adoption
among them), every source whose store is not IDLE is evaluated after its decision: estimate and RATE_EXCURSION from its
counts, the counts to 0, the window-complete flag, DEGRADE from its errored events under the active bank's threshold, an
underflow of this boundary counted, their count to 0, and the raw condition that the levels then give. A source whose store
is IDLE is not evaluated. The raw condition changes reach the groups, the watches, the pattern sets and both links' queues
(R113, R119 to R121, R125, R137): one event for each source, after the adoption's or the timers' own. The order of the
sources is the model's choice (ascending, log entry 7); whether a group's timers count before or after them is left open
(log entry 8). -/
def Obligations.WindowEndEvaluatesEverySource : Prop :=
  ∀ (s : State) (c : BoundaryCause) (i : Instr), s.makesBoundary c → s.BoundaryRow c i → s.endsWindow →
    s.stores.wf Store.reset = true →
    ∃ t, exec i s = .next t ∧ t.rate.counter = 0
      ∧ (∀ n, (s.storeNext n).state = .idle →
        t.store n = s.storeNext n ∧ t.rateOf n = s.rateNext n ∧ t.defect n = s.defectNext n)
      ∧ (∀ n, (s.storeNext n).state ≠ .idle →
        let d := (s.storeNext n).decide s.rate.j
        let r := s.rateNext n
        let f := s.defectNext n
        let e := saturateEstimate (rateQuotient s.rate.k d.1.w d.1.advances d.1.retards)
        let level := d.1.complete && (e.2 || decide ((s.rate.l : Int) < |e.1|))
        let errored := if d.2.2 then min (f.errored + 1) 65535 else f.errored
        let after : DefectRec := { f with
          errored := 0
          excursion := if level = r.excursion then f.excursion else level
          degrade := if r.newInWindow then f.degrade else degradeAfter (t.threshold n) errored f.degrade }
        t.store n = { d.1 with advances := 0, retards := 0, complete := decide (d.1.state = .running) }
        ∧ t.rateOf n = (if d.1.complete then ⟨e.1, true, e.2, level, false⟩
            else ⟨r.estimate, false, r.saturated, false, false⟩)
        ∧ t.defect n = { after with raw := rawCondition (s.lineDefect (lineOfSlot n)) after })
      ∧ (s.Canonical → ∃ first : Nat → Bool,
        (s.beforeNotices t).Reaches t (s.settledAt t first) (s.boundaryNotices c))

/-- R97, R99 to R103: the content record of every egress head at a boundary, by the bank active after its adoption: IDLE
filler where no bank is active or the entry is IDLE; the resolved source's take for a SOURCE or a GROUP head, replaced by
marked filler while the source is FAILED or PRIMING; the followed head's record with the FOLLOW entry's width and tag. A
group resolves by the selection it had before the boundary, or WORKING where an adoption does not keep it. -/
def Obligations.HeadsCarryTheirSources : Prop :=
  ∀ (s : State) (c : BoundaryCause) (i : Instr), s.makesBoundary c → s.BoundaryRow c i →
    let filler : Width → Nat → Option Byte → Content := fun w n tag =>
      ⟨w, .nominal, List.replicate (64 * w.toNat) 0, true, some n, tag⟩
    let source : Width → Nat → Option Byte → Content := fun w n tag =>
      if (s.defectNext n).raw = .failed then filler w n tag
      else
        match ((s.storeNext n).decide s.rate.j).2.1 with
        | some take => if take.priming then filler w n tag else ⟨w, take.code, take.bytes, false, some n, tag⟩
        | none => filler w n tag
    let selected : Nat → Selection := fun g =>
      match s.activeBank.groupDef g, s.bankNext.groupDef g with
      | some o, some d =>
        if o.width = d.width ∧ o.working = d.working ∧ o.protect = d.protect then (s.group g).selection else .working
      | _, _ => .working
    let direct : Entry → Option Content := fun e =>
      match e with
      | .source w n tag => some (source w n tag)
      | .group w g tag =>
        match s.bankNext.groupDef g with
        | some d => some (source w (match selected g with | .working => d.working | .protect => d.protect) tag)
        | none => none
      | .follow _ _ _ => none
      | .idle => none
    ∃ t f, exec i s = .next t ∧ t.egress = some f ∧ ∀ h, some (f.content.get Content.idle h) =
      match s.bankNext.entry h with
      | .follow w e tag =>
        match direct (s.bankNext.entry e) with
        | some r => some { r with width := w, tag := tag }
        | none => some Content.idle
      | .idle => some Content.idle
      | .source w n tag => some (source w n tag)
      | .group w g tag => some ((direct (.group w g tag)).getD Content.idle)

/-- R13 to R15: the frame begun at a boundary: in phase 1 the overhead byte of a head is the XOR of the histories of the slots
it covers, in phase 0 its transmit tag, or the resolved source's accepted tag after an adoption's clearing, or 00h; each
slot's history takes the XOR of the 65 positions it is handed; and the line's bytes are the alignment word and then, slot by
slot, the control and overhead bytes of its head and its 65 positions. The frame before has been cut where the boundary came
early, and was followed by 00h where it came late, at the line's even byte rate (log entry 19). -/
def Obligations.FramesCarryTagsAndParity : Prop :=
  ∀ (s : State) (c : BoundaryCause) (i : Instr), s.makesBoundary c → s.BoundaryRow c i →
    ∃ t f, exec i s = .next t ∧ t.egress = some f
      ∧ (∀ n, t.sent n = ⟨xorBytes (slotPositions f.content n), (s.sent n).newer⟩)
      ∧ (∀ h, coveringHead f.content h = h →
        let r := f.content.get Content.idle h
        f.overhead.get 0 h =
          if (s.lif (lineOfSlot h)).egressPhase then
            xorBytes ((coveredSlots h r.width).flatMap (fun n => [(s.sent n).newer, (s.sent n).older]))
          else
            match r.tag, r.resolved with
            | some tag, _ => tag
            | none, some n => ((t.slot n).accepted).getD 0x00#8
            | none, none => 0x00#8)
      ∧ ∀ l : LineNo,
        let slot : Nat → List Byte := fun n =>
          let h := coveringHead f.content n
          let r := f.content.get Content.idle h
          let code : Nat := match r.code with | .nominal => 0 | .advance => 84 | .retard => 168
          [BitVec.ofNat 8 (code + (if r.marker then 2 else 0) + (if (s.lif l).egressPhase then 1 else 0)),
              f.overhead.get 0 h]
            ++ ((r.payload ++ List.replicate (65 * r.width.toNat - r.payload.length) 0x00#8).drop (65 * (n - h))).take 65
        let sent := (t.time.lastBoundary - s.time.lastBoundary) * (if l.val < 16 then 3220 else 25732) / 250000
        lineFrame t l = some ([0x4E#8, 0x97#8, 0x1D#8, 0xC2#8]
          ++ (List.range (if l.val < 16 then 48 else 384)).flatMap (fun j => slot (firstSlot l + j)))
        ∧ lineBefore t l = (lineFrame s l).map (fun b => b.take sent ++ List.replicate (sent - b.length) 0x00#8)

/-- R140, R141: at a boundary without an adoption, the running timers of every defined group count down by 1; a hold-off
timer that reaches 0 makes the side's effective condition its raw condition, and a group with an expiry (HOLD_OFF_EXPIRY,
RESTORE_WAIT_EXPIRY) is evaluated once; every other group keeps its record. At a window end each group also meets the raw
condition changes (R115, R137), before its timers count or after: R140 leaves that open (log entry 8); its two sources
change in ascending order, each in an event of its own (the model's choice, log entry 7). The GROUP_SWITCH and
REQUEST_DISPLACED notices offered are those of the evaluations, group by group, and with the latches and the other notices
they are all that the boundary raises. -/
def Obligations.GroupTimersCountAtBoundaries : Prop :=
  ∀ (s : State) (c : BoundaryCause) (i : Instr), s.makesBoundary c → s.BoundaryRow c i → s.pendingAct = none →
    s.groups.wf GroupRec.reset = true →
    ∃ t, exec i s = .next t
      ∧ (¬s.endsWindow → ∀ g,
        let r := s.group g
        let expires := r.working.timer = 1 ∨ r.protect.timer = 1 ∨ r.restore = 1
        (r.settings = none → t.group g = r)
        ∧ (r.settings ≠ none → ¬expires → t.group g = r.counted r)
        ∧ (r.settings ≠ none → expires → t.group g = ((r.counted r).evaluate g t.time.seconds t.time.frame).1))
      ∧ (s.Canonical → ∃ first : Nat → Bool,
        (¬s.endsWindow → ∀ g, first g = true)
        ∧ (s.endsWindow → ∀ g,
          let r := s.group g
          let tick : GroupRec → GroupRec := fun q => (r.tick g t.time.seconds t.time.frame q).1
          let meet : GroupRec → GroupRec := fun q =>
            q.meetsWindowEnd g t.time.seconds t.time.frame (fun n => (s.defect n).raw) (fun n => (t.defect n).raw)
          t.group g = if first g then meet (tick r) else tick (meet r))
        ∧ (s.beforeNotices t).Reaches t (s.settledAt t first) (s.boundaryNotices c))

/-- R172: the boundary at which the oldest notice of a link has waited for the delay asserts the link's alert line. -/
def Obligations.AlertDelayExpiryAssertsTheLine : Prop :=
  ∀ (s : State) (c : BoundaryCause) (x : Link) (q : Queued), s.makesBoundary c → (s.link x).queue.head? = some q →
    0 < (s.link x).delay → (s.link x).delay ≤ 1000 → q.wait + 1 = (s.link x).delay * 4 →
    ∃ t, exec (.alertDelayExpiry x c) s = .next t ∧ (t.link x).alert = true
      ∧ (t.link x).queue.head? = some { q with wait := q.wait + 1 }

/-! ### Adoption -/

/-- R89 to R92, R182, R183: ADOPTION: the pending bank is active, nothing is pending, the Map Engine is READY and has released
its read-hold; no record and no revision of any bank changes and no other hold does. Ingress slots start afresh or take
their new expectation (R11, R12). Every watch and every pattern set is evaluated (R119, R120, R125), and then, where the
boundary is a window end too, at each source's change (R115, in the order of log entry 7); their settings are kept. Once
start-up has finished, BANK_ACTIVATED is offered exactly once, beside the notices of the latches taken and of the groups. The
adoption made by start-up finishes it with the start outcome to be reported, and START is the first notice offered, and
those of a window end the only others (log entry 27). -/
def Obligations.AdoptionMakesThePendingBankActive : Prop :=
  ∀ (s : State) (c : BoundaryCause) (p : PendingActivation), s.makesBoundary c → s.pendingAct = some p → s.Canonical →
    ∃ t, exec (.adoption c) s = .next t ∧ t.active = some p.bank ∧ t.pendingAct = none ∧ t.mapEngine = none
      ∧ (∀ b, t.bank b = s.bank b)
      ∧ (∀ b, t.hold b = if b = p.bank then ⟨none, (s.hold b).image⟩ else s.hold b)
      ∧ t.image = (if s.image.finished then s.image
          else { s.image with op := none, finished := true, outcome := s.image.toReport })
      ∧ (∀ n, (s.parityCleared n → t.slot n = { s.slotNext n with parity := SlotParity.reset })
        ∧ (¬s.parityCleared n → t.slot n = s.slotNext n))
      ∧ (let v := s.settledAt t (fun _ => true)
        (∀ n, t.watch n = { s.watch n with latch := v.watch n })
        ∧ (∀ q, t.pattern q = { s.pattern q with latch := v.pattern q })
        ∧ (s.beforeNotices t).Offered t v (s.boundaryNotices c))

/-- R150 to R153: an adoption resets the record of a group that the new bank leaves undefined, defines a group afresh from its
sources' raw conditions where the group is new or its width or a side changed, and gives a group that it keeps the new
settings, its timers counted and the adoption's condition changes met under the new hold-off; every group but a removed one
is evaluated. Where the boundary is a window end too, the groups then meet its condition changes, source by source: that the
two sources of a group change in ascending order, each in an event of its own, is the model's choice (log entry 7; R42 and
R115 leave the order open). The lock of a group that is kept stays. -/
def Obligations.AdoptionReconcilesGroups : Prop :=
  ∀ (s : State) (c : BoundaryCause) (p : PendingActivation), s.makesBoundary c → s.pendingAct = some p → s.Canonical →
    ∃ t, exec (.adoption c) s = .next t ∧ ∀ g,
      let r := (s.groupNext t.time.seconds t.time.frame g).1
      (¬s.endsWindow → t.group g = r)
      ∧ (s.endsWindow → t.group g = r.meetsWindowEnd g t.time.seconds t.time.frame (fun n => (s.defectNext n).raw)
          (fun n => (t.defect n).raw))
      ∧ (∀ o d, s.activeBank.groupDef g = some o → (s.bank p.bank).groupDef g = some d →
        o.width = d.width ∧ o.working = d.working ∧ o.protect = d.protect →
        (t.group g).settings = some d ∧ (t.group g).lock = (s.group g).lock
          ∧ (t.group g).requests.Sublist (s.group g).requests)

/-- R68: a bank references exactly the sources that a SOURCE entry or a defined group names. -/
def Obligations.ReferencedMeansNamed : Prop :=
  ∀ (b : Bank) (n : Nat), n ∈ b.referenced ↔
    (∃ h w tag, b.entry h = .source w n tag) ∨ ∃ g d, b.groupDef g = some d ∧ (d.working = n ∨ d.protect = n)

/-! ### Lines -/

/-- R2: SIGNAL_ABSENT sends the LIF to HUNT, clears every parity history and run of the line's slots, and makes
LINE_ABSENT present, and FRAME_LOST too if the LIF was LOCKED; SIGNAL_PRESENT changes the detector and LINE_ABSENT alone.
The raw condition of every source of the line whose store is not IDLE is derived, and the changes reach the groups, where
hold-offs start and are cancelled (R137 to R139), the watches and the pattern sets (R113, R118 to R121, R125). Nothing else
changes. Log entry 2, an inference: where the detector already stands so, the row is no event and changes nothing. -/
def Obligations.SignalDetectorChanges : Prop :=
  ∀ (s : State) (l : LineNo),
    let lf := s.lif l
    let settled : State → Prop := fun t =>
      (∀ n, (t.defect n).raw = if lineOfSlot n = l ∧ (s.store n).state ≠ .idle then
          rawCondition (t.lineDefect l) (s.defect n) else (s.defect n).raw)
      ∧ (s.Canonical → s.ChangesReach t)
    (lf.signal = true → ∃ t, exec (.signalAbsent l) s = .next t
      ∧ State.SameButMonitor
          (((s.setLif l { lf with signal := false, align := .hunt, confirm := 0, miss := 0, expected := none
            }).breakArrivals l).setLineDefect l
              (if lf.align = .locked then ⟨true, true⟩ else { s.lineDefect l with absent := true })) t
      ∧ (∀ n, t.slot n = if lineOfSlot n = l then
          { s.slot n with markerRun := 0, mismatchRun := 0, parity := SlotParity.reset } else s.slot n)
      ∧ settled t)
    ∧ (lf.signal = false → ∃ t, exec (.signalPresent l) s = .next t
      ∧ State.SameButMonitor ((s.setLif l { lf with signal := true }).setLineDefect l
          { s.lineDefect l with absent := false }) t
      ∧ settled t)
    ∧ (lf.signal = false → exec (.signalAbsent l) s = .next s)
    ∧ (lf.signal = true → exec (.signalPresent l) s = .next s)

/-- R3 to R5: frame alignment: a find in HUNT, the second hit in CONFIRM locks, a miss in CONFIRM returns to HUNT, a hit
in LOCKED clears the miss count, and the fourth consecutive miss returns to HUNT; a lock clears FRAME_LOST and its loss
sets it. The raw conditions of the line's sources follow, and their changes reach the groups, where hold-offs start and are
cancelled (R137 to R139), the watches and the pattern sets (R113, R118 to R121, R125). -/
def Obligations.AlignmentWordsMoveTheLif : Prop :=
  ∀ (s : State) (l : LineNo) (p : Nat) (v : Word),
    let lf := s.lif l
    let frame := if l.val < 16 then 3220 else 25732
    let next := lf.expected.map (· + frame)
    let hunt : Lif := { lf with align := .hunt, confirm := 0, miss := 0, expected := none }
    let settled : State → Prop := fun t =>
      (∀ n, (t.defect n).raw = if lineOfSlot n = l ∧ (s.store n).state ≠ .idle then
          rawCondition (t.lineDefect l) (s.defect n) else (s.defect n).raw)
      ∧ (s.Canonical → s.ChangesReach t)
    (lf.align = .hunt → lf.signal = true → exec (.alignmentFind l p 0x4E971DC2#32) s = .next
      (s.setLif l { lf with align := .confirm, confirm := 0, miss := 0, expected := some (p + frame) }))
    ∧ (lf.align = .confirm →
      (lf.confirm = 0 → exec (.confirmWord l 0x4E971DC2#32) s = .next (s.setLif l { lf with confirm := 1, expected := next }))
      ∧ (lf.confirm = 1 → ∃ t, exec (.confirmWord l 0x4E971DC2#32) s = .next t ∧ State.SameButMonitor
        ((s.setLif l { lf with align := .locked, confirm := 2, miss := 0, expected := next }).setLineDefect l
          { s.lineDefect l with lost := false }) t ∧ settled t)
      ∧ (v ≠ 0x4E971DC2#32 → exec (.confirmWord l v) s = .next (s.setLif l hunt)))
    ∧ (lf.align = .locked →
      exec (.lockedWord l 0x4E971DC2#32) s = .next (s.setLif l { lf with miss := 0, expected := next })
      ∧ (v ≠ 0x4E971DC2#32 → lf.miss < 3 →
        exec (.lockedWord l v) s = .next (s.setLif l { lf with miss := lf.miss + 1, expected := next }))
      ∧ (v ≠ 0x4E971DC2#32 → 3 ≤ lf.miss → ∃ t, exec (.lockedWord l v) s = .next t ∧ State.SameButMonitor
        (((s.setLif l hunt).breakArrivals l).setLineDefect l { s.lineDefect l with lost := true }) t ∧ settled t))

/-- R6 to R11, R114: INGRESS_ARRIVAL in LOCKED, where the active bank satisfies C1, at every source head of the line: the first
64w, 64w + 1 or 64w - 1 payload positions by the code taken go to the store; an overflow, and a frame errored by its code or,
on a phase-1 frame, by its parity, are errored events of a source whose store is not IDLE; the covered slots' histories take
the arrival; MARKER changes after three markers in a row; on a phase-0 frame the tag candidate, the tag accepted after five
equal tags in a row, and TAG_MISMATCH, which changes after five tags in a row. A change of a level reaches the defect record
of a source whose store is not IDLE, and its raw condition is derived; the changes reach the groups, where hold-offs start and
are cancelled (R137 to R139), the watches, the pattern sets and both links' queues (R113, R119 to R121, R125), each level an
event of its own: that the heads come in ascending order, MARKER before TAG_MISMATCH at each, is the model's choice (log
entry 7). Other stores, defect records and slots, the LIFs, the banks, the time and the holds are unchanged. -/
def Obligations.IngressArrivalReachesEveryHead : Prop :=
  ∀ (s : State) (l : LineNo) (slots : List RxSlot), wellFormedFrame l slots = true → (s.lif l).align = .locked →
    s.activeBank.profiles.wf none = true →
    (∀ h p, s.activeBank.profile h = some p → ∀ j, 0 < j → j < p.width.toNat → s.activeBank.profile (h + j) = none) →
    ∃ t, exec (.ingressArrival l slots) s = .next t
      ∧ (∀ n, (s.activeBank.profile n = none ∨ lineOfSlot n ≠ l) → t.store n = s.store n ∧ t.defect n = s.defect n)
      ∧ (∀ m, (∀ n p, s.activeBank.profile n = some p → lineOfSlot n = l → n ≤ m → n + p.width.toNat ≤ m) →
        t.slot m = s.slot m)
      ∧ t.lifs = s.lifs ∧ t.banks = s.banks ∧ t.time = s.time ∧ t.holds = s.holds ∧ t.lineDefects = s.lineDefects
      ∧ (s.Canonical →
        let marked : Nat → Cond := fun n =>
          if (s.store n).state = .idle ∨ (t.slot n).marker = (s.slot n).marker then (s.defect n).raw
          else rawCondition (s.lineDefect l) { s.defect n with marker := (t.slot n).marker }
        let reports : Settled → Nat → Settled := fun v n =>
          (v.event t [n] marked).event t [n] (fun m => (t.defect m).raw)
        s.Reaches t ((s.activeBank.profiles.keys.filter (fun n => lineOfSlot n = l)).foldl reports s.settled) [])
      ∧ ∀ n w x d, s.activeBank.profile n = some ⟨w, x, d⟩ → lineOfSlot n = l →
        let at_ : Nat → RxSlot := fun m => slots.getD (m - firstSlot l) ⟨0, 0, []⟩
        let head := at_ n
        let code := (codeTaken head.control).1
        let count := match code with | .nominal => 64 * w.toNat | .advance => 64 * w.toNat + 1 | .retard => 64 * w.toNat - 1
        let payload := ((List.range w.toNat).flatMap (fun j => (at_ (n + j)).payload)).take count
        let marker := head.control.getLsbD 1
        let phase := head.control.getLsbD 0
        let history := (List.range w.toNat).map (fun j => (s.slot (n + j)).parity)
        let errored := (codeTaken head.control).2 = true ∨ phase = true ∧ (∀ q ∈ history, q.held = 2)
          ∧ head.overhead ≠ xorBytes (history.flatMap (fun q => [q.newer, q.older]))
        let events := (if ((s.store n).arrive payload).2 then 1 else 0) + (if errored then 1 else 0)
        let old := s.slot n
        let new := t.slot n
        let idle := (s.store n).state = .idle
        t.store n = ((s.store n).arrive payload).1
        ∧ (t.defect n).errored = (if idle ∨ events = 0 then (s.defect n).errored
            else min ((s.defect n).errored + events) 65535)
        ∧ (∀ j, j < w.toNat → (t.slot (n + j)).parity
            = ⟨min ((s.slot (n + j)).parity.held + 1) 2, xorBytes (at_ (n + j)).payload, (s.slot (n + j)).parity.newer⟩)
        ∧ (new.marker, new.markerRun) = (if marker = old.marker then (old.marker, 0)
            else if 3 ≤ old.markerRun + 1 then (marker, 0) else (old.marker, old.markerRun + 1))
        ∧ (phase = true → new.candidate = old.candidate ∧ new.accepted = old.accepted
          ∧ new.mismatch = old.mismatch ∧ new.mismatchRun = old.mismatchRun)
        ∧ (phase = false →
          let run := match old.candidate with
            | some k => if k.tag = head.overhead then min (k.run + 1) 5 else 1
            | none => 1
          new.candidate = some ⟨head.overhead, run⟩
          ∧ new.accepted = (if 5 ≤ run then some head.overhead else old.accepted)
          ∧ (x = none → new.mismatch = old.mismatch ∧ new.mismatchRun = old.mismatchRun)
          ∧ ∀ e, x = some e → (new.mismatch, new.mismatchRun)
            = (if decide (head.overhead ≠ e) = old.mismatch then (old.mismatch, 0)
              else if 5 ≤ old.mismatchRun + 1 then (decide (head.overhead ≠ e), 0)
              else (old.mismatch, old.mismatchRun + 1)))
        ∧ (t.defect n).marker = (if idle ∨ new.marker = old.marker then (s.defect n).marker else new.marker)
        ∧ (t.defect n).mismatch = (if idle ∨ new.mismatch = old.mismatch then (s.defect n).mismatch else new.mismatch)
        ∧ (t.defect n).degrade = (s.defect n).degrade ∧ (t.defect n).excursion = (s.defect n).excursion
        ∧ (t.defect n).raw = (if idle ∨ new.marker = old.marker ∧ new.mismatch = old.mismatch then (s.defect n).raw
            else rawCondition (s.lineDefect l) (t.defect n))

/-! ### Stores, rates and levels -/

/-- R22, R23: an arrival at a store is discarded while the store is IDLE and appended while it fits. R24: on overflow the
newest 128w of the first 256w bytes are kept, I is 0, the slip count rises, holding at 255, and the result's flag says that
the store overflowed. Nothing else of the store's record changes. -/
def Obligations.ArrivalsFillTheStore : Prop :=
  ∀ (st : Store) (bs : List Byte),
    (st.state = .idle → st.arrive bs = (st, false))
    ∧ (st.state ≠ .idle → st.bytes.length + bs.length ≤ 256 * st.w →
      st.arrive bs = ({ st with bytes := st.bytes ++ bs }, false))
    ∧ (st.state ≠ .idle → 256 * st.w < st.bytes.length + bs.length →
      ∃ kept, kept.length = 128 * st.w ∧ (∃ old, old.length = 128 * st.w ∧ old ++ kept = (st.bytes ++ bs).take (256 * st.w))
        ∧ st.arrive bs = ({ st with bytes := kept, integrator := 0, slips := min (st.slips + 1) 255 }, true))

/-- R26 to R33: the decision of a store of width w: a PRIMING store below its centre takes nothing; otherwise the guards,
then the integrator against J, decide an advance, a retard or nominal; a take that the fill covers is removed, and one it
does not cover underflows with filler. -/
def Obligations.StoreDecisions : Prop :=
  ∀ (st : Store) (w : Width) (j : Nat), st.width = some w →
    let fill := st.bytes.length
    let centre := 128 * w.toNat
    (st.state = .priming → fill < centre →
      st.decide j = ({ st with lastCode := .nominal }, some ⟨.nominal, [], true⟩, false))
    ∧ (st.state = .running ∨ (st.state = .priming ∧ centre ≤ fill) →
      let i : Int := if st.state = .running then st.integrator else 0
      let raw : Int := i + ((fill : Int) - centre)
      let sum : Int := if raw < -4095 then -4095 else if 4095 < raw then 4095 else raw
      let d : TakeCode × Int :=
        if 256 * w.toNat - 16 ≤ fill then (.advance, 0)
        else if fill ≤ 64 * w.toNat + 16 then (.retard, 0)
        else if (j : Int) ≤ sum then (.advance, sum - j)
        else if sum ≤ -(j : Int) then (.retard, sum + j)
        else (.nominal, sum)
      let t := match d.1 with
        | .nominal => 64 * w.toNat | .advance => 64 * w.toNat + 1 | .retard => 64 * w.toNat - 1
      let counted : Store := { st with
        lastCode := d.1
        advances := st.advances + (if d.1 = .advance then 1 else 0)
        retards := st.retards + (if d.1 = .retard then 1 else 0) }
      (t ≤ fill → st.decide j =
        ({ counted with state := .running, integrator := d.2, bytes := st.bytes.drop t },
          some ⟨d.1, st.bytes.take t, false⟩, false))
      ∧ (fill < t → st.decide j =
        ({ counted with
            state := .priming, integrator := 0, bytes := [], slips := min (st.slips + 1) 255, complete := false },
          some ⟨d.1, st.bytes ++ List.replicate (t - fill) 0x00#8, false⟩, true)))

/-- R7, R45, R112, R115: the arithmetic of the lines and levels: the code taken is the pair value that appears at least
twice, and without one, or for 11, nominal with an errored event; the estimate of a window is truncated and saturated;
the raw condition is the one a source's levels give; DEGRADE follows the errored events with its hysteresis. -/
def Obligations.CodeEstimateConditionAndDegrade : Prop :=
  (∀ a b c low : Nat, a < 4 → b < 4 → c < 4 → low < 4 →
    let taken := codeTaken (BitVec.ofNat 8 (a * 64 + b * 16 + c * 4 + low))
    let twice : Nat → Prop := fun v => a = v ∧ b = v ∨ a = v ∧ c = v ∨ b = v ∧ c = v
    (twice 0 → taken = (.nominal, false)) ∧ (twice 1 → taken = (.advance, false)) ∧ (twice 2 → taken = (.retard, false))
    ∧ (twice 3 ∨ (a ≠ b ∧ a ≠ c ∧ b ≠ c) → taken = (.nominal, true)))
  ∧ (∀ (k w a r : Nat), 0 < w →
    let q : Int := ((a : Int) - r) * 10000000
    let e : Int := if 0 ≤ q then q / (2 ^ k * (64 * w)) else -(-q / (2 ^ k * (64 * w)))
    saturateEstimate (rateQuotient k w a r)
      = if 32767 < e then (32767, true) else if e < -32767 then (-32767, true) else (e, false))
  ∧ (∀ (l : LineDefects) (d : DefectRec),
    (rawCondition l d = .failed ↔ l.absent = true ∨ l.lost = true ∨ d.marker = true ∨ d.mismatch = true)
    ∧ (rawCondition l d = .degraded ↔ (l.absent = false ∧ l.lost = false ∧ d.marker = false ∧ d.mismatch = false)
      ∧ (d.degrade = true ∨ d.excursion = true)))
  ∧ ∀ (t n : Nat) (before : Bool),
    (t = 0 → degradeAfter t n before = false)
    ∧ (0 < t → t ≤ n → degradeAfter t n before = true)
    ∧ (0 < t → n ≤ t / 2 → degradeAfter t n before = false)
    ∧ (t / 2 < n → n < t → degradeAfter t n before = before)

/-! ### Links -/

/-- R156 to R158: a whole write transfer on a link whose decoder is QUIET: an overrun while a command waits, FRAME_ERROR
for a frame that fails a check, UNKNOWN for a code that no command has, and otherwise the untaken command with PENDING; the
part sends 00h throughout. A transfer in parts does the same as one event. -/
def Obligations.FrameArrivalIsCheckedAndAccepted : Prop :=
  ∀ (x : Link) (s : State) (bytes : List Byte), (s.link x).decoder = .quiet →
    let l : LinkState := { s.link x with
      frameBuf := [], frameLen := 0, sent := List.replicate (1 + bytes.length) 0x00#8 }
    let code := bytes.getD 0 0x00#8
    let n := (bytes.getD 1 0x00#8).toNat
    let good := 3 ≤ bytes.length ∧ n ≤ 250 ∧ bytes.length = n + 3 ∧ (bytes.map BitVec.toNat).sum % 256 = 0
    (l.untaken ≠ none → exec (.frameArrival x (.whole bytes)) s = .next (s.setLink x { l with overrun := true }))
    ∧ (l.untaken = none → ¬good → exec (.frameArrival x (.whole bytes)) s
        = .next (s.setLink x { l with response := ⟨code, .frameError, false, []⟩ }))
    ∧ (l.untaken = none → good → code.toNat ∉ commandCodes → exec (.frameArrival x (.whole bytes)) s
        = .next (s.setLink x { l with response := ⟨code ||| 0x80#8, .unknown, false, []⟩ }))
    ∧ (l.untaken = none → good → code.toNat ∈ commandCodes → exec (.frameArrival x (.whole bytes)) s
        = .next (s.setLink x { l with
            untaken := some ⟨code, (bytes.drop 2).take n⟩, response := ⟨code, .pending, false, []⟩ }))
    ∧ ∀ u v, bytes = u ++ v → ∃ s1 s2, exec (.frameArrival x (.shift u)) s = .next s1
      ∧ exec (.frameArrival x (.shift v)) s1 = .next s2
      ∧ ∃ s3, exec (.frameArrival x .rise) s2 = .next s3 ∧ exec (.frameArrival x (.whole bytes)) s = .next s3

/-- R156, R160: a read transfer on a link whose decoder is QUIET sends 00h in its first byte, then echo, outcome with the
clamped flag, length and result of the response, the status word, a check byte that makes all of them sum to 0, and then
status words without end; it leaves the response and everything else of the state as they were. A skipped transfer (R156,
R166), whose first byte is neither 01h nor 02h, makes the decoder SKIPPING until select rises; the part sends 00h throughout
and nothing else changes. -/
def Obligations.ReadAndSkippedTransfers : Prop :=
  ∀ (x : Link) (s : State) (n : Nat), (s.link x).decoder = .quiet →
    let l := s.link x
    let items := [l.response.echo, BitVec.ofNat 8 (l.response.outcome.code + if l.response.clamped then 128 else 0),
      BitVec.ofNat 8 l.response.result.length] ++ l.response.result
    let word := byte2 (s.statusWord x).toNat
    let check : Byte := BitVec.ofNat 8 (256 - ((items ++ word).map BitVec.toNat).sum % 256)
    let zeros : Nat → List Byte := fun k => List.replicate k 0x00#8
    exec (.readTransfer x (.whole n)) s = .next (s.setLink x { l with
      sent := [0x00#8] ++ ((items ++ word ++ [check]) ++ (List.replicate n word).flatten).take n
      statusOut := if items.length < n then s.statusWord x else l.statusOut
      readItems := none })
    ∧ ∀ first : Byte, first ≠ 0x01#8 → first ≠ 0x02#8 →
      let skipping := s.setLink x { l with decoder := .skipping, sent := zeros 1 }
      let on := s.setLink x { l with decoder := .skipping, sent := zeros (1 + n) }
      exec (.skippedTransfer x (.start first)) s = .next skipping
      ∧ exec (.skippedTransfer x (.shift n)) skipping = .next on
      ∧ exec (.skippedTransfer x .rise) on = .next (s.setLink x { l with sent := zeros (1 + n) })
      ∧ exec (.skippedTransfer x (.whole first n)) s = .next (s.setLink x { l with sent := zeros (1 + n) })

/-- R162 and file 12: what each field of a link's status word says. -/
def Obligations.StatusWordReportsTheDevice : Prop :=
  ∀ (x : Link) (s : State),
    let w := s.statusWord x
    w.getLsbD 15 = s.mapEngine.isNone ∧ w.getLsbD 14 = s.image.op.isNone ∧ w.getLsbD 13 = s.image.finished
    ∧ w.toNat / 2048 % 4 = (match s.image.outcome with
        | none => 0 | some .imageStarted => 0 | some .blankStore => 1 | some .imageCorrupt => 2
        | some .imageInconsistent => 3)
    ∧ w.toNat / 512 % 4 = (match s.active with | some b => b.val | none => 3)
    ∧ w.getLsbD 8 = s.time.refPresent ∧ w.getLsbD 7 = !(s.link x).queue.isEmpty ∧ w.getLsbD 6 = (s.link x).lost
    ∧ w.getLsbD 5 = (s.link x).alert ∧ w.getLsbD 4 = (s.link x).overrun ∧ w.toNat % 16 = 0

/-- R169: what a link does with an offered notice: ignored if its kind is masked, discarded with the lost flag if the
queue holds 32, and otherwise appended with wait count 0 and the alert line driven as R172 says. One offer reaches both
links and touches nothing else. -/
def Obligations.OfferedNoticesAreFiled : Prop :=
  ∀ (s : State) (n : Notice) (x : Link),
    let l := s.link x
    let subscribed := l.mask.getLsbD n.body.kindCode
    (subscribed = false → (s.offerOne n).link x = l)
    ∧ (subscribed = true → 32 ≤ l.queue.length → (s.offerOne n).link x = { l with lost := true })
    ∧ (subscribed = true → l.queue.length < 32 →
      let k : LinkState := { l with queue := l.queue ++ [⟨n, 0⟩] }
      ∃ a, (s.offerOne n).link x = { k with alert := a } ∧ (a = true ↔ k.alertWanted))
    ∧ s.offerOne n = { s with linkA := (s.offerOne n).linkA, linkB := (s.offerOne n).linkB }

/-! ### Protection commands -/

/-- R133 to R135: the accepted PUSH REQUEST inserts its request by rank, WITHDRAW REQUEST removes its kind and WITHDRAW ALL
every request; the group is evaluated in the same event, its notices are offered, and the result reports it. Nothing else
changes. -/
def Obligations.RequestCommandsEvaluateTheGroup : Prop :=
  ∀ (x : Link) (s : State) (g : GroupNo) (kind : ReqKind) (d : GroupDef),
    s.image.finished = true → (s.group g.val).settings = some d → requestsOrdered (s.group g.val).requests →
    kind ∈ [.manualWorking, .manualProtect, .forceProtect, .holdWorking] →
    let r := s.group g.val
    let took : Byte → List Request → List Byte → State := fun code list lead =>
      let out := ({ r with requests := list } : GroupRec).evaluate g.val s.time.seconds s.time.frame
      (out.2.foldl State.notify (s.setGroup g.val out.1)).answered x code
        ⟨.done, false, lead ++ byte1 g.val ++ byte1 out.1.requests.length
          ++ out.1.requests.flatMap (fun q => byte1 q.kind.code ++ byte1 (linkCode q.origin))
          ++ byte1 out.1.governing.code ++ byte1 out.1.selection.code ++ byte2 out.1.switchCount⟩
    (s.waits x 0x20#8 (byte1 g.val ++ byte1 kind.code) → (∀ q ∈ r.requests, q.kind ≠ kind) →
      (kind.isManual = true → (∀ q ∈ r.requests, q.kind.isManual = false) ∧ r.governing.rank ≤ 2) →
      exec (.pushRequest x) s = .next (took 0x20#8
        (r.requests.filter (fun q => decide (kind.rank < q.kind.rank)) ++ [⟨kind, x⟩]
          ++ r.requests.filter (fun q => decide (q.kind.rank < kind.rank))) []))
    ∧ (s.waits x 0x21#8 (byte1 g.val ++ byte1 kind.code) → (∃ q ∈ r.requests, q.kind = kind) →
      exec (.withdrawRequest x) s = .next (took 0x21#8 (r.requests.filter (fun q => decide (q.kind ≠ kind))) []))
    ∧ (s.waits x 0x22#8 (byte1 g.val) →
      exec (.withdrawAll x) s = .next (took 0x22#8 [] (byte1 r.requests.length)))

/-- R133 to R135: the refusals of the request commands in their order: NOT_DEFINED; DUPLICATE, then OUTRANKED, for a
push; NOT_PRESENT for a withdrawal. A refused command changes nothing. -/
def Obligations.RequestCommandsRefuseInOrder : Prop :=
  ∀ (x : Link) (s : State) (g : GroupNo) (kind : ReqKind), s.image.finished = true →
    kind ∈ [.manualWorking, .manualProtect, .forceProtect, .holdWorking] →
    let r := s.group g.val
    let dup := ∃ q ∈ r.requests, q.kind = kind ∨ kind.isManual = true ∧ q.kind.isManual = true
    (s.waits x 0x20#8 (byte1 g.val ++ byte1 kind.code) →
      (r.settings = none → exec (.pushRequest x) s = .next (s.answered x 0x20#8 ⟨.notDefined, false, []⟩))
      ∧ (r.settings ≠ none → dup → exec (.pushRequest x) s = .next (s.answered x 0x20#8 ⟨.duplicate, false, []⟩))
      ∧ (r.settings ≠ none → ¬dup → kind.isManual = true → 2 < r.governing.rank →
        exec (.pushRequest x) s = .next (s.answered x 0x20#8 ⟨.outranked, false, []⟩)))
    ∧ (s.waits x 0x21#8 (byte1 g.val ++ byte1 kind.code) →
      (r.settings = none → exec (.withdrawRequest x) s = .next (s.answered x 0x21#8 ⟨.notDefined, false, []⟩))
      ∧ (r.settings ≠ none → (∀ q ∈ r.requests, q.kind ≠ kind) →
        exec (.withdrawRequest x) s = .next (s.answered x 0x21#8 ⟨.notPresent, false, []⟩)))
    ∧ (s.waits x 0x22#8 (byte1 g.val) → r.settings = none →
      exec (.withdrawAll x) s = .next (s.answered x 0x22#8 ⟨.notDefined, false, []⟩))

/-- R142 to R147: the evaluation of a defined group: the highest ranked of the requests present governs, or a restore wait
that starts; the group selects the governing request's target; a manual request gives way to a rank above 2, with a
REQUEST_DISPLACED for it; a switch raises GROUP_SWITCH, after it; a held stamp stays; the conditions, settings and lock are
untouched. -/
def Obligations.EvaluationObeysTheHighestRequest : Prop :=
  ∀ (g : Nat) (sec : Word) (fr : Nat) (r : GroupRec) (d : GroupDef), r.settings = some d →
    let out := (r.evaluate g sec fr).1
    let restore := if d.revertive = false ∨ r.selection = .working then 0 else r.restore
    let present : ReqKind → Prop := fun k =>
      k = .noRequest ∨ (∃ q, r.requests.head? = some q ∧ q.kind = k) ∨ conditionKind .working r.working.eff = some k
        ∨ conditionKind .protect r.protect.eff = some k ∨ (restore ≠ 0 ∧ k = .restoreWait)
    ∃ cand, present cand ∧ (∀ k, present k → k.rank ≤ cand.rank)
      ∧ (let starts := cand = .noRequest ∧ d.revertive = true ∧ r.selection = .protect
            ∧ (r.governing = .failWorking ∨ r.governing = .degradeWorking)
        (starts → out.governing = .restoreWait ∧ out.restore = d.restoreWait * 40000)
        ∧ (¬starts → out.governing = cand ∧ out.restore = if 1 < cand.rank then 0 else restore))
      ∧ out.selection = (match out.governing with
          | .holdWorking | .failProtect | .degradeProtect | .manualWorking => .working
          | .forceProtect | .failWorking | .degradeWorking | .manualProtect | .restoreWait => .protect
          | .noRequest => if d.revertive then .working else r.selection)
      ∧ out.requests = (if 2 < cand.rank then r.requests.filter (fun q => !q.kind.isManual) else r.requests)
      ∧ (r.held = true ∨ out.selection = r.selection → out.stamp = r.stamp)
      ∧ (r.held = false → out.selection ≠ r.selection →
        out.stamp = some ⟨sec, fr, r.selection, out.selection, out.governing⟩ ∧ out.held = r.lock)
      ∧ out.switchCount = (if out.selection = r.selection then r.switchCount else min (r.switchCount + 1) 65535)
      ∧ out.settings = r.settings ∧ out.working = r.working ∧ out.protect = r.protect ∧ out.lock = r.lock
      ∧ (r.evaluate g sec fr).2
        = (if 2 < cand.rank then r.requests.filter (fun q => q.kind.isManual) else []).map (fun q =>
            .requestDisplaced g q.kind q.origin
              (if cand ∈ [.degradeWorking, .degradeProtect, .failWorking, .failProtect] then .defect else .higherRequest))
          ++ (if out.selection = r.selection then []
            else [.groupSwitch g r.selection out.selection (.request out.governing)])

/-- R148, R149: READ GROUP STATE reports the record and changes nothing; READ STAMP reports it and clears the held flag;
SET STAMP LOCK sets the lock of a defined group, clears the held flag when the lock is off, and answers NOT_DEFINED for
an undefined one. -/
def Obligations.GroupReadsAndStampLock : Prop :=
  ∀ (x : Link) (s : State) (g : GroupNo), s.image.finished = true →
    let r := s.group g.val
    let flag : Bool → Byte := fun b => if b then 0x01#8 else 0x00#8
    let side : SideRec → List Byte := fun sd => byte1 sd.raw.code ++ byte1 sd.eff.code ++ byte2 sd.timer
    (s.waits x 0x23#8 (byte1 g.val) → exec (.readGroupState x) s = .next (s.answered x 0x23#8
      ⟨.done, false, byte1 g.val ++ [flag r.settings.isSome] ++ groupBytes r.settings ++ byte1 r.selection.code
        ++ byte1 r.governing.code ++ byte1 r.requests.length
        ++ r.requests.flatMap (fun q => byte1 q.kind.code ++ byte1 (linkCode q.origin)) ++ side r.working ++ side r.protect
        ++ byte4 r.restore ++ byte2 r.switchCount ++ [flag r.lock, flag r.held]⟩))
    ∧ (s.waits x 0x24#8 (byte1 g.val) → exec (.readStamp x) s = .next
      ((s.setGroup g.val { r with held := false }).answered x 0x24#8
        ⟨.done, false, byte1 g.val ++ [flag r.settings.isSome] ++ byte2 r.switchCount ++ stampBytes r.stamp
          ++ [flag r.lock, flag r.held]⟩))
    ∧ (∀ v : Bool, s.waits x 0x25#8 (byte1 g.val ++ [flag v]) →
      (r.settings ≠ none → exec (.setStampLock x) s = .next
        ((s.setGroup g.val { r with lock := v, held := v && r.held }).answered x 0x25#8
          ⟨.done, false, byte1 g.val ++ [flag v, flag (v && r.held)] ++ stampBytes r.stamp⟩))
      ∧ (r.settings = none → exec (.setStampLock x) s = .next (s.answered x 0x25#8 ⟨.notDefined, false, []⟩)))

/-! ### Source commands -/

/-- R128, R124: READ SOURCE reports the source's head flag, width and line, its line's levels, and its store, rate, defect,
tag and watch records, and READ LATCHES the latched sources below its starting index in descending order, at most 32 of
them, whether more remain, and the eight pattern latches; neither changes anything, and an index out of range is refused.
The layout of READ LATCHES follows log entry 13, and 00h for an absent width in READ SOURCE log entry 16. -/
def Obligations.SourceReadsChangeNothing : Prop :=
  ∀ (x : Link) (s : State) (n : Nat), s.image.finished = true → n < 65536 →
    let flag : Bool → Byte := fun b => if b then 0x01#8 else 0x00#8
    let latches : Nat → Reply := fun bound =>
      let all := ((List.range bound).filter (fun m => (s.watch m).latch)).reverse
      ⟨.done, false, byte1 (all.take 32).length ++ (all.take 32).flatMap byte2 ++ [flag (decide (32 < all.length))]
        ++ (List.range 8).map (fun p => flag (s.pattern p).latch)⟩
    let width : Option Width → Byte := fun w =>
      match w with | none => 0x00#8 | some .w1 => 0x01#8 | some .w2 => 0x02#8 | some .w4 => 0x04#8 | some .w8 => 0x08#8
    let signed : Int → List Byte := fun i => byte2 (BitVec.ofInt 16 i).toNat
    let st := s.store n
    let r := s.rateOf n
    let d := s.defect n
    let w := s.watch n
    let source : List Byte :=
      byte2 n ++ [flag (s.activeBank.profile n).isSome, width ((s.activeBank.profile n).map (·.width)),
        BitVec.ofNat 8 (lineOfSlot n), flag (s.lineDefect (lineOfSlot n)).absent, flag (s.lineDefect (lineOfSlot n)).lost]
      ++ [match st.state with | .idle => 0x00#8 | .priming => 0x01#8 | .running => 0x02#8, width st.width]
      ++ byte2 st.bytes.length ++ signed st.integrator
      ++ [match st.lastCode with | .nominal => 0x00#8 | .advance => 0x01#8 | .retard => 0x02#8, BitVec.ofNat 8 st.slips]
      ++ byte2 st.advances ++ byte2 st.retards ++ [flag st.complete]
      ++ signed r.estimate ++ [flag r.valid, flag r.saturated, flag r.excursion]
      ++ [flag d.marker, flag d.mismatch, flag d.degrade] ++ byte2 d.errored
      ++ [match d.raw with | .ok => 0x00#8 | .degraded => 0x01#8 | .failed => 0x02#8]
      ++ (match (s.slot n).accepted with | some tag => [0x01#8, tag] | none => [0x00#8, 0x00#8])
      ++ [flag w.enabled, match w.level with | .failed => 0x00#8 | .degradedOrWorse => 0x01#8, flag w.polarity,
        match w.type with | .level => 0x00#8 | .change => 0x01#8, BitVec.ofNat 8 w.cls,
        match w.pattern with | some p => BitVec.ofNat 8 p | none => 0xFF#8, flag w.latch]
    (s.waits x 0x28#8 (byte2 n) → exec (.readSource x) s = .next (s.answered x 0x28#8
      (if n < 1536 then ⟨.done, false, source⟩ else ⟨.badArgument, false, []⟩)))
    ∧ (s.waits x 0x2A#8 [] → exec (.readLatches x) s = .next (s.answered x 0x2A#8 (latches 1536)))
    ∧ (s.waits x 0x2A#8 (byte2 n) → exec (.readLatches x) s = .next (s.answered x 0x2A#8
      (if n < 1536 then latches n else ⟨.badArgument, false, []⟩)))

/-- R122, R123: SET WATCH stores the entry, clears the latch of a disabled one and latches an enabled LEVEL entry whose
condition holds, and evaluates every pattern set; ACK LATCH clears the latch, which an enabled LEVEL entry whose condition
holds takes again. A latch taken raises its WATCH or PATTERN notice (R119, R121, R125), and no other notice is raised.
Watches of other sources, groups and conditions are unchanged. -/
def Obligations.WatchCommandsSetAndAcknowledge : Prop :=
  ∀ (x : Link) (s : State) (n : Nat) (bytes : List Byte) (w : Watch), s.image.finished = true → n < 1536 →
    bytes.length = 6 → decodeWatch (s.watch n).latch bytes = some w →
    let holds : Watch → Bool := fun v =>
      v.enabled && decide (v.type = .level) && s.isHead n && (v.level.value (s.defect n).raw == v.polarity)
    let set : Watch := { w with latch := w.enabled && ((s.watch n).latch || holds w) }
    let acked : Watch := { s.watch n with latch := holds (s.watch n) }
    let flag : Bool → Byte := fun b => if b then 0x01#8 else 0x00#8
    let notice : Watch → NoticeBody := fun v => .watch n v.cls (v.level.value (s.defect n).raw)
    let setReply : Reply := ⟨.done, false, byte2 n ++ [flag (s.isHead n)] ++ watchBytes set ++ [flag set.latch]⟩
    let ackReply : Reply := ⟨.done, false, byte2 n ++ [flag (s.watch n).latch, flag acked.latch]⟩
    (s.waits x 0x29#8 (byte2 n ++ bytes) → ∃ t, exec (.setWatch x) s = .next t
      ∧ State.SameButMonitor ((s.setWatch n set).answered x 0x29#8 setReply) t
      ∧ t.groups = s.groups ∧ t.defects = s.defects ∧ (∀ m, t.watch m = if m = n then set else s.watch m)
      ∧ (∀ p, t.pattern p = { s.pattern p with
          latch := (s.pattern p).latch || (decide (p < 8) && (s.pattern p).enabled && t.patternHolds p) })
      ∧ ∀ y, t.link y = ((((if set.latch && !(s.watch n).latch then [notice w] else []) ++ t.latchNotices s.settled t.settled []).foldl
          State.notify s).answered x 0x29#8 setReply).link y)
    ∧ (s.waits x 0x2B#8 (byte2 n) → ∃ t, exec (.ackLatch x) s = .next t
      ∧ State.SameButMonitor ((s.setWatch n acked).answered x 0x2B#8 ackReply) t
      ∧ t.groups = s.groups ∧ t.defects = s.defects ∧ t.patterns = s.patterns
      ∧ (∀ m, t.watch m = if m = n then acked else s.watch m)
      ∧ ∀ y, t.link y = ((if acked.latch then s.notify (notice acked) else s).answered x 0x2B#8 ackReply).link y)

/-- R126: SET PATTERN stores a pattern set, clears the latch of a disabled one, evaluates it and reports its condition and
number of members; ACK PATTERN clears the latch and evaluates it again. An evaluation latches an enabled set whose
condition holds and raises its PATTERN notice (R125), and no other notice is raised. Watches, groups, conditions and other
pattern sets are unchanged. -/
def Obligations.PatternCommandsSetAndAcknowledge : Prop :=
  ∀ (x : Link) (s : State) (p c : Nat) (on : Bool), s.image.finished = true → p < 8 → c < 16 →
    let flag : Bool → Byte := fun b => if b then 0x01#8 else 0x00#8
    let set : Pattern := ⟨on, c, on && ((s.pattern p).latch || s.patternHolds p)⟩
    let acked : Pattern := { s.pattern p with latch := (s.pattern p).enabled && s.patternHolds p }
    let setReply : Reply := ⟨.done, false, byte1 p ++ [flag on] ++ byte1 c ++ [flag (s.patternHolds p)]
      ++ byte2 (s.patternMembers p).length ++ [flag set.latch]⟩
    let ackReply : Reply := ⟨.done, false, byte1 p ++ [flag (s.pattern p).latch, flag acked.latch]⟩
    (s.waits x 0x2C#8 (byte1 p ++ [flag on] ++ byte1 c) → ∃ t, exec (.setPattern x) s = .next t
      ∧ State.SameButMonitor ((s.setPattern p set).answered x 0x2C#8 setReply) t
      ∧ t.groups = s.groups ∧ t.defects = s.defects ∧ t.watches = s.watches
      ∧ (∀ q, t.pattern q = if q = p then set else s.pattern q)
      ∧ ∀ y, t.link y = ((if set.latch && !(s.pattern p).latch then s.notify (.pattern p c) else s).answered x 0x2C#8
          setReply).link y)
    ∧ (s.waits x 0x2D#8 (byte1 p) → ∃ t, exec (.ackPattern x) s = .next t
      ∧ State.SameButMonitor ((s.setPattern p acked).answered x 0x2D#8 ackReply) t
      ∧ t.groups = s.groups ∧ t.defects = s.defects ∧ t.watches = s.watches
      ∧ (∀ q, t.pattern q = if q = p then acked else s.pattern q)
      ∧ ∀ y, t.link y = ((if acked.latch then s.notify (.pattern p acked.cls) else s).answered x 0x2D#8 ackReply).link y)

/-! ### Image Store Controller and start-up -/

/-- R177: SAVE IMAGE, LOAD IMAGE and VERIFY IMAGE: refused with ACTIVE_BANK for a load of the active bank, with BUSY while
the controller is BUSY or the hold cannot be placed; otherwise the hold is placed, the operation begins at page 0 with the
retry count in force, and ACCEPTED names the operation, the bank and its revision. -/
def Obligations.ImageOperationsAreTakenOrRefused : Prop :=
  ∀ (x : Link) (s : State) (b : BankNo), s.image.finished = true →
    let writeHeld := (s.hold b).mapEngine = some .write ∨ (s.hold b).image = some .write
    let begun : ImageOpName → HoldKind → State := fun op kind =>
      { s.setHold b ⟨(s.hold b).mapEngine, some kind⟩ with
        image := { s.image with
          op := some ⟨op, b, (s.bank b).revision, s.rate.retries, some 0, 0, s.time.seconds, false, []⟩ } }
    let report : Byte → List Byte := fun code => [code] ++ byte1 b.val ++ byte2 (s.bank b).revision.toNat
    (s.waits x 0x30#8 (byte1 b.val) →
      (s.image.op ≠ none ∨ writeHeld → exec (.saveImage x) s = .next (s.answered x 0x30#8 ⟨.busy, false, []⟩))
      ∧ (s.image.op = none → ¬writeHeld → exec (.saveImage x) s
          = .next ((begun .save .read).answered x 0x30#8 ⟨.accepted, false, report 0x04#8⟩)))
    ∧ (s.waits x 0x31#8 (byte1 b.val) →
      (s.active = some b → exec (.loadImage x) s = .next (s.answered x 0x31#8 ⟨.activeBank, false, []⟩))
      ∧ (s.active ≠ some b → s.image.op ≠ none ∨ s.hold b ≠ ⟨none, none⟩ →
        exec (.loadImage x) s = .next (s.answered x 0x31#8 ⟨.busy, false, []⟩))
      ∧ (s.active ≠ some b → s.image.op = none → s.hold b = ⟨none, none⟩ → exec (.loadImage x) s
          = .next ((begun .load .write).answered x 0x31#8 ⟨.accepted, false, report 0x05#8⟩)))
    ∧ (s.waits x 0x32#8 (byte1 b.val) →
      (s.image.op ≠ none ∨ writeHeld → exec (.verifyImage x) s = .next (s.answered x 0x32#8 ⟨.busy, false, []⟩))
      ∧ (s.image.op = none → ¬writeHeld → exec (.verifyImage x) s
          = .next ((begun .verifyImage .read).answered x 0x32#8 ⟨.accepted, false, report 0x06#8⟩)))

/-- R178, R180 to R182: a page read attempt of LOAD IMAGE, VERIFY IMAGE or START-LOAD: no format mark ends the read with
BLANK_STORE, a page check that disagrees is retried and then ends it with IMAGE_CORRUPT, a header with wrong counts ends
it with IMAGE_CORRUPT, and a page that passes has its records written or compared before the next page is read. -/
def Obligations.PageReadsAdvanceOrEndTheRead : Prop :=
  ∀ (s : State) (op : ImageOp) (p : Nat) (r : PageRead), s.image.op = some op → op.op ≠ .save → op.page = some p →
    p ≤ 69 → r.wellFormed = true →
    let bytes := match r with | .stored => s.flashPage p | .received bs => bs
    let word : Nat → Nat := fun k => (bytes.getD k 0x00#8).toNat * 256 + (bytes.getD (k + 1) 0x00#8).toNat
    let agrees := ((bytes.take 254).map BitVec.toNat).sum % 65536 = word 254
    let marked := p ≠ 0 ∨ word 0 = 0x47D2
    let go : State → ImageOp → State := fun u o => { u with image := { u.image with op := some o } }
    let left : OpResult → Bank → Bank := fun res v =>
      if res = .ok then { v with revision := v.revision + 1 }
      else ⟨Table.empty, Table.empty, Table.empty, v.revision + 1⟩
    let freed : State → State := fun u => u.setHold op.bank ⟨(u.hold op.bank).mapEngine, none⟩
    let check : BankNo → State → State := fun b u =>
      { u.setHold b ⟨some .read, (u.hold b).image⟩ with mapEngine := some (.activateCheck b (u.bank b).revision) }
    let reports : Option StartOutcome → State → State := fun o u =>
      { u with image := { u.image with op := some { op with page := none, carry := [] }, toReport := o } }
    let ended : OpResult → State → State := fun res u =>
      let v := left res (u.bank op.bank)
      match op.op with
      | .load => State.notify
          { freed (u.setBank op.bank v) with image := { u.image with op := none } } (.opDone .load op.bank v.revision res)
      | .verifyImage => State.notify
          { freed u with image := { u.image with op := none } } (.opDone .verifyImage op.bank op.revision res)
      | .startLoad =>
        if res = .ok then check 0 (reports u.image.toReport (freed (u.setBank op.bank v)))
        else check 2 (reports (some (if res = .blankStore then .blankStore else .imageCorrupt))
          (freed (u.setBank op.bank v)))
      | .save => u
    (¬marked → exec (.pageReadCompletion r) s = .next (ended .blankStore s))
    ∧ (marked → ¬agrees →
      (op.attempts < op.retries →
        exec (.pageReadCompletion r) s = .next (go s { op with attempts := op.attempts + 1 }))
      ∧ (op.retries ≤ op.attempts → exec (.pageReadCompletion r) s = .next (ended .imageCorrupt s)))
    ∧ (p = 0 → marked → agrees →
      (word 8 = 17408 ∧ (bytes.getD 10 0x00#8).toNat = 70 →
        exec (.pageReadCompletion r) s = .next (go s { op with page := some 1, attempts := 0, carry := [] }))
      ∧ (¬(word 8 = 17408 ∧ (bytes.getD 10 0x00#8).toNat = 70) →
        exec (.pageReadCompletion r) s = .next (ended .imageCorrupt s)))
    ∧ (0 < p → agrees →
      let data := op.carry ++ bytes.take (if p = 69 then 136 else 254)
      let records := splitRecords data.length (recordsWithin ((p - 1) * 254)) data
      let after : State → State := fun u =>
        if p < 69 then go u { op with page := some (p + 1), attempts := 0, carry := records.2 } else ended .ok u
      (op.op = .verifyImage → exec (.pageReadCompletion r) s = .next
        (match (s.bank op.bank).compareRecords records.1 with | some res => ended res s | none => after s))
      ∧ (op.op ≠ .verifyImage →
        let out := (s.bank op.bank).loadRecords records.1
        exec (.pageReadCompletion r) s = .next
          (match out.2 with
            | some res => ended res (s.setBank op.bank out.1)
            | none => after (s.setBank op.bank out.1))))

/-- R179: SAVE IMAGE writes page 0 with an invalidated header, pages 1 to 69 with the record stream, and page 0 again with
the header; the last write releases the read-hold, makes the controller READY and offers OP_DONE. No other page
changes. -/
def Obligations.PageWritesFollowTheSaveOrder : Prop :=
  ∀ (s : State) (op : ImageOp) (p : Nat), s.image.op = some op → op.op = .save → op.page = some p → p ≤ 69 →
    let page : List Byte → List Byte := fun data =>
      let full := data ++ List.replicate (254 - data.length) 0x00#8
      full ++ byte2 ((full.map BitVec.toNat).sum % 65536)
    let go : List Byte → ImageOp → State := fun bytes o =>
      { s.setFlashPage p bytes with image := { s.image with op := some o } }
    (0 < p → op.finalHeader = false →
      let bytes := page (((s.bank op.bank).stream.drop ((p - 1) * 254)).take 254)
      exec .pageWriteCompletion s = .next (go bytes
        (if p < 69 then { op with page := some (p + 1) } else { op with page := some 0, finalHeader := true })))
    ∧ (p = 0 → op.finalHeader = false →
      exec .pageWriteCompletion s = .next (go (page []) { op with page := some 1 }))
    ∧ (p = 0 → op.finalHeader = true →
      exec .pageWriteCompletion s = .next (State.notify
        { (s.setFlashPage 0 (page (byte2 0x47D2 ++ byte2 op.revision.toNat ++ byte4 op.seconds.toNat ++ byte2 17408
              ++ byte1 70))).setHold op.bank ⟨(s.hold op.bank).mapEngine, none⟩ with
          image := { s.image with op := none } }
        (.opDone .save op.bank op.revision .ok)))

/-- R184: the image and the write commands decode what the image and the reads encode: a record of the stream that the
local checks admit decodes to itself. -/
def Obligations.RecordsDecodeToThemselves : Prop :=
  (∀ (i : Nat) (e : Entry), i < 1536 →
    (match e with
      | .idle => True
      | .source w n _ | .follow w n _ => i % w.toNat = 0 ∧ n < 1536 ∧ n % w.toNat = 0
      | .group w g _ => i % w.toNat = 0 ∧ g < 256) →
    decodeRecord i (entryBytes e) = some (.entry i e))
  ∧ (∀ (i : Nat) (p : Option Profile), i < 1536 →
    (∀ q, p = some q → i % q.width.toNat = 0 ∧ q.threshold ≤ 4095) →
    decodeRecord (1536 + i) (profileBytes p) = some (.profile i p))
  ∧ (∀ (i : Nat) (g : Option GroupDef), i < 256 →
    (∀ d, g = some d → d.working < 1536 ∧ d.working % d.width.toNat = 0 ∧ d.protect < 1536
      ∧ d.protect % d.width.toNat = 0 ∧ d.holdOff ≤ 100 ∧ 1 ≤ d.restoreWait ∧ d.restoreWait ≤ 72) →
    decodeRecord (3072 + i) (groupBytes g) = some (.group i g))

/-- R182: RESET_LINE gives every block its reset values and begins start-up; a link whose select is low is SKIPPING. The
flash keeps its pages, but for the page of a write that the reset cuts, whose 256 bytes are free; a cut page 0 is never a
header that passes (R179). The commands that wait and the count of free choices are the model's own. -/
def Obligations.ResetLineBeginsStartUp : Prop :=
  ∀ (s : State) (a b : Bool),
    let link : Bool → LinkState := fun low =>
      { LinkState.reset with decoder := if low then .skipping else .quiet }
    let base : State := { State.reset with
      pending := s.pending, flash := s.flash, choices := s.choices, linkA := link a, linkB := link b }
    ((∀ op, s.image.op = some op → op.op ≠ .save ∨ op.page = none) → exec (.resetLine a b) s = .next base)
    ∧ ∀ op p, s.image.op = some op → op.op = .save → op.page = some p →
      ∃ bytes : List Byte, bytes.length = 256
        ∧ (p = 0 → ¬(argPair bytes 0 = 0x47D2 ∧ ((bytes.take 254).map BitVec.toNat).sum % 65536 = argPair bytes 254
          ∧ argPair bytes 8 = 17408 ∧ argByte bytes 10 = 70))
        ∧ exec (.resetLine a b) s = .next { base.setFlashPage p bytes with choices := s.choices + 1 }

/-! ### Invariants that every step keeps -/

/-- Every table of the state keeps its canonical form, so that equal tables are equal data. -/
def Obligations.EveryStepKeepsTablesCanonical : Prop :=
  ∀ s t : State, s.Canonical → step s = .next t → t.Canonical

/-- R77, R89, R88: holds stand exactly for the operations in progress, and a write-held bank is neither the active bank nor
held by any other operation. -/
def Obligations.EveryStepKeepsTheHoldLaw : Prop :=
  ∀ s t : State, s.HoldsOk → step s = .next t → t.HoldsOk

/-- R89, R19, R129, R130, R98: the active and the pending bank satisfy C1 to C6, no bank holds a record outside the index
range of its table, the stores and groups follow the active bank, and every content record carries the bytes its code
states; and unless the reset line is asserted, no step changes a record or the revision of the active bank. -/
def Obligations.EveryStepKeepsTheActiveBankSound : Prop :=
  ∀ s t : State, s.HoldsOk → s.BanksRanged → s.Consistent → s.FollowsBank → s.FrameCounts → step s = .next t →
    t.BanksRanged ∧ t.Consistent ∧ t.FollowsBank ∧ t.FrameCounts
      ∧ ((∀ a b rest, s.pending ≠ .resetLine a b :: rest) → ∀ k, s.active = some k → t.bank k = s.bank k)

/-- R18, R112: LINE_ABSENT and FRAME_LOST agree with the LIFs, and the raw condition held of every source is the one its
levels and its line's levels give. -/
def Obligations.EveryStepKeepsConditionsDerived : Prop :=
  ∀ s t : State, s.MonitorAgrees → step s = .next t → t.MonitorAgrees

/-- R19, R41, R42, R132, R169, R172, R179: every step keeps the stores, the request lists, the notice queues, the site time
and the windows within their ranges, each alert line at the value R172 gives it, and between the two header writes of SAVE
IMAGE an invalidated header in page 0. -/
def Obligations.EveryStepKeepsRecordsBounded : Prop :=
  ∀ s t : State, s.RecordsBounded → step s = .next t → t.RecordsBounded

/-- The state after reset satisfies every invariant. -/
def Obligations.ResetSatisfiesTheInvariants : Prop :=
  State.reset.Canonical ∧ State.reset.HoldsOk ∧ State.reset.BanksRanged ∧ State.reset.Consistent ∧ State.reset.FollowsBank
    ∧ State.reset.FrameCounts ∧ State.reset.MonitorAgrees ∧ State.reset.RecordsBounded
end

