-- ==== Sys2Proof/Laws/Table.lean ====
section
/-! SUPPORT. The laws of sparse tables: reading after writing, and that every operation keeps the canonical form. -/

namespace Sys2Proof.Machine

section Lists

variable {α : Type}

theorem findKey_dropKey (k m : Nat) (l : List (Nat × α)) :
    findKey (dropKey k l) m = if m = k then none else findKey l m := by
  induction l with
  | nil => simp [dropKey, findKey]
  | cons p rest ih =>
    obtain ⟨k', v⟩ := p
    by_cases h : k' = k
    · subst h
      have : dropKey k' ((k', v) :: rest) = dropKey k' rest := by simp [dropKey]
      rw [this, ih]
      by_cases hm : m = k' <;> simp [findKey, hm]
    · have : dropKey k ((k', v) :: rest) = (k', v) :: dropKey k rest := by simp [dropKey, h]
      rw [this]
      simp only [findKey, ih]
      by_cases hm : m = k'
      · subst hm; simp [h]
      · simp [hm]

theorem findKey_insertKey (k m : Nat) (v : α) (l : List (Nat × α)) :
    findKey (insertKey k v (dropKey k l)) m = if m = k then some v else findKey l m := by
  have key : ∀ l : List (Nat × α), findKey l k = none →
      findKey (insertKey k v l) m = if m = k then some v else findKey l m := by
    intro l hl
    induction l with
    | nil => simp [insertKey, findKey]
    | cons p rest ih =>
      obtain ⟨k', v'⟩ := p
      have hk : k ≠ k' := by
        intro h; simp [findKey, h] at hl
      have hr : findKey rest k = none := by simpa [findKey, hk] using hl
      by_cases hlt : k < k'
      · simp [insertKey, hlt, findKey]
      · simp only [insertKey, hlt, if_false, findKey, ih hr]
        by_cases hm : m = k'
        · subst hm; simp [Ne.symm hk]
        · simp [hm]
  rw [key _ (by simp [findKey_dropKey])]
  by_cases hm : m = k <;> simp [hm, findKey_dropKey]

theorem risingKeys_dropKey (k : Nat) (l : List (Nat × α)) (h : risingKeys l = true) :
    risingKeys (dropKey k l) = true := by
  induction l with
  | nil => rfl
  | cons p rest ih =>
    obtain ⟨k', v⟩ := p
    simp only [risingKeys, Bool.and_eq_true, List.all_eq_true, decide_eq_true_eq] at h
    by_cases hk : k' = k
    · have : dropKey k ((k', v) :: rest) = dropKey k rest := by simp [dropKey, hk]
      rw [this]; exact ih h.2
    · have : dropKey k ((k', v) :: rest) = (k', v) :: dropKey k rest := by simp [dropKey, hk]
      rw [this]
      simp only [risingKeys, Bool.and_eq_true, List.all_eq_true, decide_eq_true_eq]
      exact ⟨fun p hp => h.1 p (List.mem_of_mem_filter hp), ih h.2⟩

theorem mem_insertKey {k : Nat} {v : α} {l : List (Nat × α)} {p : Nat × α} (h : p ∈ insertKey k v l) :
    p = (k, v) ∨ p ∈ l := by
  induction l with
  | nil => simpa [insertKey] using h
  | cons q rest ih =>
    obtain ⟨k', v'⟩ := q
    simp only [insertKey] at h
    split at h
    · rcases List.mem_cons.mp h with h | h
      · exact .inl h
      · exact .inr h
    · rcases List.mem_cons.mp h with h | h
      · exact .inr (List.mem_cons.mpr (.inl h))
      · rcases ih h with h | h
        · exact .inl h
        · exact .inr (List.mem_cons.mpr (.inr h))

theorem risingKeys_insertKey (k : Nat) (v : α) (l : List (Nat × α)) (h : risingKeys l = true)
    (hk : ∀ p ∈ l, p.1 ≠ k) : risingKeys (insertKey k v l) = true := by
  induction l with
  | nil => rfl
  | cons q rest ih =>
    obtain ⟨k', v'⟩ := q
    have hq := hk (k', v') (List.mem_cons_self ..)
    have hr := h
    simp only [risingKeys, Bool.and_eq_true, List.all_eq_true, decide_eq_true_eq] at h
    simp only [insertKey]
    split
    · rename_i hlt
      show ((List.all _ _) && risingKeys ((k', v') :: rest)) = true
      rw [hr, Bool.and_true, List.all_eq_true]
      intro p hp
      rcases List.mem_cons.mp hp with hp | hp
      · subst hp; simpa using hlt
      · have := h.1 p hp; simp; omega
    · rename_i hlt
      simp only [risingKeys, Bool.and_eq_true, List.all_eq_true, decide_eq_true_eq]
      refine ⟨?_, ih h.2 (fun p hp => hk p (List.mem_cons_of_mem _ hp))⟩
      intro p hp
      rcases mem_insertKey hp with hp | hp
      · subst hp; simp only at hq ⊢; omega
      · exact h.1 p hp

theorem ne_of_mem_dropKey {k : Nat} {l : List (Nat × α)} {p : Nat × α} (h : p ∈ dropKey k l) : p.1 ≠ k := by
  have := (List.mem_filter.mp h).2
  simpa using this

theorem mem_of_mem_dropKey {k : Nat} {l : List (Nat × α)} {p : Nat × α} (h : p ∈ dropKey k l) : p ∈ l :=
  List.mem_of_mem_filter h

theorem mem_keys_of_findKey {l : List (Nat × α)} {k : Nat} {v : α} (h : findKey l k = some v) : (k, v) ∈ l := by
  induction l with
  | nil => simp [findKey] at h
  | cons p rest ih =>
    obtain ⟨k', v'⟩ := p
    by_cases hk : k = k'
    · subst hk
      have hv : v' = v := by simpa [findKey] using h
      subst hv
      exact List.mem_cons_self ..
    · exact List.mem_cons_of_mem _ (ih (by simpa [findKey, hk] using h))

theorem findKey_of_mem {l : List (Nat × α)} (hl : risingKeys l = true) {k : Nat} {v : α} (h : (k, v) ∈ l) :
    findKey l k = some v := by
  induction l with
  | nil => simp at h
  | cons p rest ih =>
    obtain ⟨k', v'⟩ := p
    simp only [risingKeys, Bool.and_eq_true, List.all_eq_true, decide_eq_true_eq] at hl
    rcases List.mem_cons.mp h with h | h
    · cases h; simp [findKey]
    · have := hl.1 _ h
      simp only at this
      rw [findKey, if_neg (by omega)]
      exact ih hl.2 h

end Lists

section Tables

variable {α : Type} [DecidableEq α]

omit [DecidableEq α] in
@[simp] theorem Table.get_empty (d : α) (k : Nat) : Table.get d (Table.empty : Table α) k = d := rfl

/-- A read after a write: the value written at its key, the old record elsewhere. -/
theorem Table.get_set (d : α) (t : Table α) (k : Nat) (v : α) (m : Nat) :
    Table.get d (Table.set d t k v) m = if m = k then v else Table.get d t m := by
  unfold Table.get Table.set
  by_cases hv : v = d
  · subst hv
    simp only [if_pos, findKey_dropKey]
    by_cases hm : m = k <;> simp [hm]
  · simp only [if_neg hv, findKey_insertKey]
    by_cases hm : m = k <;> simp [hm]

@[simp] theorem Table.get_set_self (d : α) (t : Table α) (k : Nat) (v : α) :
    Table.get d (Table.set d t k v) k = v := by simp [Table.get_set]

omit [DecidableEq α] in
/-- A key that is not listed reads as the reset value. -/
theorem Table.get_of_not_mem (d : α) (t : Table α) (k : Nat) (h : k ∉ t.keys) : t.get d k = d := by
  unfold Table.get
  cases hf : findKey t.entries k with
  | none => rfl
  | some v => exact absurd (List.mem_map.mpr ⟨_, mem_keys_of_findKey hf, rfl⟩) h

omit [DecidableEq α] in
/-- A record that differs from the reset value is listed. -/
theorem Table.mem_keys_of_get_ne (d : α) (t : Table α) (k : Nat) (h : t.get d k ≠ d) : k ∈ t.keys := by
  by_contra hk
  exact h (Table.get_of_not_mem d t k hk)

theorem Table.get_foldl_set (d : α) (ks : List Nat) (g : Nat → α) (t : Table α) (m : Nat) :
    (ks.foldl (fun acc k => Table.set d acc k (g k)) t).get d m = if m ∈ ks then g m else t.get d m := by
  induction ks generalizing t with
  | nil => simp
  | cons k rest ih =>
    rw [List.foldl_cons, ih, Table.get_set]
    by_cases h1 : m ∈ rest
    · simp [h1]
    · by_cases h2 : m = k
      · subst h2; simp
      · simp [h1, h2]

/-- What `update` leaves: the new record at the keys of the list, computed from the record before; the old one
elsewhere. -/
theorem Table.get_update (d : α) (t : Table α) (ks : List Nat) (f : Nat → α → α) (m : Nat) :
    (t.update d ks f).get d m = if m ∈ ks then f m (t.get d m) else t.get d m :=
  Table.get_foldl_set d ks (fun k => f k (t.get d k)) t m

/-- What `mapAll` leaves, for a function that keeps the reset value. -/
theorem Table.get_mapAll (d : α) (t : Table α) (f : Nat → α → α) (hf : ∀ k, f k d = d) (m : Nat) :
    (t.mapAll d f).get d m = f m (t.get d m) := by
  unfold Table.mapAll
  rw [Table.get_update]
  by_cases h : m ∈ t.keys
  · simp [h]
  · rw [if_neg h, Table.get_of_not_mem d t m h, hf]

@[simp] theorem Table.wf_empty (d : α) : (Table.empty : Table α).wf d = true := rfl

/-- A write keeps the canonical form. -/
theorem Table.wf_set (d : α) (t : Table α) (k : Nat) (v : α) (h : t.wf d = true) : (t.set d k v).wf d = true := by
  simp only [Table.wf, Bool.and_eq_true, List.all_eq_true] at h ⊢
  unfold Table.set
  by_cases hv : v = d
  · simp only [if_pos hv]
    exact ⟨risingKeys_dropKey _ _ h.1, fun p hp => h.2 p (mem_of_mem_dropKey hp)⟩
  · simp only [if_neg hv]
    refine ⟨risingKeys_insertKey _ _ _ (risingKeys_dropKey _ _ h.1) (fun p hp => ne_of_mem_dropKey hp), ?_⟩
    intro p hp
    rcases mem_insertKey hp with hp | hp
    · subst hp; simpa using hv
    · exact h.2 p (mem_of_mem_dropKey hp)

/-- `update` keeps the canonical form. -/
theorem Table.wf_update (d : α) (t : Table α) (ks : List Nat) (f : Nat → α → α) (h : t.wf d = true) :
    (t.update d ks f).wf d = true := by
  unfold Table.update
  generalize (fun k => f k (Table.get d t k)) = g
  have : ∀ acc : Table α, acc.wf d = true →
      (ks.foldl (fun acc k => Table.set d acc k (f k (Table.get d t k))) acc).wf d = true := by
    induction ks with
    | nil => exact fun acc ha => ha
    | cons k rest ih => exact fun acc ha => ih _ (Table.wf_set d acc k _ ha)
  exact this t h

/-- `mapAll` keeps the canonical form. -/
theorem Table.wf_mapAll (d : α) (t : Table α) (f : Nat → α → α) (h : t.wf d = true) : (t.mapAll d f).wf d = true :=
  Table.wf_update d t t.keys f h

/-- In a canonical table a key is listed exactly when its record differs from the reset value. -/
theorem Table.mem_keys (d : α) (t : Table α) (h : t.wf d = true) (k : Nat) : k ∈ t.keys ↔ t.get d k ≠ d := by
  refine ⟨fun hk => ?_, Table.mem_keys_of_get_ne d t k⟩
  simp only [Table.wf, Bool.and_eq_true, List.all_eq_true] at h
  obtain ⟨p, hp, rfl⟩ := List.mem_map.mp hk
  have hv := h.2 p hp
  have : findKey t.entries p.1 = some p.2 := findKey_of_mem h.1 hp
  simpa [Table.get, this] using hv

omit [DecidableEq α] in
theorem risingKeys_keys_nodup (l : List (Nat × α)) (h : risingKeys l = true) : (l.map (·.1)).Nodup := by
  induction l with
  | nil => simp
  | cons p rest ih =>
    obtain ⟨k, v⟩ := p
    simp only [risingKeys, Bool.and_eq_true, List.all_eq_true, decide_eq_true_eq] at h
    rw [List.map_cons, List.nodup_cons]
    refine ⟨?_, ih h.2⟩
    intro hk
    obtain ⟨q, hq, hqk⟩ := List.mem_map.mp hk
    have := h.1 q hq
    simp only at hqk this
    omega

/-- The keys of a canonical table are listed once each. -/
theorem Table.keys_nodup (d : α) (t : Table α) (h : t.wf d = true) : t.keys.Nodup := by
  simp only [Table.wf, Bool.and_eq_true] at h
  exact risingKeys_keys_nodup _ h.1

end Tables

end Sys2Proof.Machine
end

