-- ==== Sys2Proof/Laws/State.lean ====
section
/-! SUPPORT. One lemma for each field of `State` under each writer: what a writer changes and what it leaves. Later
proofs cite these and unfold no record update. -/

namespace Sys2Proof.Machine

/-! ### `State.setLif` -/

@[simp] theorem State.setLif_pending (s : State) (k : Nat) (v : Lif) : (s.setLif k v).pending = s.pending := rfl
@[simp] theorem State.setLif_lifs (s : State) (k : Nat) (v : Lif) :
    (s.setLif k v).lifs = s.lifs.set Lif.reset k v := rfl
@[simp] theorem State.setLif_slots (s : State) (k : Nat) (v : Lif) : (s.setLif k v).slots = s.slots := rfl
@[simp] theorem State.setLif_sentParity (s : State) (k : Nat) (v : Lif) :
    (s.setLif k v).sentParity = s.sentParity := rfl
@[simp] theorem State.setLif_time (s : State) (k : Nat) (v : Lif) : (s.setLif k v).time = s.time := rfl
@[simp] theorem State.setLif_stores (s : State) (k : Nat) (v : Lif) : (s.setLif k v).stores = s.stores := rfl
@[simp] theorem State.setLif_rate (s : State) (k : Nat) (v : Lif) : (s.setLif k v).rate = s.rate := rfl
@[simp] theorem State.setLif_rates (s : State) (k : Nat) (v : Lif) : (s.setLif k v).rates = s.rates := rfl
@[simp] theorem State.setLif_banks (s : State) (k : Nat) (v : Lif) : (s.setLif k v).banks = s.banks := rfl
@[simp] theorem State.setLif_holds (s : State) (k : Nat) (v : Lif) : (s.setLif k v).holds = s.holds := rfl
@[simp] theorem State.setLif_active (s : State) (k : Nat) (v : Lif) : (s.setLif k v).active = s.active := rfl
@[simp] theorem State.setLif_pendingAct (s : State) (k : Nat) (v : Lif) :
    (s.setLif k v).pendingAct = s.pendingAct := rfl
@[simp] theorem State.setLif_mapEngine (s : State) (k : Nat) (v : Lif) : (s.setLif k v).mapEngine = s.mapEngine := rfl
@[simp] theorem State.setLif_egress (s : State) (k : Nat) (v : Lif) : (s.setLif k v).egress = s.egress := rfl
@[simp] theorem State.setLif_ended (s : State) (k : Nat) (v : Lif) : (s.setLif k v).ended = s.ended := rfl
@[simp] theorem State.setLif_lineDefects (s : State) (k : Nat) (v : Lif) :
    (s.setLif k v).lineDefects = s.lineDefects := rfl
@[simp] theorem State.setLif_defects (s : State) (k : Nat) (v : Lif) : (s.setLif k v).defects = s.defects := rfl
@[simp] theorem State.setLif_watches (s : State) (k : Nat) (v : Lif) : (s.setLif k v).watches = s.watches := rfl
@[simp] theorem State.setLif_patterns (s : State) (k : Nat) (v : Lif) : (s.setLif k v).patterns = s.patterns := rfl
@[simp] theorem State.setLif_groups (s : State) (k : Nat) (v : Lif) : (s.setLif k v).groups = s.groups := rfl
@[simp] theorem State.setLif_linkA (s : State) (k : Nat) (v : Lif) : (s.setLif k v).linkA = s.linkA := rfl
@[simp] theorem State.setLif_linkB (s : State) (k : Nat) (v : Lif) : (s.setLif k v).linkB = s.linkB := rfl
@[simp] theorem State.setLif_image (s : State) (k : Nat) (v : Lif) : (s.setLif k v).image = s.image := rfl
@[simp] theorem State.setLif_flash (s : State) (k : Nat) (v : Lif) : (s.setLif k v).flash = s.flash := rfl
@[simp] theorem State.setLif_choices (s : State) (k : Nat) (v : Lif) : (s.setLif k v).choices = s.choices := rfl
theorem State.setLif_lif (s : State) (k : Nat) (v : Lif) (m : Nat) :
    (s.setLif k v).lif m = if m = k then v else s.lif m := Table.get_set _ _ _ _ _
@[simp] theorem State.setLif_lif_self (s : State) (k : Nat) (v : Lif) : (s.setLif k v).lif k = v := by
  simp [State.setLif_lif]
@[simp] theorem State.setLif_slot (s : State) (k : Nat) (v : Lif) (m : Nat) : (s.setLif k v).slot m = s.slot m := rfl
@[simp] theorem State.setLif_store (s : State) (k : Nat) (v : Lif) (m : Nat) : (s.setLif k v).store m = s.store m := rfl
@[simp] theorem State.setLif_rateOf (s : State) (k : Nat) (v : Lif) (m : Nat) :
    (s.setLif k v).rateOf m = s.rateOf m := rfl
@[simp] theorem State.setLif_bank (s : State) (k : Nat) (v : Lif) (m : BankNo) : (s.setLif k v).bank m = s.bank m := rfl
@[simp] theorem State.setLif_hold (s : State) (k : Nat) (v : Lif) (m : BankNo) : (s.setLif k v).hold m = s.hold m := rfl
@[simp] theorem State.setLif_lineDefect (s : State) (k : Nat) (v : Lif) (m : Nat) :
    (s.setLif k v).lineDefect m = s.lineDefect m := rfl
@[simp] theorem State.setLif_defect (s : State) (k : Nat) (v : Lif) (m : Nat) :
    (s.setLif k v).defect m = s.defect m := rfl
@[simp] theorem State.setLif_watch (s : State) (k : Nat) (v : Lif) (m : Nat) : (s.setLif k v).watch m = s.watch m := rfl
@[simp] theorem State.setLif_pattern (s : State) (k : Nat) (v : Lif) (m : Nat) :
    (s.setLif k v).pattern m = s.pattern m := rfl
@[simp] theorem State.setLif_group (s : State) (k : Nat) (v : Lif) (m : Nat) : (s.setLif k v).group m = s.group m := rfl
@[simp] theorem State.setLif_flashPage (s : State) (k : Nat) (v : Lif) (m : Nat) :
    (s.setLif k v).flashPage m = s.flashPage m := rfl
@[simp] theorem State.setLif_sent (s : State) (k : Nat) (v : Lif) (m : Nat) : (s.setLif k v).sent m = s.sent m := rfl
@[simp] theorem State.setLif_link (s : State) (k : Nat) (v : Lif) (x : Link) : (s.setLif k v).link x = s.link x := by
  cases x <;> rfl

/-! ### `State.setSlot` -/

@[simp] theorem State.setSlot_pending (s : State) (k : Nat) (v : Slot) : (s.setSlot k v).pending = s.pending := rfl
@[simp] theorem State.setSlot_lifs (s : State) (k : Nat) (v : Slot) : (s.setSlot k v).lifs = s.lifs := rfl
@[simp] theorem State.setSlot_slots (s : State) (k : Nat) (v : Slot) :
    (s.setSlot k v).slots = s.slots.set Slot.reset k v := rfl
@[simp] theorem State.setSlot_sentParity (s : State) (k : Nat) (v : Slot) :
    (s.setSlot k v).sentParity = s.sentParity := rfl
@[simp] theorem State.setSlot_time (s : State) (k : Nat) (v : Slot) : (s.setSlot k v).time = s.time := rfl
@[simp] theorem State.setSlot_stores (s : State) (k : Nat) (v : Slot) : (s.setSlot k v).stores = s.stores := rfl
@[simp] theorem State.setSlot_rate (s : State) (k : Nat) (v : Slot) : (s.setSlot k v).rate = s.rate := rfl
@[simp] theorem State.setSlot_rates (s : State) (k : Nat) (v : Slot) : (s.setSlot k v).rates = s.rates := rfl
@[simp] theorem State.setSlot_banks (s : State) (k : Nat) (v : Slot) : (s.setSlot k v).banks = s.banks := rfl
@[simp] theorem State.setSlot_holds (s : State) (k : Nat) (v : Slot) : (s.setSlot k v).holds = s.holds := rfl
@[simp] theorem State.setSlot_active (s : State) (k : Nat) (v : Slot) : (s.setSlot k v).active = s.active := rfl
@[simp] theorem State.setSlot_pendingAct (s : State) (k : Nat) (v : Slot) :
    (s.setSlot k v).pendingAct = s.pendingAct := rfl
@[simp] theorem State.setSlot_mapEngine (s : State) (k : Nat) (v : Slot) :
    (s.setSlot k v).mapEngine = s.mapEngine := rfl
@[simp] theorem State.setSlot_egress (s : State) (k : Nat) (v : Slot) : (s.setSlot k v).egress = s.egress := rfl
@[simp] theorem State.setSlot_ended (s : State) (k : Nat) (v : Slot) : (s.setSlot k v).ended = s.ended := rfl
@[simp] theorem State.setSlot_lineDefects (s : State) (k : Nat) (v : Slot) :
    (s.setSlot k v).lineDefects = s.lineDefects := rfl
@[simp] theorem State.setSlot_defects (s : State) (k : Nat) (v : Slot) : (s.setSlot k v).defects = s.defects := rfl
@[simp] theorem State.setSlot_watches (s : State) (k : Nat) (v : Slot) : (s.setSlot k v).watches = s.watches := rfl
@[simp] theorem State.setSlot_patterns (s : State) (k : Nat) (v : Slot) : (s.setSlot k v).patterns = s.patterns := rfl
@[simp] theorem State.setSlot_groups (s : State) (k : Nat) (v : Slot) : (s.setSlot k v).groups = s.groups := rfl
@[simp] theorem State.setSlot_linkA (s : State) (k : Nat) (v : Slot) : (s.setSlot k v).linkA = s.linkA := rfl
@[simp] theorem State.setSlot_linkB (s : State) (k : Nat) (v : Slot) : (s.setSlot k v).linkB = s.linkB := rfl
@[simp] theorem State.setSlot_image (s : State) (k : Nat) (v : Slot) : (s.setSlot k v).image = s.image := rfl
@[simp] theorem State.setSlot_flash (s : State) (k : Nat) (v : Slot) : (s.setSlot k v).flash = s.flash := rfl
@[simp] theorem State.setSlot_choices (s : State) (k : Nat) (v : Slot) : (s.setSlot k v).choices = s.choices := rfl
@[simp] theorem State.setSlot_lif (s : State) (k : Nat) (v : Slot) (m : Nat) : (s.setSlot k v).lif m = s.lif m := rfl
theorem State.setSlot_slot (s : State) (k : Nat) (v : Slot) (m : Nat) :
    (s.setSlot k v).slot m = if m = k then v else s.slot m := Table.get_set _ _ _ _ _
@[simp] theorem State.setSlot_slot_self (s : State) (k : Nat) (v : Slot) : (s.setSlot k v).slot k = v := by
  simp [State.setSlot_slot]
@[simp] theorem State.setSlot_store (s : State) (k : Nat) (v : Slot) (m : Nat) :
    (s.setSlot k v).store m = s.store m := rfl
@[simp] theorem State.setSlot_rateOf (s : State) (k : Nat) (v : Slot) (m : Nat) :
    (s.setSlot k v).rateOf m = s.rateOf m := rfl
@[simp] theorem State.setSlot_bank (s : State) (k : Nat) (v : Slot) (m : BankNo) :
    (s.setSlot k v).bank m = s.bank m := rfl
@[simp] theorem State.setSlot_hold (s : State) (k : Nat) (v : Slot) (m : BankNo) :
    (s.setSlot k v).hold m = s.hold m := rfl
@[simp] theorem State.setSlot_lineDefect (s : State) (k : Nat) (v : Slot) (m : Nat) :
    (s.setSlot k v).lineDefect m = s.lineDefect m := rfl
@[simp] theorem State.setSlot_defect (s : State) (k : Nat) (v : Slot) (m : Nat) :
    (s.setSlot k v).defect m = s.defect m := rfl
@[simp] theorem State.setSlot_watch (s : State) (k : Nat) (v : Slot) (m : Nat) :
    (s.setSlot k v).watch m = s.watch m := rfl
@[simp] theorem State.setSlot_pattern (s : State) (k : Nat) (v : Slot) (m : Nat) :
    (s.setSlot k v).pattern m = s.pattern m := rfl
@[simp] theorem State.setSlot_group (s : State) (k : Nat) (v : Slot) (m : Nat) :
    (s.setSlot k v).group m = s.group m := rfl
@[simp] theorem State.setSlot_flashPage (s : State) (k : Nat) (v : Slot) (m : Nat) :
    (s.setSlot k v).flashPage m = s.flashPage m := rfl
@[simp] theorem State.setSlot_sent (s : State) (k : Nat) (v : Slot) (m : Nat) : (s.setSlot k v).sent m = s.sent m := rfl
@[simp] theorem State.setSlot_link (s : State) (k : Nat) (v : Slot) (x : Link) : (s.setSlot k v).link x = s.link x := by
  cases x <;> rfl

/-! ### `State.setStore` -/

@[simp] theorem State.setStore_pending (s : State) (k : Nat) (v : Store) : (s.setStore k v).pending = s.pending := rfl
@[simp] theorem State.setStore_lifs (s : State) (k : Nat) (v : Store) : (s.setStore k v).lifs = s.lifs := rfl
@[simp] theorem State.setStore_slots (s : State) (k : Nat) (v : Store) : (s.setStore k v).slots = s.slots := rfl
@[simp] theorem State.setStore_sentParity (s : State) (k : Nat) (v : Store) :
    (s.setStore k v).sentParity = s.sentParity := rfl
@[simp] theorem State.setStore_time (s : State) (k : Nat) (v : Store) : (s.setStore k v).time = s.time := rfl
@[simp] theorem State.setStore_stores (s : State) (k : Nat) (v : Store) :
    (s.setStore k v).stores = s.stores.set Store.reset k v := rfl
@[simp] theorem State.setStore_rate (s : State) (k : Nat) (v : Store) : (s.setStore k v).rate = s.rate := rfl
@[simp] theorem State.setStore_rates (s : State) (k : Nat) (v : Store) : (s.setStore k v).rates = s.rates := rfl
@[simp] theorem State.setStore_banks (s : State) (k : Nat) (v : Store) : (s.setStore k v).banks = s.banks := rfl
@[simp] theorem State.setStore_holds (s : State) (k : Nat) (v : Store) : (s.setStore k v).holds = s.holds := rfl
@[simp] theorem State.setStore_active (s : State) (k : Nat) (v : Store) : (s.setStore k v).active = s.active := rfl
@[simp] theorem State.setStore_pendingAct (s : State) (k : Nat) (v : Store) :
    (s.setStore k v).pendingAct = s.pendingAct := rfl
@[simp] theorem State.setStore_mapEngine (s : State) (k : Nat) (v : Store) :
    (s.setStore k v).mapEngine = s.mapEngine := rfl
@[simp] theorem State.setStore_egress (s : State) (k : Nat) (v : Store) : (s.setStore k v).egress = s.egress := rfl
@[simp] theorem State.setStore_ended (s : State) (k : Nat) (v : Store) : (s.setStore k v).ended = s.ended := rfl
@[simp] theorem State.setStore_lineDefects (s : State) (k : Nat) (v : Store) :
    (s.setStore k v).lineDefects = s.lineDefects := rfl
@[simp] theorem State.setStore_defects (s : State) (k : Nat) (v : Store) : (s.setStore k v).defects = s.defects := rfl
@[simp] theorem State.setStore_watches (s : State) (k : Nat) (v : Store) : (s.setStore k v).watches = s.watches := rfl
@[simp] theorem State.setStore_patterns (s : State) (k : Nat) (v : Store) :
    (s.setStore k v).patterns = s.patterns := rfl
@[simp] theorem State.setStore_groups (s : State) (k : Nat) (v : Store) : (s.setStore k v).groups = s.groups := rfl
@[simp] theorem State.setStore_linkA (s : State) (k : Nat) (v : Store) : (s.setStore k v).linkA = s.linkA := rfl
@[simp] theorem State.setStore_linkB (s : State) (k : Nat) (v : Store) : (s.setStore k v).linkB = s.linkB := rfl
@[simp] theorem State.setStore_image (s : State) (k : Nat) (v : Store) : (s.setStore k v).image = s.image := rfl
@[simp] theorem State.setStore_flash (s : State) (k : Nat) (v : Store) : (s.setStore k v).flash = s.flash := rfl
@[simp] theorem State.setStore_choices (s : State) (k : Nat) (v : Store) : (s.setStore k v).choices = s.choices := rfl
@[simp] theorem State.setStore_lif (s : State) (k : Nat) (v : Store) (m : Nat) : (s.setStore k v).lif m = s.lif m := rfl
@[simp] theorem State.setStore_slot (s : State) (k : Nat) (v : Store) (m : Nat) :
    (s.setStore k v).slot m = s.slot m := rfl
theorem State.setStore_store (s : State) (k : Nat) (v : Store) (m : Nat) :
    (s.setStore k v).store m = if m = k then v else s.store m := Table.get_set _ _ _ _ _
@[simp] theorem State.setStore_store_self (s : State) (k : Nat) (v : Store) : (s.setStore k v).store k = v := by
  simp [State.setStore_store]
@[simp] theorem State.setStore_rateOf (s : State) (k : Nat) (v : Store) (m : Nat) :
    (s.setStore k v).rateOf m = s.rateOf m := rfl
@[simp] theorem State.setStore_bank (s : State) (k : Nat) (v : Store) (m : BankNo) :
    (s.setStore k v).bank m = s.bank m := rfl
@[simp] theorem State.setStore_hold (s : State) (k : Nat) (v : Store) (m : BankNo) :
    (s.setStore k v).hold m = s.hold m := rfl
@[simp] theorem State.setStore_lineDefect (s : State) (k : Nat) (v : Store) (m : Nat) :
    (s.setStore k v).lineDefect m = s.lineDefect m := rfl
@[simp] theorem State.setStore_defect (s : State) (k : Nat) (v : Store) (m : Nat) :
    (s.setStore k v).defect m = s.defect m := rfl
@[simp] theorem State.setStore_watch (s : State) (k : Nat) (v : Store) (m : Nat) :
    (s.setStore k v).watch m = s.watch m := rfl
@[simp] theorem State.setStore_pattern (s : State) (k : Nat) (v : Store) (m : Nat) :
    (s.setStore k v).pattern m = s.pattern m := rfl
@[simp] theorem State.setStore_group (s : State) (k : Nat) (v : Store) (m : Nat) :
    (s.setStore k v).group m = s.group m := rfl
@[simp] theorem State.setStore_flashPage (s : State) (k : Nat) (v : Store) (m : Nat) :
    (s.setStore k v).flashPage m = s.flashPage m := rfl
@[simp] theorem State.setStore_sent (s : State) (k : Nat) (v : Store) (m : Nat) :
    (s.setStore k v).sent m = s.sent m := rfl
@[simp] theorem State.setStore_link (s : State) (k : Nat) (v : Store) (x : Link) :
    (s.setStore k v).link x = s.link x := by
  cases x <;> rfl

/-! ### `State.setRate` -/

@[simp] theorem State.setRate_pending (s : State) (k : Nat) (v : RateRec) : (s.setRate k v).pending = s.pending := rfl
@[simp] theorem State.setRate_lifs (s : State) (k : Nat) (v : RateRec) : (s.setRate k v).lifs = s.lifs := rfl
@[simp] theorem State.setRate_slots (s : State) (k : Nat) (v : RateRec) : (s.setRate k v).slots = s.slots := rfl
@[simp] theorem State.setRate_sentParity (s : State) (k : Nat) (v : RateRec) :
    (s.setRate k v).sentParity = s.sentParity := rfl
@[simp] theorem State.setRate_time (s : State) (k : Nat) (v : RateRec) : (s.setRate k v).time = s.time := rfl
@[simp] theorem State.setRate_stores (s : State) (k : Nat) (v : RateRec) : (s.setRate k v).stores = s.stores := rfl
@[simp] theorem State.setRate_rate (s : State) (k : Nat) (v : RateRec) : (s.setRate k v).rate = s.rate := rfl
@[simp] theorem State.setRate_rates (s : State) (k : Nat) (v : RateRec) :
    (s.setRate k v).rates = s.rates.set RateRec.reset k v := rfl
@[simp] theorem State.setRate_banks (s : State) (k : Nat) (v : RateRec) : (s.setRate k v).banks = s.banks := rfl
@[simp] theorem State.setRate_holds (s : State) (k : Nat) (v : RateRec) : (s.setRate k v).holds = s.holds := rfl
@[simp] theorem State.setRate_active (s : State) (k : Nat) (v : RateRec) : (s.setRate k v).active = s.active := rfl
@[simp] theorem State.setRate_pendingAct (s : State) (k : Nat) (v : RateRec) :
    (s.setRate k v).pendingAct = s.pendingAct := rfl
@[simp] theorem State.setRate_mapEngine (s : State) (k : Nat) (v : RateRec) :
    (s.setRate k v).mapEngine = s.mapEngine := rfl
@[simp] theorem State.setRate_egress (s : State) (k : Nat) (v : RateRec) : (s.setRate k v).egress = s.egress := rfl
@[simp] theorem State.setRate_ended (s : State) (k : Nat) (v : RateRec) : (s.setRate k v).ended = s.ended := rfl
@[simp] theorem State.setRate_lineDefects (s : State) (k : Nat) (v : RateRec) :
    (s.setRate k v).lineDefects = s.lineDefects := rfl
@[simp] theorem State.setRate_defects (s : State) (k : Nat) (v : RateRec) : (s.setRate k v).defects = s.defects := rfl
@[simp] theorem State.setRate_watches (s : State) (k : Nat) (v : RateRec) : (s.setRate k v).watches = s.watches := rfl
@[simp] theorem State.setRate_patterns (s : State) (k : Nat) (v : RateRec) :
    (s.setRate k v).patterns = s.patterns := rfl
@[simp] theorem State.setRate_groups (s : State) (k : Nat) (v : RateRec) : (s.setRate k v).groups = s.groups := rfl
@[simp] theorem State.setRate_linkA (s : State) (k : Nat) (v : RateRec) : (s.setRate k v).linkA = s.linkA := rfl
@[simp] theorem State.setRate_linkB (s : State) (k : Nat) (v : RateRec) : (s.setRate k v).linkB = s.linkB := rfl
@[simp] theorem State.setRate_image (s : State) (k : Nat) (v : RateRec) : (s.setRate k v).image = s.image := rfl
@[simp] theorem State.setRate_flash (s : State) (k : Nat) (v : RateRec) : (s.setRate k v).flash = s.flash := rfl
@[simp] theorem State.setRate_choices (s : State) (k : Nat) (v : RateRec) : (s.setRate k v).choices = s.choices := rfl
@[simp] theorem State.setRate_lif (s : State) (k : Nat) (v : RateRec) (m : Nat) : (s.setRate k v).lif m = s.lif m := rfl
@[simp] theorem State.setRate_slot (s : State) (k : Nat) (v : RateRec) (m : Nat) :
    (s.setRate k v).slot m = s.slot m := rfl
@[simp] theorem State.setRate_store (s : State) (k : Nat) (v : RateRec) (m : Nat) :
    (s.setRate k v).store m = s.store m := rfl
theorem State.setRate_rateOf (s : State) (k : Nat) (v : RateRec) (m : Nat) :
    (s.setRate k v).rateOf m = if m = k then v else s.rateOf m := Table.get_set _ _ _ _ _
@[simp] theorem State.setRate_rateOf_self (s : State) (k : Nat) (v : RateRec) : (s.setRate k v).rateOf k = v := by
  simp [State.setRate_rateOf]
@[simp] theorem State.setRate_bank (s : State) (k : Nat) (v : RateRec) (m : BankNo) :
    (s.setRate k v).bank m = s.bank m := rfl
@[simp] theorem State.setRate_hold (s : State) (k : Nat) (v : RateRec) (m : BankNo) :
    (s.setRate k v).hold m = s.hold m := rfl
@[simp] theorem State.setRate_lineDefect (s : State) (k : Nat) (v : RateRec) (m : Nat) :
    (s.setRate k v).lineDefect m = s.lineDefect m := rfl
@[simp] theorem State.setRate_defect (s : State) (k : Nat) (v : RateRec) (m : Nat) :
    (s.setRate k v).defect m = s.defect m := rfl
@[simp] theorem State.setRate_watch (s : State) (k : Nat) (v : RateRec) (m : Nat) :
    (s.setRate k v).watch m = s.watch m := rfl
@[simp] theorem State.setRate_pattern (s : State) (k : Nat) (v : RateRec) (m : Nat) :
    (s.setRate k v).pattern m = s.pattern m := rfl
@[simp] theorem State.setRate_group (s : State) (k : Nat) (v : RateRec) (m : Nat) :
    (s.setRate k v).group m = s.group m := rfl
@[simp] theorem State.setRate_flashPage (s : State) (k : Nat) (v : RateRec) (m : Nat) :
    (s.setRate k v).flashPage m = s.flashPage m := rfl
@[simp] theorem State.setRate_sent (s : State) (k : Nat) (v : RateRec) (m : Nat) :
    (s.setRate k v).sent m = s.sent m := rfl
@[simp] theorem State.setRate_link (s : State) (k : Nat) (v : RateRec) (x : Link) :
    (s.setRate k v).link x = s.link x := by
  cases x <;> rfl

/-! ### `State.setBank` -/

@[simp] theorem State.setBank_pending (s : State) (k : BankNo) (v : Bank) : (s.setBank k v).pending = s.pending := rfl
@[simp] theorem State.setBank_lifs (s : State) (k : BankNo) (v : Bank) : (s.setBank k v).lifs = s.lifs := rfl
@[simp] theorem State.setBank_slots (s : State) (k : BankNo) (v : Bank) : (s.setBank k v).slots = s.slots := rfl
@[simp] theorem State.setBank_sentParity (s : State) (k : BankNo) (v : Bank) :
    (s.setBank k v).sentParity = s.sentParity := rfl
@[simp] theorem State.setBank_time (s : State) (k : BankNo) (v : Bank) : (s.setBank k v).time = s.time := rfl
@[simp] theorem State.setBank_stores (s : State) (k : BankNo) (v : Bank) : (s.setBank k v).stores = s.stores := rfl
@[simp] theorem State.setBank_rate (s : State) (k : BankNo) (v : Bank) : (s.setBank k v).rate = s.rate := rfl
@[simp] theorem State.setBank_rates (s : State) (k : BankNo) (v : Bank) : (s.setBank k v).rates = s.rates := rfl
@[simp] theorem State.setBank_banks (s : State) (k : BankNo) (v : Bank) :
    (s.setBank k v).banks = s.banks.set Bank.reset k.val v := rfl
@[simp] theorem State.setBank_holds (s : State) (k : BankNo) (v : Bank) : (s.setBank k v).holds = s.holds := rfl
@[simp] theorem State.setBank_active (s : State) (k : BankNo) (v : Bank) : (s.setBank k v).active = s.active := rfl
@[simp] theorem State.setBank_pendingAct (s : State) (k : BankNo) (v : Bank) :
    (s.setBank k v).pendingAct = s.pendingAct := rfl
@[simp] theorem State.setBank_mapEngine (s : State) (k : BankNo) (v : Bank) :
    (s.setBank k v).mapEngine = s.mapEngine := rfl
@[simp] theorem State.setBank_egress (s : State) (k : BankNo) (v : Bank) : (s.setBank k v).egress = s.egress := rfl
@[simp] theorem State.setBank_ended (s : State) (k : BankNo) (v : Bank) : (s.setBank k v).ended = s.ended := rfl
@[simp] theorem State.setBank_lineDefects (s : State) (k : BankNo) (v : Bank) :
    (s.setBank k v).lineDefects = s.lineDefects := rfl
@[simp] theorem State.setBank_defects (s : State) (k : BankNo) (v : Bank) : (s.setBank k v).defects = s.defects := rfl
@[simp] theorem State.setBank_watches (s : State) (k : BankNo) (v : Bank) : (s.setBank k v).watches = s.watches := rfl
@[simp] theorem State.setBank_patterns (s : State) (k : BankNo) (v : Bank) :
    (s.setBank k v).patterns = s.patterns := rfl
@[simp] theorem State.setBank_groups (s : State) (k : BankNo) (v : Bank) : (s.setBank k v).groups = s.groups := rfl
@[simp] theorem State.setBank_linkA (s : State) (k : BankNo) (v : Bank) : (s.setBank k v).linkA = s.linkA := rfl
@[simp] theorem State.setBank_linkB (s : State) (k : BankNo) (v : Bank) : (s.setBank k v).linkB = s.linkB := rfl
@[simp] theorem State.setBank_image (s : State) (k : BankNo) (v : Bank) : (s.setBank k v).image = s.image := rfl
@[simp] theorem State.setBank_flash (s : State) (k : BankNo) (v : Bank) : (s.setBank k v).flash = s.flash := rfl
@[simp] theorem State.setBank_choices (s : State) (k : BankNo) (v : Bank) : (s.setBank k v).choices = s.choices := rfl
@[simp] theorem State.setBank_lif (s : State) (k : BankNo) (v : Bank) (m : Nat) : (s.setBank k v).lif m = s.lif m := rfl
@[simp] theorem State.setBank_slot (s : State) (k : BankNo) (v : Bank) (m : Nat) :
    (s.setBank k v).slot m = s.slot m := rfl
@[simp] theorem State.setBank_store (s : State) (k : BankNo) (v : Bank) (m : Nat) :
    (s.setBank k v).store m = s.store m := rfl
@[simp] theorem State.setBank_rateOf (s : State) (k : BankNo) (v : Bank) (m : Nat) :
    (s.setBank k v).rateOf m = s.rateOf m := rfl
theorem State.setBank_bank (s : State) (k : BankNo) (v : Bank) (m : BankNo) :
    (s.setBank k v).bank m = if m = k then v else s.bank m := by
  simp only [Fin.ext_iff]
  exact Table.get_set Bank.reset s.banks k.val v m.val
@[simp] theorem State.setBank_bank_self (s : State) (k : BankNo) (v : Bank) : (s.setBank k v).bank k = v := by
  simp [State.setBank_bank]
@[simp] theorem State.setBank_hold (s : State) (k : BankNo) (v : Bank) (m : BankNo) :
    (s.setBank k v).hold m = s.hold m := rfl
@[simp] theorem State.setBank_lineDefect (s : State) (k : BankNo) (v : Bank) (m : Nat) :
    (s.setBank k v).lineDefect m = s.lineDefect m := rfl
@[simp] theorem State.setBank_defect (s : State) (k : BankNo) (v : Bank) (m : Nat) :
    (s.setBank k v).defect m = s.defect m := rfl
@[simp] theorem State.setBank_watch (s : State) (k : BankNo) (v : Bank) (m : Nat) :
    (s.setBank k v).watch m = s.watch m := rfl
@[simp] theorem State.setBank_pattern (s : State) (k : BankNo) (v : Bank) (m : Nat) :
    (s.setBank k v).pattern m = s.pattern m := rfl
@[simp] theorem State.setBank_group (s : State) (k : BankNo) (v : Bank) (m : Nat) :
    (s.setBank k v).group m = s.group m := rfl
@[simp] theorem State.setBank_flashPage (s : State) (k : BankNo) (v : Bank) (m : Nat) :
    (s.setBank k v).flashPage m = s.flashPage m := rfl
@[simp] theorem State.setBank_sent (s : State) (k : BankNo) (v : Bank) (m : Nat) :
    (s.setBank k v).sent m = s.sent m := rfl
@[simp] theorem State.setBank_link (s : State) (k : BankNo) (v : Bank) (x : Link) :
    (s.setBank k v).link x = s.link x := by
  cases x <;> rfl

/-! ### `State.setHold` -/

@[simp] theorem State.setHold_pending (s : State) (k : BankNo) (v : HoldRec) :
    (s.setHold k v).pending = s.pending := rfl
@[simp] theorem State.setHold_lifs (s : State) (k : BankNo) (v : HoldRec) : (s.setHold k v).lifs = s.lifs := rfl
@[simp] theorem State.setHold_slots (s : State) (k : BankNo) (v : HoldRec) : (s.setHold k v).slots = s.slots := rfl
@[simp] theorem State.setHold_sentParity (s : State) (k : BankNo) (v : HoldRec) :
    (s.setHold k v).sentParity = s.sentParity := rfl
@[simp] theorem State.setHold_time (s : State) (k : BankNo) (v : HoldRec) : (s.setHold k v).time = s.time := rfl
@[simp] theorem State.setHold_stores (s : State) (k : BankNo) (v : HoldRec) : (s.setHold k v).stores = s.stores := rfl
@[simp] theorem State.setHold_rate (s : State) (k : BankNo) (v : HoldRec) : (s.setHold k v).rate = s.rate := rfl
@[simp] theorem State.setHold_rates (s : State) (k : BankNo) (v : HoldRec) : (s.setHold k v).rates = s.rates := rfl
@[simp] theorem State.setHold_banks (s : State) (k : BankNo) (v : HoldRec) : (s.setHold k v).banks = s.banks := rfl
@[simp] theorem State.setHold_holds (s : State) (k : BankNo) (v : HoldRec) :
    (s.setHold k v).holds = s.holds.set HoldRec.reset k.val v := rfl
@[simp] theorem State.setHold_active (s : State) (k : BankNo) (v : HoldRec) : (s.setHold k v).active = s.active := rfl
@[simp] theorem State.setHold_pendingAct (s : State) (k : BankNo) (v : HoldRec) :
    (s.setHold k v).pendingAct = s.pendingAct := rfl
@[simp] theorem State.setHold_mapEngine (s : State) (k : BankNo) (v : HoldRec) :
    (s.setHold k v).mapEngine = s.mapEngine := rfl
@[simp] theorem State.setHold_egress (s : State) (k : BankNo) (v : HoldRec) : (s.setHold k v).egress = s.egress := rfl
@[simp] theorem State.setHold_ended (s : State) (k : BankNo) (v : HoldRec) : (s.setHold k v).ended = s.ended := rfl
@[simp] theorem State.setHold_lineDefects (s : State) (k : BankNo) (v : HoldRec) :
    (s.setHold k v).lineDefects = s.lineDefects := rfl
@[simp] theorem State.setHold_defects (s : State) (k : BankNo) (v : HoldRec) :
    (s.setHold k v).defects = s.defects := rfl
@[simp] theorem State.setHold_watches (s : State) (k : BankNo) (v : HoldRec) :
    (s.setHold k v).watches = s.watches := rfl
@[simp] theorem State.setHold_patterns (s : State) (k : BankNo) (v : HoldRec) :
    (s.setHold k v).patterns = s.patterns := rfl
@[simp] theorem State.setHold_groups (s : State) (k : BankNo) (v : HoldRec) : (s.setHold k v).groups = s.groups := rfl
@[simp] theorem State.setHold_linkA (s : State) (k : BankNo) (v : HoldRec) : (s.setHold k v).linkA = s.linkA := rfl
@[simp] theorem State.setHold_linkB (s : State) (k : BankNo) (v : HoldRec) : (s.setHold k v).linkB = s.linkB := rfl
@[simp] theorem State.setHold_image (s : State) (k : BankNo) (v : HoldRec) : (s.setHold k v).image = s.image := rfl
@[simp] theorem State.setHold_flash (s : State) (k : BankNo) (v : HoldRec) : (s.setHold k v).flash = s.flash := rfl
@[simp] theorem State.setHold_choices (s : State) (k : BankNo) (v : HoldRec) :
    (s.setHold k v).choices = s.choices := rfl
@[simp] theorem State.setHold_lif (s : State) (k : BankNo) (v : HoldRec) (m : Nat) :
    (s.setHold k v).lif m = s.lif m := rfl
@[simp] theorem State.setHold_slot (s : State) (k : BankNo) (v : HoldRec) (m : Nat) :
    (s.setHold k v).slot m = s.slot m := rfl
@[simp] theorem State.setHold_store (s : State) (k : BankNo) (v : HoldRec) (m : Nat) :
    (s.setHold k v).store m = s.store m := rfl
@[simp] theorem State.setHold_rateOf (s : State) (k : BankNo) (v : HoldRec) (m : Nat) :
    (s.setHold k v).rateOf m = s.rateOf m := rfl
@[simp] theorem State.setHold_bank (s : State) (k : BankNo) (v : HoldRec) (m : BankNo) :
    (s.setHold k v).bank m = s.bank m := rfl
theorem State.setHold_hold (s : State) (k : BankNo) (v : HoldRec) (m : BankNo) :
    (s.setHold k v).hold m = if m = k then v else s.hold m := by
  simp only [Fin.ext_iff]
  exact Table.get_set HoldRec.reset s.holds k.val v m.val
@[simp] theorem State.setHold_hold_self (s : State) (k : BankNo) (v : HoldRec) : (s.setHold k v).hold k = v := by
  simp [State.setHold_hold]
@[simp] theorem State.setHold_lineDefect (s : State) (k : BankNo) (v : HoldRec) (m : Nat) :
    (s.setHold k v).lineDefect m = s.lineDefect m := rfl
@[simp] theorem State.setHold_defect (s : State) (k : BankNo) (v : HoldRec) (m : Nat) :
    (s.setHold k v).defect m = s.defect m := rfl
@[simp] theorem State.setHold_watch (s : State) (k : BankNo) (v : HoldRec) (m : Nat) :
    (s.setHold k v).watch m = s.watch m := rfl
@[simp] theorem State.setHold_pattern (s : State) (k : BankNo) (v : HoldRec) (m : Nat) :
    (s.setHold k v).pattern m = s.pattern m := rfl
@[simp] theorem State.setHold_group (s : State) (k : BankNo) (v : HoldRec) (m : Nat) :
    (s.setHold k v).group m = s.group m := rfl
@[simp] theorem State.setHold_flashPage (s : State) (k : BankNo) (v : HoldRec) (m : Nat) :
    (s.setHold k v).flashPage m = s.flashPage m := rfl
@[simp] theorem State.setHold_sent (s : State) (k : BankNo) (v : HoldRec) (m : Nat) :
    (s.setHold k v).sent m = s.sent m := rfl
@[simp] theorem State.setHold_link (s : State) (k : BankNo) (v : HoldRec) (x : Link) :
    (s.setHold k v).link x = s.link x := by
  cases x <;> rfl

/-! ### `State.setLineDefect` -/

@[simp] theorem State.setLineDefect_pending (s : State) (k : Nat) (v : LineDefects) :
    (s.setLineDefect k v).pending = s.pending := rfl
@[simp] theorem State.setLineDefect_lifs (s : State) (k : Nat) (v : LineDefects) :
    (s.setLineDefect k v).lifs = s.lifs := rfl
@[simp] theorem State.setLineDefect_slots (s : State) (k : Nat) (v : LineDefects) :
    (s.setLineDefect k v).slots = s.slots := rfl
@[simp] theorem State.setLineDefect_sentParity (s : State) (k : Nat) (v : LineDefects) :
    (s.setLineDefect k v).sentParity = s.sentParity := rfl
@[simp] theorem State.setLineDefect_time (s : State) (k : Nat) (v : LineDefects) :
    (s.setLineDefect k v).time = s.time := rfl
@[simp] theorem State.setLineDefect_stores (s : State) (k : Nat) (v : LineDefects) :
    (s.setLineDefect k v).stores = s.stores := rfl
@[simp] theorem State.setLineDefect_rate (s : State) (k : Nat) (v : LineDefects) :
    (s.setLineDefect k v).rate = s.rate := rfl
@[simp] theorem State.setLineDefect_rates (s : State) (k : Nat) (v : LineDefects) :
    (s.setLineDefect k v).rates = s.rates := rfl
@[simp] theorem State.setLineDefect_banks (s : State) (k : Nat) (v : LineDefects) :
    (s.setLineDefect k v).banks = s.banks := rfl
@[simp] theorem State.setLineDefect_holds (s : State) (k : Nat) (v : LineDefects) :
    (s.setLineDefect k v).holds = s.holds := rfl
@[simp] theorem State.setLineDefect_active (s : State) (k : Nat) (v : LineDefects) :
    (s.setLineDefect k v).active = s.active := rfl
@[simp] theorem State.setLineDefect_pendingAct (s : State) (k : Nat) (v : LineDefects) :
    (s.setLineDefect k v).pendingAct = s.pendingAct := rfl
@[simp] theorem State.setLineDefect_mapEngine (s : State) (k : Nat) (v : LineDefects) :
    (s.setLineDefect k v).mapEngine = s.mapEngine := rfl
@[simp] theorem State.setLineDefect_egress (s : State) (k : Nat) (v : LineDefects) :
    (s.setLineDefect k v).egress = s.egress := rfl
@[simp] theorem State.setLineDefect_ended (s : State) (k : Nat) (v : LineDefects) :
    (s.setLineDefect k v).ended = s.ended := rfl
@[simp] theorem State.setLineDefect_lineDefects (s : State) (k : Nat) (v : LineDefects) :
    (s.setLineDefect k v).lineDefects = s.lineDefects.set LineDefects.reset k v := rfl
@[simp] theorem State.setLineDefect_defects (s : State) (k : Nat) (v : LineDefects) :
    (s.setLineDefect k v).defects = s.defects := rfl
@[simp] theorem State.setLineDefect_watches (s : State) (k : Nat) (v : LineDefects) :
    (s.setLineDefect k v).watches = s.watches := rfl
@[simp] theorem State.setLineDefect_patterns (s : State) (k : Nat) (v : LineDefects) :
    (s.setLineDefect k v).patterns = s.patterns := rfl
@[simp] theorem State.setLineDefect_groups (s : State) (k : Nat) (v : LineDefects) :
    (s.setLineDefect k v).groups = s.groups := rfl
@[simp] theorem State.setLineDefect_linkA (s : State) (k : Nat) (v : LineDefects) :
    (s.setLineDefect k v).linkA = s.linkA := rfl
@[simp] theorem State.setLineDefect_linkB (s : State) (k : Nat) (v : LineDefects) :
    (s.setLineDefect k v).linkB = s.linkB := rfl
@[simp] theorem State.setLineDefect_image (s : State) (k : Nat) (v : LineDefects) :
    (s.setLineDefect k v).image = s.image := rfl
@[simp] theorem State.setLineDefect_flash (s : State) (k : Nat) (v : LineDefects) :
    (s.setLineDefect k v).flash = s.flash := rfl
@[simp] theorem State.setLineDefect_choices (s : State) (k : Nat) (v : LineDefects) :
    (s.setLineDefect k v).choices = s.choices := rfl
@[simp] theorem State.setLineDefect_lif (s : State) (k : Nat) (v : LineDefects) (m : Nat) :
    (s.setLineDefect k v).lif m = s.lif m := rfl
@[simp] theorem State.setLineDefect_slot (s : State) (k : Nat) (v : LineDefects) (m : Nat) :
    (s.setLineDefect k v).slot m = s.slot m := rfl
@[simp] theorem State.setLineDefect_store (s : State) (k : Nat) (v : LineDefects) (m : Nat) :
    (s.setLineDefect k v).store m = s.store m := rfl
@[simp] theorem State.setLineDefect_rateOf (s : State) (k : Nat) (v : LineDefects) (m : Nat) :
    (s.setLineDefect k v).rateOf m = s.rateOf m := rfl
@[simp] theorem State.setLineDefect_bank (s : State) (k : Nat) (v : LineDefects) (m : BankNo) :
    (s.setLineDefect k v).bank m = s.bank m := rfl
@[simp] theorem State.setLineDefect_hold (s : State) (k : Nat) (v : LineDefects) (m : BankNo) :
    (s.setLineDefect k v).hold m = s.hold m := rfl
theorem State.setLineDefect_lineDefect (s : State) (k : Nat) (v : LineDefects) (m : Nat) :
    (s.setLineDefect k v).lineDefect m = if m = k then v else s.lineDefect m := Table.get_set _ _ _ _ _
@[simp] theorem State.setLineDefect_lineDefect_self (s : State) (k : Nat) (v : LineDefects) :
    (s.setLineDefect k v).lineDefect k = v := by
  simp [State.setLineDefect_lineDefect]
@[simp] theorem State.setLineDefect_defect (s : State) (k : Nat) (v : LineDefects) (m : Nat) :
    (s.setLineDefect k v).defect m = s.defect m := rfl
@[simp] theorem State.setLineDefect_watch (s : State) (k : Nat) (v : LineDefects) (m : Nat) :
    (s.setLineDefect k v).watch m = s.watch m := rfl
@[simp] theorem State.setLineDefect_pattern (s : State) (k : Nat) (v : LineDefects) (m : Nat) :
    (s.setLineDefect k v).pattern m = s.pattern m := rfl
@[simp] theorem State.setLineDefect_group (s : State) (k : Nat) (v : LineDefects) (m : Nat) :
    (s.setLineDefect k v).group m = s.group m := rfl
@[simp] theorem State.setLineDefect_flashPage (s : State) (k : Nat) (v : LineDefects) (m : Nat) :
    (s.setLineDefect k v).flashPage m = s.flashPage m := rfl
@[simp] theorem State.setLineDefect_sent (s : State) (k : Nat) (v : LineDefects) (m : Nat) :
    (s.setLineDefect k v).sent m = s.sent m := rfl
@[simp] theorem State.setLineDefect_link (s : State) (k : Nat) (v : LineDefects) (x : Link) :
    (s.setLineDefect k v).link x = s.link x := by
  cases x <;> rfl

/-! ### `State.setDefect` -/

@[simp] theorem State.setDefect_pending (s : State) (k : Nat) (v : DefectRec) :
    (s.setDefect k v).pending = s.pending := rfl
@[simp] theorem State.setDefect_lifs (s : State) (k : Nat) (v : DefectRec) : (s.setDefect k v).lifs = s.lifs := rfl
@[simp] theorem State.setDefect_slots (s : State) (k : Nat) (v : DefectRec) : (s.setDefect k v).slots = s.slots := rfl
@[simp] theorem State.setDefect_sentParity (s : State) (k : Nat) (v : DefectRec) :
    (s.setDefect k v).sentParity = s.sentParity := rfl
@[simp] theorem State.setDefect_time (s : State) (k : Nat) (v : DefectRec) : (s.setDefect k v).time = s.time := rfl
@[simp] theorem State.setDefect_stores (s : State) (k : Nat) (v : DefectRec) :
    (s.setDefect k v).stores = s.stores := rfl
@[simp] theorem State.setDefect_rate (s : State) (k : Nat) (v : DefectRec) : (s.setDefect k v).rate = s.rate := rfl
@[simp] theorem State.setDefect_rates (s : State) (k : Nat) (v : DefectRec) : (s.setDefect k v).rates = s.rates := rfl
@[simp] theorem State.setDefect_banks (s : State) (k : Nat) (v : DefectRec) : (s.setDefect k v).banks = s.banks := rfl
@[simp] theorem State.setDefect_holds (s : State) (k : Nat) (v : DefectRec) : (s.setDefect k v).holds = s.holds := rfl
@[simp] theorem State.setDefect_active (s : State) (k : Nat) (v : DefectRec) :
    (s.setDefect k v).active = s.active := rfl
@[simp] theorem State.setDefect_pendingAct (s : State) (k : Nat) (v : DefectRec) :
    (s.setDefect k v).pendingAct = s.pendingAct := rfl
@[simp] theorem State.setDefect_mapEngine (s : State) (k : Nat) (v : DefectRec) :
    (s.setDefect k v).mapEngine = s.mapEngine := rfl
@[simp] theorem State.setDefect_egress (s : State) (k : Nat) (v : DefectRec) :
    (s.setDefect k v).egress = s.egress := rfl
@[simp] theorem State.setDefect_ended (s : State) (k : Nat) (v : DefectRec) : (s.setDefect k v).ended = s.ended := rfl
@[simp] theorem State.setDefect_lineDefects (s : State) (k : Nat) (v : DefectRec) :
    (s.setDefect k v).lineDefects = s.lineDefects := rfl
@[simp] theorem State.setDefect_defects (s : State) (k : Nat) (v : DefectRec) :
    (s.setDefect k v).defects = s.defects.set DefectRec.reset k v := rfl
@[simp] theorem State.setDefect_watches (s : State) (k : Nat) (v : DefectRec) :
    (s.setDefect k v).watches = s.watches := rfl
@[simp] theorem State.setDefect_patterns (s : State) (k : Nat) (v : DefectRec) :
    (s.setDefect k v).patterns = s.patterns := rfl
@[simp] theorem State.setDefect_groups (s : State) (k : Nat) (v : DefectRec) :
    (s.setDefect k v).groups = s.groups := rfl
@[simp] theorem State.setDefect_linkA (s : State) (k : Nat) (v : DefectRec) : (s.setDefect k v).linkA = s.linkA := rfl
@[simp] theorem State.setDefect_linkB (s : State) (k : Nat) (v : DefectRec) : (s.setDefect k v).linkB = s.linkB := rfl
@[simp] theorem State.setDefect_image (s : State) (k : Nat) (v : DefectRec) : (s.setDefect k v).image = s.image := rfl
@[simp] theorem State.setDefect_flash (s : State) (k : Nat) (v : DefectRec) : (s.setDefect k v).flash = s.flash := rfl
@[simp] theorem State.setDefect_choices (s : State) (k : Nat) (v : DefectRec) :
    (s.setDefect k v).choices = s.choices := rfl
@[simp] theorem State.setDefect_lif (s : State) (k : Nat) (v : DefectRec) (m : Nat) :
    (s.setDefect k v).lif m = s.lif m := rfl
@[simp] theorem State.setDefect_slot (s : State) (k : Nat) (v : DefectRec) (m : Nat) :
    (s.setDefect k v).slot m = s.slot m := rfl
@[simp] theorem State.setDefect_store (s : State) (k : Nat) (v : DefectRec) (m : Nat) :
    (s.setDefect k v).store m = s.store m := rfl
@[simp] theorem State.setDefect_rateOf (s : State) (k : Nat) (v : DefectRec) (m : Nat) :
    (s.setDefect k v).rateOf m = s.rateOf m := rfl
@[simp] theorem State.setDefect_bank (s : State) (k : Nat) (v : DefectRec) (m : BankNo) :
    (s.setDefect k v).bank m = s.bank m := rfl
@[simp] theorem State.setDefect_hold (s : State) (k : Nat) (v : DefectRec) (m : BankNo) :
    (s.setDefect k v).hold m = s.hold m := rfl
@[simp] theorem State.setDefect_lineDefect (s : State) (k : Nat) (v : DefectRec) (m : Nat) :
    (s.setDefect k v).lineDefect m = s.lineDefect m := rfl
theorem State.setDefect_defect (s : State) (k : Nat) (v : DefectRec) (m : Nat) :
    (s.setDefect k v).defect m = if m = k then v else s.defect m := Table.get_set _ _ _ _ _
@[simp] theorem State.setDefect_defect_self (s : State) (k : Nat) (v : DefectRec) : (s.setDefect k v).defect k = v := by
  simp [State.setDefect_defect]
@[simp] theorem State.setDefect_watch (s : State) (k : Nat) (v : DefectRec) (m : Nat) :
    (s.setDefect k v).watch m = s.watch m := rfl
@[simp] theorem State.setDefect_pattern (s : State) (k : Nat) (v : DefectRec) (m : Nat) :
    (s.setDefect k v).pattern m = s.pattern m := rfl
@[simp] theorem State.setDefect_group (s : State) (k : Nat) (v : DefectRec) (m : Nat) :
    (s.setDefect k v).group m = s.group m := rfl
@[simp] theorem State.setDefect_flashPage (s : State) (k : Nat) (v : DefectRec) (m : Nat) :
    (s.setDefect k v).flashPage m = s.flashPage m := rfl
@[simp] theorem State.setDefect_sent (s : State) (k : Nat) (v : DefectRec) (m : Nat) :
    (s.setDefect k v).sent m = s.sent m := rfl
@[simp] theorem State.setDefect_link (s : State) (k : Nat) (v : DefectRec) (x : Link) :
    (s.setDefect k v).link x = s.link x := by
  cases x <;> rfl

/-! ### `State.setWatch` -/

@[simp] theorem State.setWatch_pending (s : State) (k : Nat) (v : Watch) : (s.setWatch k v).pending = s.pending := rfl
@[simp] theorem State.setWatch_lifs (s : State) (k : Nat) (v : Watch) : (s.setWatch k v).lifs = s.lifs := rfl
@[simp] theorem State.setWatch_slots (s : State) (k : Nat) (v : Watch) : (s.setWatch k v).slots = s.slots := rfl
@[simp] theorem State.setWatch_sentParity (s : State) (k : Nat) (v : Watch) :
    (s.setWatch k v).sentParity = s.sentParity := rfl
@[simp] theorem State.setWatch_time (s : State) (k : Nat) (v : Watch) : (s.setWatch k v).time = s.time := rfl
@[simp] theorem State.setWatch_stores (s : State) (k : Nat) (v : Watch) : (s.setWatch k v).stores = s.stores := rfl
@[simp] theorem State.setWatch_rate (s : State) (k : Nat) (v : Watch) : (s.setWatch k v).rate = s.rate := rfl
@[simp] theorem State.setWatch_rates (s : State) (k : Nat) (v : Watch) : (s.setWatch k v).rates = s.rates := rfl
@[simp] theorem State.setWatch_banks (s : State) (k : Nat) (v : Watch) : (s.setWatch k v).banks = s.banks := rfl
@[simp] theorem State.setWatch_holds (s : State) (k : Nat) (v : Watch) : (s.setWatch k v).holds = s.holds := rfl
@[simp] theorem State.setWatch_active (s : State) (k : Nat) (v : Watch) : (s.setWatch k v).active = s.active := rfl
@[simp] theorem State.setWatch_pendingAct (s : State) (k : Nat) (v : Watch) :
    (s.setWatch k v).pendingAct = s.pendingAct := rfl
@[simp] theorem State.setWatch_mapEngine (s : State) (k : Nat) (v : Watch) :
    (s.setWatch k v).mapEngine = s.mapEngine := rfl
@[simp] theorem State.setWatch_egress (s : State) (k : Nat) (v : Watch) : (s.setWatch k v).egress = s.egress := rfl
@[simp] theorem State.setWatch_ended (s : State) (k : Nat) (v : Watch) : (s.setWatch k v).ended = s.ended := rfl
@[simp] theorem State.setWatch_lineDefects (s : State) (k : Nat) (v : Watch) :
    (s.setWatch k v).lineDefects = s.lineDefects := rfl
@[simp] theorem State.setWatch_defects (s : State) (k : Nat) (v : Watch) : (s.setWatch k v).defects = s.defects := rfl
@[simp] theorem State.setWatch_watches (s : State) (k : Nat) (v : Watch) :
    (s.setWatch k v).watches = s.watches.set Watch.reset k v := rfl
@[simp] theorem State.setWatch_patterns (s : State) (k : Nat) (v : Watch) :
    (s.setWatch k v).patterns = s.patterns := rfl
@[simp] theorem State.setWatch_groups (s : State) (k : Nat) (v : Watch) : (s.setWatch k v).groups = s.groups := rfl
@[simp] theorem State.setWatch_linkA (s : State) (k : Nat) (v : Watch) : (s.setWatch k v).linkA = s.linkA := rfl
@[simp] theorem State.setWatch_linkB (s : State) (k : Nat) (v : Watch) : (s.setWatch k v).linkB = s.linkB := rfl
@[simp] theorem State.setWatch_image (s : State) (k : Nat) (v : Watch) : (s.setWatch k v).image = s.image := rfl
@[simp] theorem State.setWatch_flash (s : State) (k : Nat) (v : Watch) : (s.setWatch k v).flash = s.flash := rfl
@[simp] theorem State.setWatch_choices (s : State) (k : Nat) (v : Watch) : (s.setWatch k v).choices = s.choices := rfl
@[simp] theorem State.setWatch_lif (s : State) (k : Nat) (v : Watch) (m : Nat) : (s.setWatch k v).lif m = s.lif m := rfl
@[simp] theorem State.setWatch_slot (s : State) (k : Nat) (v : Watch) (m : Nat) :
    (s.setWatch k v).slot m = s.slot m := rfl
@[simp] theorem State.setWatch_store (s : State) (k : Nat) (v : Watch) (m : Nat) :
    (s.setWatch k v).store m = s.store m := rfl
@[simp] theorem State.setWatch_rateOf (s : State) (k : Nat) (v : Watch) (m : Nat) :
    (s.setWatch k v).rateOf m = s.rateOf m := rfl
@[simp] theorem State.setWatch_bank (s : State) (k : Nat) (v : Watch) (m : BankNo) :
    (s.setWatch k v).bank m = s.bank m := rfl
@[simp] theorem State.setWatch_hold (s : State) (k : Nat) (v : Watch) (m : BankNo) :
    (s.setWatch k v).hold m = s.hold m := rfl
@[simp] theorem State.setWatch_lineDefect (s : State) (k : Nat) (v : Watch) (m : Nat) :
    (s.setWatch k v).lineDefect m = s.lineDefect m := rfl
@[simp] theorem State.setWatch_defect (s : State) (k : Nat) (v : Watch) (m : Nat) :
    (s.setWatch k v).defect m = s.defect m := rfl
theorem State.setWatch_watch (s : State) (k : Nat) (v : Watch) (m : Nat) :
    (s.setWatch k v).watch m = if m = k then v else s.watch m := Table.get_set _ _ _ _ _
@[simp] theorem State.setWatch_watch_self (s : State) (k : Nat) (v : Watch) : (s.setWatch k v).watch k = v := by
  simp [State.setWatch_watch]
@[simp] theorem State.setWatch_pattern (s : State) (k : Nat) (v : Watch) (m : Nat) :
    (s.setWatch k v).pattern m = s.pattern m := rfl
@[simp] theorem State.setWatch_group (s : State) (k : Nat) (v : Watch) (m : Nat) :
    (s.setWatch k v).group m = s.group m := rfl
@[simp] theorem State.setWatch_flashPage (s : State) (k : Nat) (v : Watch) (m : Nat) :
    (s.setWatch k v).flashPage m = s.flashPage m := rfl
@[simp] theorem State.setWatch_sent (s : State) (k : Nat) (v : Watch) (m : Nat) :
    (s.setWatch k v).sent m = s.sent m := rfl
@[simp] theorem State.setWatch_link (s : State) (k : Nat) (v : Watch) (x : Link) :
    (s.setWatch k v).link x = s.link x := by
  cases x <;> rfl

/-! ### `State.setPattern` -/

@[simp] theorem State.setPattern_pending (s : State) (k : Nat) (v : Pattern) :
    (s.setPattern k v).pending = s.pending := rfl
@[simp] theorem State.setPattern_lifs (s : State) (k : Nat) (v : Pattern) : (s.setPattern k v).lifs = s.lifs := rfl
@[simp] theorem State.setPattern_slots (s : State) (k : Nat) (v : Pattern) : (s.setPattern k v).slots = s.slots := rfl
@[simp] theorem State.setPattern_sentParity (s : State) (k : Nat) (v : Pattern) :
    (s.setPattern k v).sentParity = s.sentParity := rfl
@[simp] theorem State.setPattern_time (s : State) (k : Nat) (v : Pattern) : (s.setPattern k v).time = s.time := rfl
@[simp] theorem State.setPattern_stores (s : State) (k : Nat) (v : Pattern) :
    (s.setPattern k v).stores = s.stores := rfl
@[simp] theorem State.setPattern_rate (s : State) (k : Nat) (v : Pattern) : (s.setPattern k v).rate = s.rate := rfl
@[simp] theorem State.setPattern_rates (s : State) (k : Nat) (v : Pattern) : (s.setPattern k v).rates = s.rates := rfl
@[simp] theorem State.setPattern_banks (s : State) (k : Nat) (v : Pattern) : (s.setPattern k v).banks = s.banks := rfl
@[simp] theorem State.setPattern_holds (s : State) (k : Nat) (v : Pattern) : (s.setPattern k v).holds = s.holds := rfl
@[simp] theorem State.setPattern_active (s : State) (k : Nat) (v : Pattern) :
    (s.setPattern k v).active = s.active := rfl
@[simp] theorem State.setPattern_pendingAct (s : State) (k : Nat) (v : Pattern) :
    (s.setPattern k v).pendingAct = s.pendingAct := rfl
@[simp] theorem State.setPattern_mapEngine (s : State) (k : Nat) (v : Pattern) :
    (s.setPattern k v).mapEngine = s.mapEngine := rfl
@[simp] theorem State.setPattern_egress (s : State) (k : Nat) (v : Pattern) :
    (s.setPattern k v).egress = s.egress := rfl
@[simp] theorem State.setPattern_ended (s : State) (k : Nat) (v : Pattern) : (s.setPattern k v).ended = s.ended := rfl
@[simp] theorem State.setPattern_lineDefects (s : State) (k : Nat) (v : Pattern) :
    (s.setPattern k v).lineDefects = s.lineDefects := rfl
@[simp] theorem State.setPattern_defects (s : State) (k : Nat) (v : Pattern) :
    (s.setPattern k v).defects = s.defects := rfl
@[simp] theorem State.setPattern_watches (s : State) (k : Nat) (v : Pattern) :
    (s.setPattern k v).watches = s.watches := rfl
@[simp] theorem State.setPattern_patterns (s : State) (k : Nat) (v : Pattern) :
    (s.setPattern k v).patterns = s.patterns.set Pattern.reset k v := rfl
@[simp] theorem State.setPattern_groups (s : State) (k : Nat) (v : Pattern) :
    (s.setPattern k v).groups = s.groups := rfl
@[simp] theorem State.setPattern_linkA (s : State) (k : Nat) (v : Pattern) : (s.setPattern k v).linkA = s.linkA := rfl
@[simp] theorem State.setPattern_linkB (s : State) (k : Nat) (v : Pattern) : (s.setPattern k v).linkB = s.linkB := rfl
@[simp] theorem State.setPattern_image (s : State) (k : Nat) (v : Pattern) : (s.setPattern k v).image = s.image := rfl
@[simp] theorem State.setPattern_flash (s : State) (k : Nat) (v : Pattern) : (s.setPattern k v).flash = s.flash := rfl
@[simp] theorem State.setPattern_choices (s : State) (k : Nat) (v : Pattern) :
    (s.setPattern k v).choices = s.choices := rfl
@[simp] theorem State.setPattern_lif (s : State) (k : Nat) (v : Pattern) (m : Nat) :
    (s.setPattern k v).lif m = s.lif m := rfl
@[simp] theorem State.setPattern_slot (s : State) (k : Nat) (v : Pattern) (m : Nat) :
    (s.setPattern k v).slot m = s.slot m := rfl
@[simp] theorem State.setPattern_store (s : State) (k : Nat) (v : Pattern) (m : Nat) :
    (s.setPattern k v).store m = s.store m := rfl
@[simp] theorem State.setPattern_rateOf (s : State) (k : Nat) (v : Pattern) (m : Nat) :
    (s.setPattern k v).rateOf m = s.rateOf m := rfl
@[simp] theorem State.setPattern_bank (s : State) (k : Nat) (v : Pattern) (m : BankNo) :
    (s.setPattern k v).bank m = s.bank m := rfl
@[simp] theorem State.setPattern_hold (s : State) (k : Nat) (v : Pattern) (m : BankNo) :
    (s.setPattern k v).hold m = s.hold m := rfl
@[simp] theorem State.setPattern_lineDefect (s : State) (k : Nat) (v : Pattern) (m : Nat) :
    (s.setPattern k v).lineDefect m = s.lineDefect m := rfl
@[simp] theorem State.setPattern_defect (s : State) (k : Nat) (v : Pattern) (m : Nat) :
    (s.setPattern k v).defect m = s.defect m := rfl
@[simp] theorem State.setPattern_watch (s : State) (k : Nat) (v : Pattern) (m : Nat) :
    (s.setPattern k v).watch m = s.watch m := rfl
theorem State.setPattern_pattern (s : State) (k : Nat) (v : Pattern) (m : Nat) :
    (s.setPattern k v).pattern m = if m = k then v else s.pattern m := Table.get_set _ _ _ _ _
@[simp] theorem State.setPattern_pattern_self (s : State) (k : Nat) (v : Pattern) :
    (s.setPattern k v).pattern k = v := by
  simp [State.setPattern_pattern]
@[simp] theorem State.setPattern_group (s : State) (k : Nat) (v : Pattern) (m : Nat) :
    (s.setPattern k v).group m = s.group m := rfl
@[simp] theorem State.setPattern_flashPage (s : State) (k : Nat) (v : Pattern) (m : Nat) :
    (s.setPattern k v).flashPage m = s.flashPage m := rfl
@[simp] theorem State.setPattern_sent (s : State) (k : Nat) (v : Pattern) (m : Nat) :
    (s.setPattern k v).sent m = s.sent m := rfl
@[simp] theorem State.setPattern_link (s : State) (k : Nat) (v : Pattern) (x : Link) :
    (s.setPattern k v).link x = s.link x := by
  cases x <;> rfl

/-! ### `State.setGroup` -/

@[simp] theorem State.setGroup_pending (s : State) (k : Nat) (v : GroupRec) :
    (s.setGroup k v).pending = s.pending := rfl
@[simp] theorem State.setGroup_lifs (s : State) (k : Nat) (v : GroupRec) : (s.setGroup k v).lifs = s.lifs := rfl
@[simp] theorem State.setGroup_slots (s : State) (k : Nat) (v : GroupRec) : (s.setGroup k v).slots = s.slots := rfl
@[simp] theorem State.setGroup_sentParity (s : State) (k : Nat) (v : GroupRec) :
    (s.setGroup k v).sentParity = s.sentParity := rfl
@[simp] theorem State.setGroup_time (s : State) (k : Nat) (v : GroupRec) : (s.setGroup k v).time = s.time := rfl
@[simp] theorem State.setGroup_stores (s : State) (k : Nat) (v : GroupRec) : (s.setGroup k v).stores = s.stores := rfl
@[simp] theorem State.setGroup_rate (s : State) (k : Nat) (v : GroupRec) : (s.setGroup k v).rate = s.rate := rfl
@[simp] theorem State.setGroup_rates (s : State) (k : Nat) (v : GroupRec) : (s.setGroup k v).rates = s.rates := rfl
@[simp] theorem State.setGroup_banks (s : State) (k : Nat) (v : GroupRec) : (s.setGroup k v).banks = s.banks := rfl
@[simp] theorem State.setGroup_holds (s : State) (k : Nat) (v : GroupRec) : (s.setGroup k v).holds = s.holds := rfl
@[simp] theorem State.setGroup_active (s : State) (k : Nat) (v : GroupRec) : (s.setGroup k v).active = s.active := rfl
@[simp] theorem State.setGroup_pendingAct (s : State) (k : Nat) (v : GroupRec) :
    (s.setGroup k v).pendingAct = s.pendingAct := rfl
@[simp] theorem State.setGroup_mapEngine (s : State) (k : Nat) (v : GroupRec) :
    (s.setGroup k v).mapEngine = s.mapEngine := rfl
@[simp] theorem State.setGroup_egress (s : State) (k : Nat) (v : GroupRec) : (s.setGroup k v).egress = s.egress := rfl
@[simp] theorem State.setGroup_ended (s : State) (k : Nat) (v : GroupRec) : (s.setGroup k v).ended = s.ended := rfl
@[simp] theorem State.setGroup_lineDefects (s : State) (k : Nat) (v : GroupRec) :
    (s.setGroup k v).lineDefects = s.lineDefects := rfl
@[simp] theorem State.setGroup_defects (s : State) (k : Nat) (v : GroupRec) :
    (s.setGroup k v).defects = s.defects := rfl
@[simp] theorem State.setGroup_watches (s : State) (k : Nat) (v : GroupRec) :
    (s.setGroup k v).watches = s.watches := rfl
@[simp] theorem State.setGroup_patterns (s : State) (k : Nat) (v : GroupRec) :
    (s.setGroup k v).patterns = s.patterns := rfl
@[simp] theorem State.setGroup_groups (s : State) (k : Nat) (v : GroupRec) :
    (s.setGroup k v).groups = s.groups.set GroupRec.reset k v := rfl
@[simp] theorem State.setGroup_linkA (s : State) (k : Nat) (v : GroupRec) : (s.setGroup k v).linkA = s.linkA := rfl
@[simp] theorem State.setGroup_linkB (s : State) (k : Nat) (v : GroupRec) : (s.setGroup k v).linkB = s.linkB := rfl
@[simp] theorem State.setGroup_image (s : State) (k : Nat) (v : GroupRec) : (s.setGroup k v).image = s.image := rfl
@[simp] theorem State.setGroup_flash (s : State) (k : Nat) (v : GroupRec) : (s.setGroup k v).flash = s.flash := rfl
@[simp] theorem State.setGroup_choices (s : State) (k : Nat) (v : GroupRec) :
    (s.setGroup k v).choices = s.choices := rfl
@[simp] theorem State.setGroup_lif (s : State) (k : Nat) (v : GroupRec) (m : Nat) :
    (s.setGroup k v).lif m = s.lif m := rfl
@[simp] theorem State.setGroup_slot (s : State) (k : Nat) (v : GroupRec) (m : Nat) :
    (s.setGroup k v).slot m = s.slot m := rfl
@[simp] theorem State.setGroup_store (s : State) (k : Nat) (v : GroupRec) (m : Nat) :
    (s.setGroup k v).store m = s.store m := rfl
@[simp] theorem State.setGroup_rateOf (s : State) (k : Nat) (v : GroupRec) (m : Nat) :
    (s.setGroup k v).rateOf m = s.rateOf m := rfl
@[simp] theorem State.setGroup_bank (s : State) (k : Nat) (v : GroupRec) (m : BankNo) :
    (s.setGroup k v).bank m = s.bank m := rfl
@[simp] theorem State.setGroup_hold (s : State) (k : Nat) (v : GroupRec) (m : BankNo) :
    (s.setGroup k v).hold m = s.hold m := rfl
@[simp] theorem State.setGroup_lineDefect (s : State) (k : Nat) (v : GroupRec) (m : Nat) :
    (s.setGroup k v).lineDefect m = s.lineDefect m := rfl
@[simp] theorem State.setGroup_defect (s : State) (k : Nat) (v : GroupRec) (m : Nat) :
    (s.setGroup k v).defect m = s.defect m := rfl
@[simp] theorem State.setGroup_watch (s : State) (k : Nat) (v : GroupRec) (m : Nat) :
    (s.setGroup k v).watch m = s.watch m := rfl
@[simp] theorem State.setGroup_pattern (s : State) (k : Nat) (v : GroupRec) (m : Nat) :
    (s.setGroup k v).pattern m = s.pattern m := rfl
theorem State.setGroup_group (s : State) (k : Nat) (v : GroupRec) (m : Nat) :
    (s.setGroup k v).group m = if m = k then v else s.group m := Table.get_set _ _ _ _ _
@[simp] theorem State.setGroup_group_self (s : State) (k : Nat) (v : GroupRec) : (s.setGroup k v).group k = v := by
  simp [State.setGroup_group]
@[simp] theorem State.setGroup_flashPage (s : State) (k : Nat) (v : GroupRec) (m : Nat) :
    (s.setGroup k v).flashPage m = s.flashPage m := rfl
@[simp] theorem State.setGroup_sent (s : State) (k : Nat) (v : GroupRec) (m : Nat) :
    (s.setGroup k v).sent m = s.sent m := rfl
@[simp] theorem State.setGroup_link (s : State) (k : Nat) (v : GroupRec) (x : Link) :
    (s.setGroup k v).link x = s.link x := by
  cases x <;> rfl

/-! ### `State.setFlashPage` -/

@[simp] theorem State.setFlashPage_pending (s : State) (k : Nat) (v : List Byte) :
    (s.setFlashPage k v).pending = s.pending := rfl
@[simp] theorem State.setFlashPage_lifs (s : State) (k : Nat) (v : List Byte) :
    (s.setFlashPage k v).lifs = s.lifs := rfl
@[simp] theorem State.setFlashPage_slots (s : State) (k : Nat) (v : List Byte) :
    (s.setFlashPage k v).slots = s.slots := rfl
@[simp] theorem State.setFlashPage_sentParity (s : State) (k : Nat) (v : List Byte) :
    (s.setFlashPage k v).sentParity = s.sentParity := rfl
@[simp] theorem State.setFlashPage_time (s : State) (k : Nat) (v : List Byte) :
    (s.setFlashPage k v).time = s.time := rfl
@[simp] theorem State.setFlashPage_stores (s : State) (k : Nat) (v : List Byte) :
    (s.setFlashPage k v).stores = s.stores := rfl
@[simp] theorem State.setFlashPage_rate (s : State) (k : Nat) (v : List Byte) :
    (s.setFlashPage k v).rate = s.rate := rfl
@[simp] theorem State.setFlashPage_rates (s : State) (k : Nat) (v : List Byte) :
    (s.setFlashPage k v).rates = s.rates := rfl
@[simp] theorem State.setFlashPage_banks (s : State) (k : Nat) (v : List Byte) :
    (s.setFlashPage k v).banks = s.banks := rfl
@[simp] theorem State.setFlashPage_holds (s : State) (k : Nat) (v : List Byte) :
    (s.setFlashPage k v).holds = s.holds := rfl
@[simp] theorem State.setFlashPage_active (s : State) (k : Nat) (v : List Byte) :
    (s.setFlashPage k v).active = s.active := rfl
@[simp] theorem State.setFlashPage_pendingAct (s : State) (k : Nat) (v : List Byte) :
    (s.setFlashPage k v).pendingAct = s.pendingAct := rfl
@[simp] theorem State.setFlashPage_mapEngine (s : State) (k : Nat) (v : List Byte) :
    (s.setFlashPage k v).mapEngine = s.mapEngine := rfl
@[simp] theorem State.setFlashPage_egress (s : State) (k : Nat) (v : List Byte) :
    (s.setFlashPage k v).egress = s.egress := rfl
@[simp] theorem State.setFlashPage_ended (s : State) (k : Nat) (v : List Byte) :
    (s.setFlashPage k v).ended = s.ended := rfl
@[simp] theorem State.setFlashPage_lineDefects (s : State) (k : Nat) (v : List Byte) :
    (s.setFlashPage k v).lineDefects = s.lineDefects := rfl
@[simp] theorem State.setFlashPage_defects (s : State) (k : Nat) (v : List Byte) :
    (s.setFlashPage k v).defects = s.defects := rfl
@[simp] theorem State.setFlashPage_watches (s : State) (k : Nat) (v : List Byte) :
    (s.setFlashPage k v).watches = s.watches := rfl
@[simp] theorem State.setFlashPage_patterns (s : State) (k : Nat) (v : List Byte) :
    (s.setFlashPage k v).patterns = s.patterns := rfl
@[simp] theorem State.setFlashPage_groups (s : State) (k : Nat) (v : List Byte) :
    (s.setFlashPage k v).groups = s.groups := rfl
@[simp] theorem State.setFlashPage_linkA (s : State) (k : Nat) (v : List Byte) :
    (s.setFlashPage k v).linkA = s.linkA := rfl
@[simp] theorem State.setFlashPage_linkB (s : State) (k : Nat) (v : List Byte) :
    (s.setFlashPage k v).linkB = s.linkB := rfl
@[simp] theorem State.setFlashPage_image (s : State) (k : Nat) (v : List Byte) :
    (s.setFlashPage k v).image = s.image := rfl
@[simp] theorem State.setFlashPage_flash (s : State) (k : Nat) (v : List Byte) :
    (s.setFlashPage k v).flash = s.flash.set erasedPage k v := rfl
@[simp] theorem State.setFlashPage_choices (s : State) (k : Nat) (v : List Byte) :
    (s.setFlashPage k v).choices = s.choices := rfl
@[simp] theorem State.setFlashPage_lif (s : State) (k : Nat) (v : List Byte) (m : Nat) :
    (s.setFlashPage k v).lif m = s.lif m := rfl
@[simp] theorem State.setFlashPage_slot (s : State) (k : Nat) (v : List Byte) (m : Nat) :
    (s.setFlashPage k v).slot m = s.slot m := rfl
@[simp] theorem State.setFlashPage_store (s : State) (k : Nat) (v : List Byte) (m : Nat) :
    (s.setFlashPage k v).store m = s.store m := rfl
@[simp] theorem State.setFlashPage_rateOf (s : State) (k : Nat) (v : List Byte) (m : Nat) :
    (s.setFlashPage k v).rateOf m = s.rateOf m := rfl
@[simp] theorem State.setFlashPage_bank (s : State) (k : Nat) (v : List Byte) (m : BankNo) :
    (s.setFlashPage k v).bank m = s.bank m := rfl
@[simp] theorem State.setFlashPage_hold (s : State) (k : Nat) (v : List Byte) (m : BankNo) :
    (s.setFlashPage k v).hold m = s.hold m := rfl
@[simp] theorem State.setFlashPage_lineDefect (s : State) (k : Nat) (v : List Byte) (m : Nat) :
    (s.setFlashPage k v).lineDefect m = s.lineDefect m := rfl
@[simp] theorem State.setFlashPage_defect (s : State) (k : Nat) (v : List Byte) (m : Nat) :
    (s.setFlashPage k v).defect m = s.defect m := rfl
@[simp] theorem State.setFlashPage_watch (s : State) (k : Nat) (v : List Byte) (m : Nat) :
    (s.setFlashPage k v).watch m = s.watch m := rfl
@[simp] theorem State.setFlashPage_pattern (s : State) (k : Nat) (v : List Byte) (m : Nat) :
    (s.setFlashPage k v).pattern m = s.pattern m := rfl
@[simp] theorem State.setFlashPage_group (s : State) (k : Nat) (v : List Byte) (m : Nat) :
    (s.setFlashPage k v).group m = s.group m := rfl
theorem State.setFlashPage_flashPage (s : State) (k : Nat) (v : List Byte) (m : Nat) :
    (s.setFlashPage k v).flashPage m = if m = k then v else s.flashPage m := Table.get_set _ _ _ _ _
@[simp] theorem State.setFlashPage_flashPage_self (s : State) (k : Nat) (v : List Byte) :
    (s.setFlashPage k v).flashPage k = v := by
  simp [State.setFlashPage_flashPage]
@[simp] theorem State.setFlashPage_sent (s : State) (k : Nat) (v : List Byte) (m : Nat) :
    (s.setFlashPage k v).sent m = s.sent m := rfl
@[simp] theorem State.setFlashPage_link (s : State) (k : Nat) (v : List Byte) (x : Link) :
    (s.setFlashPage k v).link x = s.link x := by
  cases x <;> rfl

/-! ### `State.setLink` -/

@[simp] theorem State.setLink_pending (s : State) (x : Link) (v : LinkState) : (s.setLink x v).pending = s.pending := by
  cases x <;> rfl
@[simp] theorem State.setLink_lifs (s : State) (x : Link) (v : LinkState) : (s.setLink x v).lifs = s.lifs := by
  cases x <;> rfl
@[simp] theorem State.setLink_slots (s : State) (x : Link) (v : LinkState) : (s.setLink x v).slots = s.slots := by
  cases x <;> rfl
@[simp] theorem State.setLink_sentParity (s : State) (x : Link) (v : LinkState) :
    (s.setLink x v).sentParity = s.sentParity := by
  cases x <;> rfl
@[simp] theorem State.setLink_time (s : State) (x : Link) (v : LinkState) : (s.setLink x v).time = s.time := by
  cases x <;> rfl
@[simp] theorem State.setLink_stores (s : State) (x : Link) (v : LinkState) : (s.setLink x v).stores = s.stores := by
  cases x <;> rfl
@[simp] theorem State.setLink_rate (s : State) (x : Link) (v : LinkState) : (s.setLink x v).rate = s.rate := by
  cases x <;> rfl
@[simp] theorem State.setLink_rates (s : State) (x : Link) (v : LinkState) : (s.setLink x v).rates = s.rates := by
  cases x <;> rfl
@[simp] theorem State.setLink_banks (s : State) (x : Link) (v : LinkState) : (s.setLink x v).banks = s.banks := by
  cases x <;> rfl
@[simp] theorem State.setLink_holds (s : State) (x : Link) (v : LinkState) : (s.setLink x v).holds = s.holds := by
  cases x <;> rfl
@[simp] theorem State.setLink_active (s : State) (x : Link) (v : LinkState) : (s.setLink x v).active = s.active := by
  cases x <;> rfl
@[simp] theorem State.setLink_pendingAct (s : State) (x : Link) (v : LinkState) :
    (s.setLink x v).pendingAct = s.pendingAct := by
  cases x <;> rfl
@[simp] theorem State.setLink_mapEngine (s : State) (x : Link) (v : LinkState) :
    (s.setLink x v).mapEngine = s.mapEngine := by
  cases x <;> rfl
@[simp] theorem State.setLink_egress (s : State) (x : Link) (v : LinkState) : (s.setLink x v).egress = s.egress := by
  cases x <;> rfl
@[simp] theorem State.setLink_ended (s : State) (x : Link) (v : LinkState) : (s.setLink x v).ended = s.ended := by
  cases x <;> rfl
@[simp] theorem State.setLink_lineDefects (s : State) (x : Link) (v : LinkState) :
    (s.setLink x v).lineDefects = s.lineDefects := by
  cases x <;> rfl
@[simp] theorem State.setLink_defects (s : State) (x : Link) (v : LinkState) : (s.setLink x v).defects = s.defects := by
  cases x <;> rfl
@[simp] theorem State.setLink_watches (s : State) (x : Link) (v : LinkState) : (s.setLink x v).watches = s.watches := by
  cases x <;> rfl
@[simp] theorem State.setLink_patterns (s : State) (x : Link) (v : LinkState) :
    (s.setLink x v).patterns = s.patterns := by
  cases x <;> rfl
@[simp] theorem State.setLink_groups (s : State) (x : Link) (v : LinkState) : (s.setLink x v).groups = s.groups := by
  cases x <;> rfl
theorem State.setLink_linkA (s : State) (x : Link) (v : LinkState) :
    (s.setLink x v).linkA = if x = .a then v else s.linkA := by
  cases x <;> rfl
theorem State.setLink_linkB (s : State) (x : Link) (v : LinkState) :
    (s.setLink x v).linkB = if x = .b then v else s.linkB := by
  cases x <;> rfl
@[simp] theorem State.setLink_image (s : State) (x : Link) (v : LinkState) : (s.setLink x v).image = s.image := by
  cases x <;> rfl
@[simp] theorem State.setLink_flash (s : State) (x : Link) (v : LinkState) : (s.setLink x v).flash = s.flash := by
  cases x <;> rfl
@[simp] theorem State.setLink_choices (s : State) (x : Link) (v : LinkState) : (s.setLink x v).choices = s.choices := by
  cases x <;> rfl
theorem State.setLink_link (s : State) (x : Link) (v : LinkState) (y : Link) :
    (s.setLink x v).link y = if y = x then v else s.link y := by
  cases x <;> cases y <;> rfl
@[simp] theorem State.setLink_link_self (s : State) (x : Link) (v : LinkState) : (s.setLink x v).link x = v := by
  cases x <;> rfl
@[simp] theorem State.setLink_setLink (s : State) (x : Link) (u v : LinkState) :
    (s.setLink x u).setLink x v = s.setLink x v := by
  cases x <;> rfl
@[simp] theorem State.setLink_same (s : State) (x : Link) : s.setLink x (s.link x) = s := by
  cases x <;> rfl
@[simp] theorem State.setLink_lif (s : State) (x : Link) (v : LinkState) (m : Nat) :
    (s.setLink x v).lif m = s.lif m := by
  cases x <;> rfl
@[simp] theorem State.setLink_slot (s : State) (x : Link) (v : LinkState) (m : Nat) :
    (s.setLink x v).slot m = s.slot m := by
  cases x <;> rfl
@[simp] theorem State.setLink_store (s : State) (x : Link) (v : LinkState) (m : Nat) :
    (s.setLink x v).store m = s.store m := by
  cases x <;> rfl
@[simp] theorem State.setLink_rateOf (s : State) (x : Link) (v : LinkState) (m : Nat) :
    (s.setLink x v).rateOf m = s.rateOf m := by
  cases x <;> rfl
@[simp] theorem State.setLink_bank (s : State) (x : Link) (v : LinkState) (m : BankNo) :
    (s.setLink x v).bank m = s.bank m := by
  cases x <;> rfl
@[simp] theorem State.setLink_hold (s : State) (x : Link) (v : LinkState) (m : BankNo) :
    (s.setLink x v).hold m = s.hold m := by
  cases x <;> rfl
@[simp] theorem State.setLink_lineDefect (s : State) (x : Link) (v : LinkState) (m : Nat) :
    (s.setLink x v).lineDefect m = s.lineDefect m := by
  cases x <;> rfl
@[simp] theorem State.setLink_defect (s : State) (x : Link) (v : LinkState) (m : Nat) :
    (s.setLink x v).defect m = s.defect m := by
  cases x <;> rfl
@[simp] theorem State.setLink_watch (s : State) (x : Link) (v : LinkState) (m : Nat) :
    (s.setLink x v).watch m = s.watch m := by
  cases x <;> rfl
@[simp] theorem State.setLink_pattern (s : State) (x : Link) (v : LinkState) (m : Nat) :
    (s.setLink x v).pattern m = s.pattern m := by
  cases x <;> rfl
@[simp] theorem State.setLink_group (s : State) (x : Link) (v : LinkState) (m : Nat) :
    (s.setLink x v).group m = s.group m := by
  cases x <;> rfl
@[simp] theorem State.setLink_flashPage (s : State) (x : Link) (v : LinkState) (m : Nat) :
    (s.setLink x v).flashPage m = s.flashPage m := by
  cases x <;> rfl

end Sys2Proof.Machine
end

