-- ==== Sys2Proof/Laws/Boundary.lean ====
section
/-! SUPPORT. Which causes make a boundary and what the timebase is after it, what a boundary hands on where no activation is
pending, what group timers and settled events do where nothing changes, what a line carries, and what a cut page write
leaves. -/

namespace Sys2Proof.Machine

/-! ### Which causes make a boundary (R16) -/

/-- The mark that regains the reference, in the terms of R16. -/
theorem Timebase.regainsAt_iff (t : Timebase) (m : Nat) :
    t.regainsAt m = true ↔ t.refPresent = false ∧ 15 ≤ t.regain
      ∧ ∃ q, t.lastMark = some q ∧ q + 125000 ≤ m ∧ m ≤ q + 375000 := by
  have key : t.regainsAt m = true ↔ t.refPresent = false ∧ 15 ≤ t.regain
      ∧ ∃ q, t.lastMark = some q ∧ q + markSpacingMin ≤ m ∧ m ≤ q + markSpacingMax := by
    unfold Timebase.regainsAt Timebase.countMark
    cases h : t.lastMark with
    | none => simp
    | some q => by_cases k : q + markSpacingMin ≤ m ∧ m ≤ q + markSpacingMax <;> by_cases z : t.regain = 0 <;> simp [k, z]
  exact key

/-- A cause makes a boundary exactly where the timebase has one for it. -/
theorem State.makesBoundary_iff (s : State) (c : BoundaryCause) :
    s.makesBoundary c ↔ (s.time.boundaryAt c).isSome = true := by
  cases c with
  | mark m =>
    have r := Timebase.regainsAt_iff s.time m
    simp only [State.makesBoundary, State.regainsAt, Timebase.boundaryAt, markSpacingMin, markSpacingMax, ← r]
    by_cases p : s.time.refPresent = true
    · have q : s.time.regainsAt m = false := by simp [Timebase.regainsAt, p]
      by_cases a : s.time.lastBoundary + 125000 ≤ m <;> by_cases b : m ≤ s.time.lastBoundary + 375000 <;> simp [p, q, a, b]
    · by_cases q : s.time.regainsAt m = true <;> by_cases a : s.time.lastBoundary + 125000 ≤ m <;> simp [p, q, a]
  | oscillator => cases h : s.time.refPresent <;> simp [State.makesBoundary, Timebase.boundaryAt, h]
  | lost => cases h : s.time.refPresent <;> simp [State.makesBoundary, Timebase.boundaryAt, h]

/-- A boundary leaves the site time of the timebase to its own step: its cause does not touch it. -/
theorem Timebase.boundaryAt_keeps {t u : Timebase} {c : BoundaryCause} (h : t.boundaryAt c = some u) :
    u.clockRunning = t.clockRunning ∧ u.seconds = t.seconds ∧ u.frame = t.frame ∧ u.pendingSeconds = t.pendingSeconds
      ∧ t.lastBoundary ≤ u.lastBoundary := by
  unfold Timebase.boundaryAt at h
  cases c <;> simp only at h <;> split at h
  · cases h; rename_i k; exact ⟨rfl, rfl, rfl, rfl, by have := k.2.1; simp [markSpacingMin] at *; omega⟩
  · split at h
    · cases h; rename_i k; exact ⟨rfl, rfl, rfl, rfl, by have := k.2; simp [markSpacingMin] at *; omega⟩
    · cases h
  · cases h
  · cases h; exact ⟨rfl, rfl, rfl, rfl, Nat.le_add_right _ _⟩
  · cases h; exact ⟨rfl, rfl, rfl, rfl, Nat.le_add_right _ _⟩
  · cases h

/-- A cause that makes no boundary in a state is no event there. -/
theorem State.boundary_of_none {s : State} {c : BoundaryCause} (h : ¬s.makesBoundary c) : s.boundary c = s := by
  rw [State.makesBoundary_iff] at h
  unfold State.boundary
  cases k : s.time.boundaryAt c with
  | none => rfl
  | some t => exact absurd (by rw [k]; rfl) h

/-! ### What a boundary hands on where no activation is pending -/

theorem State.bankNext_of_none {s : State} (h : s.pendingAct = none) : s.bankNext = s.activeBank := by
  simp [State.bankNext, h]

theorem State.not_startsAnew_of_none {s : State} (h : s.pendingAct = none) (n : Nat) : ¬s.startsAnew n := by
  simp [State.startsAnew, State.bankNext_of_none h]

theorem State.not_entersIdle_of_none {s : State} (h : s.pendingAct = none) (n : Nat) : ¬s.entersIdle n := by
  simp [State.entersIdle, State.bankNext_of_none h]

theorem State.slotNext_of_none {s : State} (h : s.pendingAct = none) (n : Nat) : s.slotNext n = s.slot n := by
  simp [State.slotNext, h]

/-- Without an adoption and without a restart of windows a store goes into its decision as it is. -/
theorem State.storeNext_of_none {s : State} (h : s.pendingAct = none) (k : s.rate.pendingK = none) (n : Nat) :
    s.storeNext n = s.store n := by
  unfold State.storeNext
  rw [if_neg (State.not_startsAnew_of_none h n), if_neg (State.not_entersIdle_of_none h n), if_pos k]

theorem State.rateNext_of_none {s : State} (h : s.pendingAct = none) (k : s.rate.pendingK = none) (n : Nat) :
    s.rateNext n = s.rateOf n := by
  unfold State.rateNext
  rw [if_neg (State.not_startsAnew_of_none h n), if_neg (State.not_entersIdle_of_none h n), if_pos k]

theorem State.defectNext_of_none {s : State} (h : s.pendingAct = none) (k : s.rate.pendingK = none) (n : Nat) :
    s.defectNext n = s.defect n := by
  have clear : ¬(n ∈ s.bankNext.referenced ∧ (s.slot n).mismatch = true ∧ (s.slotNext n).mismatch = false) := by
    rw [State.slotNext_of_none h]
    rintro ⟨-, a, b⟩
    rw [a] at b
    cases b
  unfold State.defectNext
  simp only [if_neg (State.not_startsAnew_of_none h n), if_neg (State.not_entersIdle_of_none h n), if_neg clear, if_pos k]

/-! ### Group timers and settled events (R113, R137, R140) -/

/-- A group whose timers did not run when the boundary began keeps its record, whatever the boundary has started. -/
theorem GroupRec.countTimers_of_idle {start : GroupRec} (w : start.working.timer = 0) (p : start.protect.timer = 0)
    (h : start.restore = 0) (r : GroupRec) : start.countTimers r = r := by
  cases r
  unfold GroupRec.countTimers
  split <;> simp [w, p, h]

/-- The count of the model is the count of R140, said of one record. -/
theorem GroupRec.countTimers_eq (start r : GroupRec) : start.countTimers r = start.counted r := by
  have side (a b : SideRec) : (if a.timer = 0 then b else b.count) = a.counted b := by
    unfold SideRec.counted SideRec.count
    by_cases x : a.timer = 0
    · simp [x]
    · by_cases y : b.timer = 0
      · simp [x, y]; cases b; simp_all
      · by_cases z : b.timer = 1 <;> simp [x, y, z]
  unfold GroupRec.countTimers GroupRec.counted
  cases k : r.settings with
  | none => simp
  | some d => simp [side]

/-- A side whose source keeps its raw condition keeps its record. -/
@[simp] theorem SideRec.meets_same (h : Nat) (c : Cond) (sd : SideRec) : sd.meets h c c = sd := by simp [SideRec.meets]

/-- A group meets no change where there is none. -/
@[simp] theorem GroupRec.meets_same (g : Nat) (sec : Word) (fr : Nat) (raw : Nat → Cond) (r : GroupRec) :
    r.meets g sec fr raw raw = (r, []) := by
  unfold GroupRec.meets
  cases r.settings <;> simp

@[simp] theorem GroupRec.meetsWindowEnd_same (g : Nat) (sec : Word) (fr : Nat) (raw : Nat → Cond) (r : GroupRec) :
    r.meetsWindowEnd g sec fr raw raw = r := by
  unfold GroupRec.meetsWindowEnd
  cases r.settings <;> simp

/-- An event that changes no raw condition settles nothing. -/
theorem Settled.event_of_unchanged (t : State) {sources : List Nat} {after : Nat → Cond} {v : Settled}
    (h : ∀ n ∈ sources, v.raw n = after n) : v.event t sources after = v := by
  unfold Settled.event
  have none : sources.filter (fun n => v.raw n != after n) = [] := by
    rw [List.filter_eq_nil_iff]
    intro n m
    simp [h n m]
  simp [none]

/-- A boundary that is no window end settles nothing of one. -/
theorem Settled.windowEnd_of_not {s : State} (h : ¬s.endsWindow) (t : State) (v : Settled) : v.windowEnd s t = v := if_neg h

/-- Without an adoption the groups' timers are counted, before the window end or after it. -/
theorem State.settledAt_of_none {s : State} (h : s.pendingAct = none) (t : State) (first : Nat → Bool) :
    s.settledAt t first
      = ((s.settled.countTimers s t first).windowEnd s t).countTimers s t (fun g => !first g) := if_pos h

/-- Once start-up has finished, a boundary's notices follow those that waited. -/
theorem State.beforeNotices_of_finished {s : State} (h : s.image.finished = true) (t : State) :
    s.beforeNotices t = { t with linkA := s.linkA.waited, linkB := s.linkB.waited } := by
  simp [State.beforeNotices, h]

/-! ### Lines and cut pages (R13, R179) -/

/-- A line carries as many bytes as its time has room for. -/
@[simp] theorem lineCarries_length (frame : List Byte) (l : LineNo) (span : Nat) :
    (lineCarries frame l span).length = lineBytesIn l span := by
  simp only [lineCarries, List.length_append, List.length_take, List.length_replicate]
  omega

/-- Over 250 microseconds a line has room for exactly one frame. -/
theorem lineBytesIn_period (l : LineNo) : lineBytesIn l 250000 = frameLength l := by
  unfold lineBytesIn
  exact Nat.mul_div_cancel_left _ (by decide)

/-- A cut page has 256 bytes. -/
@[simp] theorem cutPageBytes_length (event p : Nat) : (cutPageBytes event p).length = 256 := by
  unfold cutPageBytes
  dsimp only
  split <;> simp

/-- A cut page 0 does not pass as a header. -/
theorem headerPasses_cutPageBytes (event : Nat) : headerPasses (cutPageBytes event 0) = false := by
  unfold cutPageBytes
  dsimp only
  split
  · simp [headerPasses, markPresent, value2]
  · rename_i h
    cases k : headerPasses ((List.range 256).map (Config.cutByte event)) with
    | false => rfl
    | true => exact absurd ⟨rfl, k⟩ h

end Sys2Proof.Machine
end

