-- ==== Sys2Proof/Laws/Notices.lean ====
section
/-! SUPPORT. What offering notices can do (R168, R169): which fields it leaves, and what one notice, or the notices of one
block, become. -/

namespace Sys2Proof.Machine

/-! ### Filing -/

@[simp] theorem LinkState.file_overrun (l : LinkState) (n : Notice) : (l.file n).overrun = l.overrun := by
  unfold LinkState.file LinkState.evalAlert; split <;> [rfl; (split <;> rfl)]
@[simp] theorem LinkState.file_untaken (l : LinkState) (n : Notice) : (l.file n).untaken = l.untaken := by
  unfold LinkState.file LinkState.evalAlert; split <;> [rfl; (split <;> rfl)]
@[simp] theorem LinkState.file_response (l : LinkState) (n : Notice) : (l.file n).response = l.response := by
  unfold LinkState.file LinkState.evalAlert; split <;> [rfl; (split <;> rfl)]
@[simp] theorem LinkState.file_mask (l : LinkState) (n : Notice) : (l.file n).mask = l.mask := by
  unfold LinkState.file LinkState.evalAlert; split <;> [rfl; (split <;> rfl)]

/-- Filing touches the queue, the lost flag and the alert line only (R169). -/
theorem LinkState.file_rest (l : LinkState) (n : Notice) : (l.file n).besideNotices = l.besideNotices := by
  unfold LinkState.file LinkState.evalAlert; split <;> [rfl; (split <;> rfl)]

/-- A queue of at most 32 notices keeps that bound (R169). -/
theorem LinkState.file_bound (l : LinkState) (n : Notice) (h : l.queue.length ≤ 32) : (l.file n).queue.length ≤ 32 := by
  unfold LinkState.file LinkState.evalAlert
  split
  · exact h
  · split
    · exact h
    · simp only [List.length_append, List.length_singleton]; omega

/-! ### Offering -/

@[simp] theorem State.offerOne_link (s : State) (n : Notice) (x : Link) : (s.offerOne n).link x = (s.link x).file n := by
  cases x <;> rfl

section Fields

variable (s : State) (n : Notice)

@[simp] theorem State.offerOne_pending : (s.offerOne n).pending = s.pending := rfl
@[simp] theorem State.offerOne_lifs : (s.offerOne n).lifs = s.lifs := rfl
@[simp] theorem State.offerOne_slots : (s.offerOne n).slots = s.slots := rfl
@[simp] theorem State.offerOne_sentParity : (s.offerOne n).sentParity = s.sentParity := rfl
@[simp] theorem State.offerOne_time : (s.offerOne n).time = s.time := rfl
@[simp] theorem State.offerOne_stores : (s.offerOne n).stores = s.stores := rfl
@[simp] theorem State.offerOne_rate : (s.offerOne n).rate = s.rate := rfl
@[simp] theorem State.offerOne_rates : (s.offerOne n).rates = s.rates := rfl
@[simp] theorem State.offerOne_banks : (s.offerOne n).banks = s.banks := rfl
@[simp] theorem State.offerOne_holds : (s.offerOne n).holds = s.holds := rfl
@[simp] theorem State.offerOne_active : (s.offerOne n).active = s.active := rfl
@[simp] theorem State.offerOne_pendingAct : (s.offerOne n).pendingAct = s.pendingAct := rfl
@[simp] theorem State.offerOne_mapEngine : (s.offerOne n).mapEngine = s.mapEngine := rfl
@[simp] theorem State.offerOne_egress : (s.offerOne n).egress = s.egress := rfl
@[simp] theorem State.offerOne_ended : (s.offerOne n).ended = s.ended := rfl
@[simp] theorem State.offerOne_lineDefects : (s.offerOne n).lineDefects = s.lineDefects := rfl
@[simp] theorem State.offerOne_defects : (s.offerOne n).defects = s.defects := rfl
@[simp] theorem State.offerOne_watches : (s.offerOne n).watches = s.watches := rfl
@[simp] theorem State.offerOne_patterns : (s.offerOne n).patterns = s.patterns := rfl
@[simp] theorem State.offerOne_groups : (s.offerOne n).groups = s.groups := rfl
@[simp] theorem State.offerOne_image : (s.offerOne n).image = s.image := rfl
@[simp] theorem State.offerOne_flash : (s.offerOne n).flash = s.flash := rfl
@[simp] theorem State.offerOne_choices : (s.offerOne n).choices = s.choices := rfl

end Fields

/-- Only the links and the MODEL count of free choices differ between two states. -/
structure State.SameButLinks (s t : State) : Prop where
  rest  : { t with linkA := s.linkA, linkB := s.linkB, choices := s.choices } = s
  links : ∀ x, (t.link x).besideNotices = (s.link x).besideNotices

theorem State.SameButLinks.refl (s : State) : s.SameButLinks s := ⟨rfl, fun _ => rfl⟩

theorem State.SameButLinks.trans {s t u : State} (h : s.SameButLinks t) (k : t.SameButLinks u) : s.SameButLinks u := by
  refine ⟨?_, fun x => (k.links x).trans (h.links x)⟩
  have h1 := h.rest; have h2 := k.rest
  rw [← h1, ← h2]

theorem State.offerOne_same (s : State) (n : Notice) : s.SameButLinks (s.offerOne n) :=
  ⟨rfl, fun x => by rw [State.offerOne_link]; exact LinkState.file_rest _ _⟩

theorem State.offerAll_same (ns : List Notice) (s : State) : s.SameButLinks (ns.foldl State.offerOne s) := by
  induction ns generalizing s with
  | nil => exact .refl s
  | cons n rest ih => exact (State.offerOne_same s n).trans (ih _)

/-- The end of an event touches the links' queues, lost flags and alert lines, and the MODEL count, and nothing else
(R168, R169). -/
theorem Ev.offer_same (e : Ev) : e.st.SameButLinks e.offer := by
  unfold Ev.offer
  refine (State.offerAll_same (offeringOrder e.st.choices e.raised) e.st).trans ?_
  dsimp only
  split
  · exact ⟨rfl, fun x => by cases x <;> rfl⟩
  · exact .refl _

section Offered

variable (e : Ev)

@[simp] theorem Ev.offer_pending : e.offer.pending = e.st.pending := by rw [← congrArg State.pending e.offer_same.rest]
@[simp] theorem Ev.offer_lifs : e.offer.lifs = e.st.lifs := by rw [← congrArg State.lifs e.offer_same.rest]
@[simp] theorem Ev.offer_slots : e.offer.slots = e.st.slots := by rw [← congrArg State.slots e.offer_same.rest]
@[simp] theorem Ev.offer_sentParity : e.offer.sentParity = e.st.sentParity := by
  rw [← congrArg State.sentParity e.offer_same.rest]
@[simp] theorem Ev.offer_time : e.offer.time = e.st.time := by rw [← congrArg State.time e.offer_same.rest]
@[simp] theorem Ev.offer_stores : e.offer.stores = e.st.stores := by rw [← congrArg State.stores e.offer_same.rest]
@[simp] theorem Ev.offer_rate : e.offer.rate = e.st.rate := by rw [← congrArg State.rate e.offer_same.rest]
@[simp] theorem Ev.offer_rates : e.offer.rates = e.st.rates := by rw [← congrArg State.rates e.offer_same.rest]
@[simp] theorem Ev.offer_banks : e.offer.banks = e.st.banks := by rw [← congrArg State.banks e.offer_same.rest]
@[simp] theorem Ev.offer_holds : e.offer.holds = e.st.holds := by rw [← congrArg State.holds e.offer_same.rest]
@[simp] theorem Ev.offer_active : e.offer.active = e.st.active := by rw [← congrArg State.active e.offer_same.rest]
@[simp] theorem Ev.offer_pendingAct : e.offer.pendingAct = e.st.pendingAct := by
  rw [← congrArg State.pendingAct e.offer_same.rest]
@[simp] theorem Ev.offer_mapEngine : e.offer.mapEngine = e.st.mapEngine := by
  rw [← congrArg State.mapEngine e.offer_same.rest]
@[simp] theorem Ev.offer_egress : e.offer.egress = e.st.egress := by rw [← congrArg State.egress e.offer_same.rest]
@[simp] theorem Ev.offer_ended : e.offer.ended = e.st.ended := by rw [← congrArg State.ended e.offer_same.rest]
@[simp] theorem Ev.offer_lineDefects : e.offer.lineDefects = e.st.lineDefects := by
  rw [← congrArg State.lineDefects e.offer_same.rest]
@[simp] theorem Ev.offer_defects : e.offer.defects = e.st.defects := by rw [← congrArg State.defects e.offer_same.rest]
@[simp] theorem Ev.offer_watches : e.offer.watches = e.st.watches := by rw [← congrArg State.watches e.offer_same.rest]
@[simp] theorem Ev.offer_patterns : e.offer.patterns = e.st.patterns := by
  rw [← congrArg State.patterns e.offer_same.rest]
@[simp] theorem Ev.offer_groups : e.offer.groups = e.st.groups := by rw [← congrArg State.groups e.offer_same.rest]
@[simp] theorem Ev.offer_image : e.offer.image = e.st.image := by rw [← congrArg State.image e.offer_same.rest]
@[simp] theorem Ev.offer_flash : e.offer.flash = e.st.flash := by rw [← congrArg State.flash e.offer_same.rest]

theorem LinkState.of_besideNotices {k l : LinkState} (h : k.besideNotices = l.besideNotices) :
    k = { l with queue := k.queue, lost := k.lost, alert := k.alert } := by
  obtain ⟨⟩ := k
  obtain ⟨⟩ := l
  simp only [LinkState.besideNotices, LinkState.mk.injEq] at h ⊢
  simp_all

@[simp] theorem Ev.offer_untaken (x : Link) : (e.offer.link x).untaken = (e.st.link x).untaken := by
  rw [LinkState.of_besideNotices (e.offer_same.links x)]
@[simp] theorem Ev.offer_response (x : Link) : (e.offer.link x).response = (e.st.link x).response := by
  rw [LinkState.of_besideNotices (e.offer_same.links x)]
@[simp] theorem Ev.offer_overrun (x : Link) : (e.offer.link x).overrun = (e.st.link x).overrun := by
  rw [LinkState.of_besideNotices (e.offer_same.links x)]

end Offered

/-- Offering keeps the bound of both queues (R169). -/
theorem Ev.offer_bound (e : Ev) (h : e.st.QueuesBounded) : e.offer.QueuesBounded := by
  have all : ∀ (ns : List Notice) (s : State), s.QueuesBounded → (ns.foldl State.offerOne s).QueuesBounded := by
    intro ns
    induction ns with
    | nil => exact fun s hs => hs
    | cons n rest ih =>
      refine fun s hs => ih _ (fun x => ?_)
      rw [State.offerOne_link]
      exact LinkState.file_bound _ _ (hs x)
  unfold Ev.offer
  dsimp only
  split
  · intro x
    have := all (offeringOrder e.st.choices e.raised) e.st h x
    cases x <;> exact this
  · exact all _ _ h

/-! ### Raising -/

@[simp] theorem Ev.start_st (s : State) : (Ev.start s).st = s := rfl
@[simp] theorem Ev.start_raised (s : State) : (Ev.start s).raised = [] := rfl
@[simp] theorem Ev.modify_st (e : Ev) (f : State → State) : (e.modify f).st = f e.st := rfl
@[simp] theorem Ev.modify_raised (e : Ev) (f : State → State) : (e.modify f).raised = e.raised := rfl
@[simp] theorem Ev.raise_st (e : Ev) (b : Block) (n : NoticeBody) : (e.raise b n).st = e.st := by
  unfold Ev.raise; split <;> rfl
@[simp] theorem Ev.raiseAll_st (e : Ev) (b : Block) (ns : List NoticeBody) : (e.raiseAll b ns).st = e.st := by
  unfold Ev.raiseAll
  induction ns generalizing e with
  | nil => rfl
  | cons n rest ih => rw [List.foldl_cons, ih, Ev.raise_st]

/-- An event that raises nothing ends in its own state. -/
@[simp] theorem Ev.offer_start (s : State) : (Ev.start s).offer = s := by
  simp [Ev.offer, offeringOrder, noticesOf, interleave, mixedBlocks]

/-- An event that raises one notice offers it (R168). -/
theorem Ev.offer_raise_start (s : State) (b : Block) (body : NoticeBody) :
    ((Ev.start s).raise b body).offer = s.notify body := by
  unfold Ev.raise State.notify
  cases hf : s.image.finished with
  | false => simp [hf]
  | true => cases b <;> simp [Ev.offer, offeringOrder, noticesOf, interleave, mixedBlocks, hf]

end Sys2Proof.Machine
end

