-- ==== Sys2Proof/Laws/Commands.lean ====
section
/-! SUPPORT. The step, and the take of a command (R158, R159): said once. -/

namespace Sys2Proof.Machine

theorem step_cons (s : State) (c : Instr) (rest : List Instr) :
    step { s with pending := c :: rest } = exec c { s with pending := rest } := rfl

/-- Everything a step can do: it takes the front command, or idles on an empty queue. -/
theorem step_cases {s : State} {o : Answer} (h : step s = o) :
    (s.pending = [] ∧ o = .next s) ∨ ∃ c rest, s.pending = c :: rest ∧ o = exec c { s with pending := rest } := by
  unfold step at h
  cases hp : s.pending with
  | nil => rw [hp] at h; exact .inl ⟨rfl, h.symm⟩
  | cons c rest => rw [hp] at h; exact .inr ⟨c, rest, rfl, h.symm⟩

/-- A command that is not the link's untaken one does not come about. -/
theorem takeCommand_absent {code : Byte} {d : Bool} {x : Link} {judge : List Byte → State → Judged} {s : State}
    (h : ∀ args, ¬ s.waits x code args) : takeCommand code d x judge s = .next s := by
  unfold takeCommand
  cases hu : (s.link x).untaken with
  | none => rfl
  | some f =>
    obtain ⟨c, args⟩ := f
    have hc : c ≠ code := fun hc => h args (by unfold State.waits; rw [hu, hc])
    simp [hc]

/-- The take of a waiting command: judged, its notices offered, its reply written. -/
theorem takeCommand_waits {code : Byte} {d : Bool} {x : Link} {judge : List Byte → State → Judged} {s : State}
    {args : List Byte} (h : s.waits x code args) (hs : s.image.finished = true ∨ d = true) :
    takeCommand code d x judge s
      = .next ((judge args s).1.offer.setLink x (((judge args s).1.offer.link x).respond code (judge args s).2)) := by
  have hc : (!d && !s.image.finished) = false := by rcases hs with h | h <;> simp [h]
  unfold takeCommand
  rw [show (s.link x).untaken = some ⟨code, args⟩ from h]
  simp [hc]

/-- Before start-up has finished a command that is not answered then gets STARTING, and nothing else is done (R159). -/
theorem takeCommand_starting {code : Byte} {x : Link} {judge : List Byte → State → Judged} {s : State}
    {args : List Byte} (h : s.waits x code args) (hs : s.image.finished = false) :
    takeCommand code false x judge s = .next (s.answered x code (Reply.refuse .starting)) := by
  unfold takeCommand
  rw [show (s.link x).untaken = some ⟨code, args⟩ from h]
  simp [hs, refused, State.answered]

/-- A refused command is answered and changes nothing else (R161). -/
theorem takeCommand_refused {code : Byte} {d : Bool} {x : Link} {judge : List Byte → State → Judged} {s : State}
    {args : List Byte} {o : RespCode} (h : s.waits x code args) (hs : s.image.finished = true ∨ d = true)
    (hj : judge args s = refused s o) :
    takeCommand code d x judge s = .next (s.answered x code (Reply.refuse o)) := by
  rw [takeCommand_waits h hs, hj]; rfl

/-- An executed command whose event raises nothing: the new state, answered. -/
theorem takeCommand_executed {code : Byte} {d : Bool} {x : Link} {judge : List Byte → State → Judged} {s t : State}
    {args : List Byte} {r : Reply} (h : s.waits x code args) (hs : s.image.finished = true ∨ d = true)
    (hj : judge args s = executed t r) : takeCommand code d x judge s = .next (t.answered x code r) := by
  rw [takeCommand_waits h hs, hj]; rfl

end Sys2Proof.Machine
end

