-- ==== Sys2Proof/Laws/Monitor.lean ====
section
/-! SUPPORT. What an event of the Defect Monitor can touch (R113): every such event leaves a state that agrees with the
one before as `State.SameButMonitor` says. -/

namespace Sys2Proof.Machine

namespace State.SameButMonitor

theorem refl (s : State) : s.SameButMonitor s := by
  constructor <;> first | rfl | exact fun _ => rfl

theorem trans {s t u : State} (h : s.SameButMonitor t) (k : t.SameButMonitor u) : s.SameButMonitor u where
  pending := k.pending.trans h.pending
  lifs := k.lifs.trans h.lifs
  slots := k.slots.trans h.slots
  sentParity := k.sentParity.trans h.sentParity
  time := k.time.trans h.time
  stores := k.stores.trans h.stores
  rate := k.rate.trans h.rate
  rates := k.rates.trans h.rates
  banks := k.banks.trans h.banks
  holds := k.holds.trans h.holds
  active := k.active.trans h.active
  pendingAct := k.pendingAct.trans h.pendingAct
  mapEngine := k.mapEngine.trans h.mapEngine
  egress := k.egress.trans h.egress
  ended := k.ended.trans h.ended
  lineDefects := k.lineDefects.trans h.lineDefects
  defects := fun n => (k.defects n).trans (h.defects n)
  watches := fun n => (k.watches n).trans (h.watches n)
  patterns := fun n => (k.patterns n).trans (h.patterns n)
  settings := fun n => (k.settings n).trans (h.settings n)
  locks := fun n => (k.locks n).trans (h.locks n)
  links := fun n => (k.links n).trans (h.links n)
  image := k.image.trans h.image
  flash := k.flash.trans h.flash

end State.SameButMonitor

theorem Ev.offer_sameButMonitor (e : Ev) : e.st.SameButMonitor e.offer where
  pending := by simp
  lifs := by simp
  slots := by simp
  sentParity := by simp
  time := by simp
  stores := by simp
  rate := by simp
  rates := by simp
  banks := by simp
  holds := by simp
  active := by simp
  pendingAct := by simp
  mapEngine := by simp
  egress := by simp
  ended := by simp
  lineDefects := by simp
  defects := fun n => by simp [State.defect]
  watches := fun n => by simp [State.watch]
  patterns := fun n => by simp [State.pattern]
  settings := fun n => by simp [State.group]
  locks := fun n => by simp [State.group]
  links := e.offer_same.links
  image := by simp
  flash := by simp

theorem State.setWatch_same (s : State) (n : Nat) (w : Watch) (h : w.besideLatch = (s.watch n).besideLatch) :
    s.SameButMonitor (s.setWatch n w) := by
  constructor <;> first | rfl | (intro m; simp) | skip
  intro m
  rw [State.setWatch_watch]
  split
  · rename_i hm; rw [hm]; exact h
  · rfl

theorem State.setPattern_same (s : State) (n : Nat) (w : Pattern) (h : w.besideLatch = (s.pattern n).besideLatch) :
    s.SameButMonitor (s.setPattern n w) := by
  constructor <;> first | rfl | (intro m; simp) | skip
  intro m
  rw [State.setPattern_pattern]
  split
  · rename_i hm; rw [hm]; exact h
  · rfl

theorem State.setDefect_same (s : State) (n : Nat) (d : DefectRec) (h : d.besideRaw = (s.defect n).besideRaw) :
    s.SameButMonitor (s.setDefect n d) := by
  constructor <;> first | rfl | (intro m; simp) | skip
  intro m
  rw [State.setDefect_defect]
  split
  · rename_i hm; rw [hm]; exact h
  · rfl

theorem State.setGroup_same (s : State) (g : Nat) (r : GroupRec) (h : r.settings = (s.group g).settings)
    (k : r.lock = (s.group g).lock) : s.SameButMonitor (s.setGroup g r) := by
  constructor <;> first | rfl | (intro m; simp) | skip
  · intro m
    rw [State.setGroup_group]
    split
    · rename_i hm; rw [hm]; exact h
    · rfl
  · intro m
    rw [State.setGroup_group]
    split
    · rename_i hm; rw [hm]; exact k
    · rfl

/-! ### Groups -/

@[simp] theorem GroupRec.settle_settings (d : GroupDef) (r : GroupRec) : (r.settle d).settings = r.settings := by
  unfold GroupRec.settle; split <;> rfl
@[simp] theorem GroupRec.settle_lock (d : GroupDef) (r : GroupRec) : (r.settle d).lock = r.lock := by
  unfold GroupRec.settle; split <;> rfl

/-- An evaluation keeps the settings of a group (R141). -/
@[simp] theorem GroupRec.evaluate_settings (g : Nat) (sec : Word) (fr : Nat) (r : GroupRec) :
    (r.evaluate g sec fr).1.settings = r.settings := by
  unfold GroupRec.evaluate
  cases hs : r.settings with
  | none => simpa using hs
  | some d => dsimp only; split <;> simp [GroupRec.switchTo, hs]

/-- An evaluation keeps the stamp lock of a group (R146). -/
@[simp] theorem GroupRec.evaluate_lock (g : Nat) (sec : Word) (fr : Nat) (r : GroupRec) :
    (r.evaluate g sec fr).1.lock = r.lock := by
  unfold GroupRec.evaluate
  cases hs : r.settings with
  | none => rfl
  | some d => dsimp only; split <;> simp [GroupRec.switchTo]

@[simp] theorem GroupRec.takeChanges_settings (c : List RawChange) (r : GroupRec) :
    (r.takeChanges c).settings = r.settings := by
  unfold GroupRec.takeChanges; split <;> simp_all
@[simp] theorem GroupRec.takeChanges_lock (c : List RawChange) (r : GroupRec) :
    (r.takeChanges c).lock = r.lock := by
  unfold GroupRec.takeChanges; split <;> simp_all

theorem Ev.evaluateGroup_st (g : Nat) (r : GroupRec) (e : Ev) :
    (e.evaluateGroup g r).st = e.st.setGroup g (r.evaluate g e.st.time.seconds e.st.time.frame).1 := by
  simp [Ev.evaluateGroup]

theorem Ev.evaluateGroup_same (g : Nat) (r : GroupRec) (e : Ev) (h : r.settings = (e.st.group g).settings)
    (k : r.lock = (e.st.group g).lock) : e.st.SameButMonitor (e.evaluateGroup g r).st := by
  rw [Ev.evaluateGroup_st]
  exact State.setGroup_same _ _ _ (by simp [h]) (by simp [k])

/-- A fold of events each of which touches no more than an event of the Defect Monitor may. -/
theorem Ev.foldl_same {α : Type} (f : Ev → α → Ev) (h : ∀ (e : Ev) (a : α), e.st.SameButMonitor (f e a).st)
    (l : List α) (e : Ev) :
    e.st.SameButMonitor (l.foldl f e).st := by
  induction l generalizing e with
  | nil => exact .refl _
  | cons a rest ih => exact (h e a).trans (ih (f e a))

theorem Ev.deliverChanges_same (c : List RawChange) (e : Ev) : e.st.SameButMonitor (e.deliverChanges c).st := by
  unfold Ev.deliverChanges
  refine Ev.foldl_same _ (fun e g => ?_) _ e
  split
  · exact Ev.evaluateGroup_same _ _ _ (by simp) (by simp)
  · exact .refl _

/-! ### Watches and pattern sets -/

theorem Ev.latchWatch_same (n : Nat) (e : Ev) : e.st.SameButMonitor (e.latchWatch n).st := by
  unfold Ev.latchWatch
  dsimp only
  split
  · rw [Ev.raise_st, Ev.modify_st]
    exact State.setWatch_same _ _ _ rfl
  · exact .refl _

theorem Ev.evalLevelWatch_same (n : Nat) (e : Ev) : e.st.SameButMonitor (e.evalLevelWatch n).st := by
  unfold Ev.evalLevelWatch
  split
  · exact Ev.latchWatch_same n e
  · exact .refl _

theorem Ev.evalWatchAtChange_same (c : RawChange) (e : Ev) : e.st.SameButMonitor (e.evalWatchAtChange c).st := by
  unfold Ev.evalWatchAtChange
  split
  · exact Ev.evalLevelWatch_same _ e
  · split
    · exact Ev.latchWatch_same _ e
    · exact .refl _

theorem Ev.evalPattern_same (p : Nat) (e : Ev) : e.st.SameButMonitor (e.evalPattern p).st := by
  unfold Ev.evalPattern
  dsimp only
  split
  · rw [Ev.raise_st, Ev.modify_st]
    exact State.setPattern_same _ _ _ rfl
  · exact .refl _

theorem Ev.evalPatterns_same (e : Ev) : e.st.SameButMonitor e.evalPatterns.st :=
  Ev.foldl_same _ (fun e p => Ev.evalPattern_same p e) _ e

/-! ### Raw conditions -/

theorem State.storeRaw_same (s : State) (c : List RawChange) : s.SameButMonitor (s.storeRaw c) := by
  unfold State.storeRaw
  induction c generalizing s with
  | nil => exact .refl _
  | cons a rest ih =>
    exact (State.setDefect_same s a.source { s.defect a.source with raw := a.new } rfl).trans (ih _)

/-- The end of an event at the Defect Monitor touches no more than R113 says. -/
theorem Ev.settleRaw_same (touched : List Nat) (e : Ev) : e.st.SameButMonitor (e.settleRaw touched).st := by
  unfold Ev.settleRaw
  dsimp only
  split
  · exact .refl _
  · refine State.SameButMonitor.trans ?_ (Ev.evalPatterns_same _)
    refine State.SameButMonitor.trans ?_ (Ev.foldl_same _ (fun e c => Ev.evalWatchAtChange_same c e) _ _)
    exact (State.storeRaw_same e.st (e.st.rawChanges touched)).trans
      (Ev.deliverChanges_same _ (e.modify (·.storeRaw (e.st.rawChanges touched))))

end Sys2Proof.Machine
end

