-- ==== Sys2Proof/Laws/Operands.lean ====
section
/-! SUPPORT. What the forms of arguments and results do (R184): a quantity written and read again is itself, and what each
hold test says (R76). -/

namespace Sys2Proof.Machine

/-- A 2-byte quantity reads back (R184). -/
theorem value2_byte2 (n : Nat) (h : n < 65536) : value2 (BitVec.ofNat 8 (n / 256)) (BitVec.ofNat 8 n) = n := by
  simp only [value2, BitVec.toNat_ofNat]; omega

/-- A 1-byte quantity reads back (R184). -/
theorem byte1_toNat (n : Nat) (h : n < 256) : (BitVec.ofNat 8 n).toNat = n := by
  simp only [BitVec.toNat_ofNat]; omega

/-- A 2-byte quantity is a value of 16 bits. -/
theorem value2_lt (hi lo : Byte) : value2 hi lo < 65536 := by
  have h1 := hi.isLt
  have h2 := lo.isLt
  unfold value2; omega

/-- The number of a bank reads back as that bank (R51). -/
theorem bankOf_val (b : BankNo) : bankOf (BitVec.ofNat 8 b.val) = some b := by
  revert b; decide

/-- A flag reads back (R184). -/
theorem flagOf_flagByte (b : Bool) : flagOf (flagByte b) = some b := by cases b <;> rfl

/-- A width reads back (file 12). -/
theorem widthOf_toNat (w : Width) : widthOf w.toNat = some w := by cases w <;> rfl

/-- Everything a width field can be (R54, R59). -/
theorem widthOf_eq_some {n : Nat} {w : Width} (h : widthOf n = some w) : n = w.toNat := by
  unfold widthOf at h
  (repeat' split at h) <;> cases h <;> assumption

/-- The controller kinds read back from their codes (file 12). -/
theorem controllerKind_code {k : ReqKind} (h : k ∈ [ReqKind.manualWorking, .manualProtect, .forceProtect, .holdWorking]) :
    controllerKind (BitVec.ofNat 8 k.code) = some k := by
  simp only [List.mem_cons, List.mem_nil_iff, or_false] at h
  rcases h with rfl | rfl | rfl | rfl <;> rfl

/-- A bank has a hold (R76). -/
theorem HoldRec.noHold_eq_false (h : HoldRec) : h.noHold = false ↔ h ≠ ⟨none, none⟩ := by
  rcases h with ⟨_ | a, _ | b⟩ <;> simp [HoldRec.noHold]

/-- A bank has no hold (R76). -/
theorem HoldRec.noHold_eq_true (h : HoldRec) : h.noHold = true ↔ h = ⟨none, none⟩ := by
  rcases h with ⟨_ | a, _ | b⟩ <;> simp [HoldRec.noHold]

/-- A bank is write-held (R76). -/
theorem HoldRec.writeHeld_eq_true (h : HoldRec) :
    h.writeHeld = true ↔ h.mapEngine = some .write ∨ h.image = some .write := by
  rcases h with ⟨_ | _ | _, _ | _ | _⟩ <;> simp [HoldRec.writeHeld]

/-- The sum of bytes modulo 256 (R157, R160). -/
theorem byteSum_eq (l : List Byte) : byteSum l = BitVec.ofNat 8 (l.map BitVec.toNat).sum := by
  have : ∀ a : Byte, l.foldl (· + ·) a = a + BitVec.ofNat 8 (l.map BitVec.toNat).sum := by
    induction l with
    | nil => simp
    | cons b r ih => intro a; rw [List.foldl_cons, ih]; simp [BitVec.ofNat_add, BitVec.add_assoc]
  simp [byteSum, this]

end Sys2Proof.Machine
end

