-- ==== Sys2Proof/Laws/Stores.lean ====
section
/-! SUPPORT. Everything an arrival and a decision can do to an elastic store (R20 to R38): its outcomes, its bounds, and the
bytes it hands the Switch. -/

namespace Sys2Proof.Machine

/-- Everything an arrival can do (R22 to R24). -/
theorem Store.arrive_cases (bs : List Byte) (st : Store) :
    (st.state = .idle ∧ st.arrive bs = (st, false))
      ∨ (st.state ≠ .idle ∧ st.bytes.length + bs.length ≤ 256 * st.w
        ∧ st.arrive bs = ({ st with bytes := st.bytes ++ bs }, false))
      ∨ (st.state ≠ .idle ∧ 256 * st.w < st.bytes.length + bs.length
        ∧ st.arrive bs = ({ st with
            bytes := ((st.bytes ++ bs).take (256 * st.w)).drop (128 * st.w)
            integrator := 0, slips := min (st.slips + 1) 255 }, true)) := by
  by_cases h : st.state = .idle
  · exact .inl ⟨h, by simp [Store.arrive, h]⟩
  · by_cases k : st.bytes.length + bs.length ≤ 256 * st.w
    · exact .inr (.inl ⟨h, k, by simp [Store.arrive, h, Store.fill, k]⟩)
    · refine .inr (.inr ⟨h, by omega, ?_⟩)
      have : ((st.bytes ++ bs).take (256 * st.w)).length - 128 * st.w = 128 * st.w := by
        simp only [List.length_take, List.length_append]; omega
      unfold Store.arrive
      simp only [h, if_false, Store.fill, k, this, bumpSlips]

/-- An arrival changes neither the state nor the width of a store. -/
theorem Store.arrive_keeps (bs : List Byte) (st : Store) :
    (st.arrive bs).1.state = st.state ∧ (st.arrive bs).1.width = st.width := by
  rcases st.arrive_cases bs with ⟨_, h⟩ | ⟨_, _, h⟩ | ⟨_, _, h⟩ <;> rw [h] <;> exact ⟨rfl, rfl⟩

theorem clampIntegrator_bounds (i : Int) : -4095 ≤ clampIntegrator i ∧ clampIntegrator i ≤ 4095 := by
  unfold clampIntegrator; omega

/-- The integrator stays within its range after every decision (R28). -/
theorem justify_bounds (j w f : Nat) (i : Int) : -4095 ≤ (justify j w f i).2 ∧ (justify j w f i).2 ≤ 4095 := by
  unfold justify
  have h := clampIntegrator_bounds (i + ((f : Int) - 128 * w))
  dsimp only
  split
  · exact ⟨by decide, by decide⟩
  · split
    · exact ⟨by decide, by decide⟩
    · split
      · exact ⟨by dsimp only; omega, by dsimp only; omega⟩
      · split
        · exact ⟨by dsimp only; omega, by dsimp only; omega⟩
        · exact h

/-- A RUNNING decision hands over exactly the bytes its code asks for (R25, R31, R32). -/
theorem Store.decideRunning_length (j : Nat) (st : Store) :
    (st.decideRunning j).2.1.bytes.length = takeCount (st.decideRunning j).2.1.code st.w := by
  unfold Store.decideRunning
  dsimp only
  split
  · rename_i h
    simp only [Store.fill] at h ⊢
    simp only [List.length_take]; omega
  · rename_i h
    simp only [Store.fill] at h ⊢
    simp only [List.length_append, List.length_replicate]; omega

/-- An IDLE store makes no decision (R25). -/
theorem Store.decide_idle (j : Nat) (st : Store) (h : st.state = .idle) : st.decide j = (st, none, false) := by
  unfold Store.decide; rw [h]

/-- A decision keeps the width of a store, and an IDLE store IDLE and no other (R26 to R31). -/
theorem Store.decide_keeps (j : Nat) (st : Store) :
    (st.decide j).1.width = st.width ∧ ((st.decide j).1.state = .idle ↔ st.state = .idle) := by
  unfold Store.decide
  cases h : st.state
  · simp [h]
  · dsimp only
    split
    · simp
    · unfold Store.decideRunning; dsimp only; split <;> simp
  · unfold Store.decideRunning; dsimp only; split <;> simp

/-- A take that is not a PRIMING decision has the bytes of its code at the store's width (R25, R31, R32). -/
theorem Store.decide_take {j : Nat} {st : Store} {t : Take} (h : (st.decide j).2.1 = some t) (hp : t.priming = false) :
    t.bytes.length = takeCount t.code st.w := by
  unfold Store.decide at h
  cases hs : st.state <;> simp only [hs] at h
  · simp at h
  · split at h
    · simp only [Option.some.injEq] at h; subst h; simp at hp
    · simp only [Option.some.injEq] at h
      subst h
      exact Store.decideRunning_length j { st with state := .running, integrator := 0 }
  · simp only [Option.some.injEq] at h
    subst h
    exact Store.decideRunning_length j st

end Sys2Proof.Machine
end

