-- ==== Sys2Proof/Tests/Slice0.lean ====
section
/-! SUPPORT. Small tests: ill-formed operands refused, one event at a time against values of the spec's own text and
tables, and for every statement a concrete state and operands that meet its hypotheses, clause by clause. -/

namespace Sys2Proof.Tests

open Sys2Proof Sys2Proof.Machine

set_option Elab.async false

/-! ### Helpers -/

/-- The state an event leaves; the state before it where the command is refused. -/
def after (c : Instr) (s : State) : State :=
  match exec c s with
  | .next t => t
  | .fault _ => s
  | .refused _ => s

/-- A command waits on a link. -/
def put (x : Link) (code : Byte) (args : List Byte) (s : State) : State :=
  s.setLink x { s.link x with untaken := some ⟨code, args⟩ }

/-- Start-up has finished with bank 2 active, every table at its reset values. -/
def ready : State :=
  { State.reset with
    holds := Table.empty, active := some 2, image := ⟨none, true, some .blankStore, some .blankStore⟩
    time := { Timebase.reset with clockRunning := true } }

/-- A group of width 4: working 0, protect 8, revertive, no hold-off. -/
def pair : GroupDef := ⟨.w4, 0, 8, true, 0, 1⟩

/-- A bank with two sources of width 4, a group of them, and a SOURCE, a GROUP and a FOLLOW head. -/
def plan : Bank :=
  { map := ⟨[(16, .source .w4 0 (some 0x21#8)), (20, .group .w4 0 none), (24, .follow .w4 16 none)]⟩
    profiles := ⟨[(0, some ⟨.w4, some 0x15#8, 30⟩), (8, some ⟨.w4, none, 0⟩)]⟩
    groups := ⟨[(0, some pair)]⟩
    revision := 5 }

/-- The group of `plan` in service. -/
def pairRec : GroupRec := { GroupRec.reset with settings := some pair }

/-- Bank 2 is `plan` and active; line 0 is LOCKED, source 0 RUNNING at fill 600 and source 8 PRIMING. -/
def live : State :=
  { ready with
    banks := ⟨[(2, plan)]⟩
    lifs := ⟨[(0, ⟨true, .locked, 2, 0, some 3320, false⟩)]⟩
    lineDefects := ⟨[(0, ⟨false, false⟩)]⟩
    stores := ⟨[(0, ⟨.running, some .w4, 100, .nominal, 0, 3, 1, true, List.replicate 600 0x07#8⟩),
      (8, ⟨.priming, some .w4, 0, .nominal, 0, 0, 0, false, List.replicate 300 0x09#8⟩)]⟩
    groups := ⟨[(0, pairRec)]⟩ }

/-- A frame of line 0: nominal code, phase 0, tag 15h in every slot. -/
def frame0 : List RxSlot := List.replicate 48 ⟨0x00#8, 0x15#8, List.replicate 65 0x31#8⟩

/-! ### Ill-formed operands -/

theorem test_frame_with_too_few_slots_ill_formed :
    (Instr.ingressArrival 0 (List.replicate 47 ⟨0, 0, List.replicate 65 0⟩)).wellFormed = false := by decide +kernel
theorem test_frame_with_a_short_slot_ill_formed :
    (Instr.ingressArrival 0 (List.replicate 48 ⟨0, 0, List.replicate 64 0⟩)).wellFormed = false := by decide +kernel
theorem test_wave_frame_on_a_feeder_ill_formed :
    (Instr.ingressArrival 3 (List.replicate 384 ⟨0, 0, List.replicate 65 0⟩)).wellFormed = false := by decide +kernel
theorem test_page_of_255_bytes_ill_formed :
    (Instr.pageReadCompletion (.received (List.replicate 255 0))).wellFormed = false := by decide +kernel
theorem test_skip_that_opens_a_write_ill_formed :
    (Instr.skippedTransfer .a (.start 0x01#8)).wellFormed = false := by decide
theorem test_whole_skip_that_opens_a_read_ill_formed :
    (Instr.skippedTransfer .b (.whole 0x02#8 0)).wellFormed = false := by decide
theorem test_ill_formed_page_refused :
    exec (.pageReadCompletion (.received [])) ready = .refused .illFormed := rfl
theorem test_no_word_spells_a_command : decodeTableWord 32 0x12345678 = none := rfl

/-! ### Lines (R2 to R11) -/

/-- R7, the table's five rows. -/
theorem test_codes_of_the_table :
    [0x54#8, 0x88#8, 0x18#8, 0xF0#8, 0xD4#8].map codeTaken
      = [(.advance, false), (.retard, false), (.nominal, true), (.nominal, true), (.advance, false)] := by decide
theorem test_signal_absent_of_a_locked_line :
    ((after (.signalAbsent 0) live).lif 0).align = .hunt
      ∧ (after (.signalAbsent 0) live).lineDefect 0 = ⟨true, true⟩
      ∧ ((after (.signalAbsent 0) live).defect 0).raw = .failed := by decide +kernel
/-- R131: the working source's failure moves the group to PROTECT only where the protect side is better; both fail here. -/
theorem test_both_sides_failed_stay_on_working :
    ((after (.signalAbsent 0) live).group 0).governing = .failProtect
      ∧ ((after (.signalAbsent 0) live).group 0).selection = .working := by decide +kernel
theorem test_signal_present : ((after (.signalPresent 5) ready).lif 5).signal = true
    ∧ ((after (.signalPresent 5) ready).lineDefect 5) = ⟨false, true⟩ := by decide +kernel
theorem test_find_then_second_hit_locks :
    let s1 := after (.alignmentFind 5 100 0x4E971DC2#32) (after (.signalPresent 5) ready)
    let s2 := after (.confirmWord 5 0x4E971DC2#32) s1
    (s1.lif 5).expected = some 3320 ∧ (s2.lif 5).confirm = 1 ∧ (s2.lif 5).expected = some 6540
      ∧ ((after (.confirmWord 5 0x4E971DC2#32) s2).lif 5).align = .locked := by decide +kernel
theorem test_miss_in_confirm_returns_to_hunt :
    ((after (.confirmWord 0 0) (live.setLif 0 ⟨true, .confirm, 1, 0, some 9, false⟩)).lif 0).align = .hunt := by
  decide +kernel
theorem test_fourth_miss_loses_the_frame :
    ((after (.lockedWord 0 0) (live.setLif 0 ⟨true, .locked, 2, 3, some 9, false⟩)).lineDefect 0).lost = true
      ∧ ((after (.lockedWord 0 0) (live.setLif 0 ⟨true, .locked, 2, 2, some 9, false⟩)).lif 0).miss = 3 := by
  decide +kernel
theorem test_arrival_fills_the_stores :
    ((after (.ingressArrival 0 frame0) live).store 0).bytes.length = 856
      ∧ ((after (.ingressArrival 0 frame0) live).slot 0).candidate = some ⟨0x15#8, 1⟩ := by decide +kernel

/-! ### Stores and rates (R19 to R50) -/

/-- R27: "a sampled fill of 242 gives an advance of 65 bytes and leaves I at 0"; 80 gives a retard of 63. -/
theorem test_guards_at_width_1 : justify 256 1 242 900 = (.advance, 0) ∧ justify 256 1 80 900 = (.retard, 0) := by decide
/-- R28: one justification subtracts J once, and the sum is clamped at 4095. -/
theorem test_integrator_at_width_1 :
    justify 256 1 138 250 = (.advance, 4) ∧ justify 256 1 128 256 = (.advance, 0)
      ∧ justify 256 1 118 (-250) = (.retard, -4) ∧ justify 2048 1 200 4090 = (.advance, 2047)
      ∧ justify 256 1 130 253 = (.nominal, 255) := by decide
/-- R45: one unit of N at k = 12 and w = 1 is 38.1 tenths; N = 859 is the smallest that saturates. -/
theorem test_estimate_of_the_table :
    saturateEstimate (rateQuotient 12 1 1 0) = (38, false) ∧ saturateEstimate (rateQuotient 12 1 0 1) = (-38, false)
      ∧ saturateEstimate (rateQuotient 12 1 858 0) = (32730, false)
      ∧ saturateEstimate (rateQuotient 12 1 859 0) = (32767, true)
      ∧ saturateEstimate (rateQuotient 12 2 1718 0) = (32767, true) := by decide +kernel
/-- R115: T = 2, one event leaves the level; T = 1, any event sets it and none clears it. -/
theorem test_degrade_hysteresis :
    degradeAfter 2 1 true = false ∧ degradeAfter 3 2 true = true ∧ degradeAfter 3 2 false = false
      ∧ degradeAfter 1 1 false = true ∧ degradeAfter 1 0 true = false ∧ degradeAfter 0 9 true = false := by decide

/-! ### Boundaries (R16, R17, R25, R96) -/

theorem test_first_boundary_starts_the_clock :
    (after .oscillatorBoundary State.reset).time = { Timebase.reset with clockRunning := true, lastBoundary := 250000 }
      ∧ (after .oscillatorBoundary State.reset).rate.counter = 1 := by decide +kernel
theorem test_running_store_advances :
    ((after .oscillatorBoundary live).store 0).integrator = 188
      ∧ ((after .oscillatorBoundary live).store 0).bytes.length = 344 := by decide +kernel
theorem test_priming_source_sends_marked_filler :
    ((after .oscillatorBoundary (live.setGroup 0 { pairRec with selection := .protect })).egress.map
      (fun f => (f.content.get Content.idle 20).marker)) = some true := by decide +kernel
theorem test_follow_head_copies_its_source :
    ((after .oscillatorBoundary live).egress.map (fun f =>
      ((f.content.get Content.idle 24).payload.length, (f.content.get Content.idle 24).resolved))) = some (256, some 0) := by
  decide +kernel
theorem test_reference_lost : (after .referenceLost { ready with time := ⟨true, 0, 1000, none, true, 7, 12, none⟩ }).time
    = ⟨false, 0, 376000, none, true, 7, 13, none⟩ := by decide +kernel
theorem test_early_mark_disregarded :
    (after (.frameMark 125999) { ready with time := ⟨true, 0, 1000, none, true, 7, 12, none⟩ }).time.frame = 12
      ∧ (after (.frameMark 126000) { ready with time := ⟨true, 0, 1000, none, true, 7, 12, none⟩ }).time.frame = 13 := by
  decide +kernel
theorem test_regain_gap : (after .regainGap { ready with time := ⟨false, 9, 1000, some 5, true, 7, 12, none⟩ }).time.regain
    = 0 := by decide +kernel
/-- R16: the 16th good mark is no boundary where it comes less than 125 microseconds after the last one, and is one else. -/
theorem test_sixteenth_mark :
    (after (.frameMark 125999) { ready with time := ⟨false, 15, 1000, some 999, true, 7, 12, none⟩ }).time
        = ⟨true, 0, 1000, none, true, 7, 12, none⟩
      ∧ (after (.frameMark 126000) { ready with time := ⟨false, 15, 1000, some 1000, true, 7, 12, none⟩ }).time
        = ⟨true, 0, 126000, none, true, 7, 13, none⟩ := by decide +kernel
/-- R13: after 125 microseconds half of a feeder's 3,220 bytes are out; after 375 microseconds 1,610 bytes 00h follow. -/
theorem test_line_cut_and_filled :
    (lineCarries (List.replicate 3220 0x31#8) 0 125000).length = 1610
      ∧ (lineCarries (List.replicate 3220 0x31#8) 0 375000).drop 3219 = 0x31#8 :: List.replicate 1610 0x00#8 := by
  decide +kernel
theorem test_second_rollover :
    (after (.secondRollover .oscillator) { ready with time := ⟨false, 0, 0, none, true, 0xFFFFFFFF#32, 3999, none⟩ }).time
      = ⟨false, 0, 250000, none, true, 0, 0, none⟩ := by decide +kernel
theorem test_window_end_takes_the_estimate :
    let s : State := { live with groups := Table.empty, rate := { live.rate with counter := 4095 } }
    (after (.windowEnd .oscillator) s).rate.counter = 0
      ∧ (after (.windowEnd .oscillator) s).rateOf 0 = ⟨19, true, false, false, false⟩ := by decide +kernel
theorem test_hold_off_expiry :
    let s := live.setGroup 0 { pairRec with working := ⟨.failed, .ok, 1⟩ }
    ((after (.holdOffExpiry 0 .working .oscillator) s).group 0).governing = .failWorking
      ∧ ((after (.holdOffExpiry 0 .working .oscillator) s).group 0).selection = .protect := by decide +kernel
/-- R140: a boundary counted after a window end keeps what the window end has given the group; its timer, which ran before,
expires, and the working side's new condition takes effect. -/
theorem test_late_count_keeps_the_window_end :
    let met : GroupRec := { pairRec with working := ⟨.degraded, .ok, 1⟩, protect := ⟨.failed, .failed, 0⟩ }
    let e := Ev.countGroup { pairRec with working := ⟨.failed, .ok, 1⟩ } 0 (Ev.start (live.setGroup 0 met))
    (e.st.group 0).working = ⟨.degraded, .degraded, 0⟩ ∧ (e.st.group 0).protect = ⟨.failed, .failed, 0⟩ := by decide +kernel
theorem test_restore_wait_expiry :
    let s := live.setGroup 0 { pairRec with selection := .protect, restore := 1, governing := .restoreWait }
    ((after (.restoreWaitExpiry 0 .oscillator) s).group 0).governing = .noRequest
      ∧ ((after (.restoreWaitExpiry 0 .oscillator) s).group 0).selection = .working := by decide +kernel
theorem test_alert_delay_expiry :
    let q : Queued := ⟨⟨.timing true, 0, 0⟩, 7⟩
    let s := ready.setLink .a { ready.linkA with queue := [q], batch := 8, delay := 2 }
    (after (.alertDelayExpiry .a .oscillator) s).linkA.alert = true := by decide +kernel
/-- Bank 1 takes over from `plan`: its group and sources go, and the notice is BANK_ACTIVATED. -/
theorem test_adoption :
    let s : State := { live with
      pendingAct := some ⟨1, 0⟩, mapEngine := some (.activatePending 1 0), holds := ⟨[(1, ⟨some .read, none⟩)]⟩ }
    let t := after (.adoption .oscillator) s
    t.active = some 1 ∧ t.store 0 = Store.reset ∧ t.group 0 = GroupRec.reset ∧ t.hold 1 = ⟨none, none⟩
      ∧ (t.linkB.queue.map (·.notice.body)) = [.bankActivated 1 0 (some 2)] := by decide +kernel

/-! ### Map Engine and Image Store Controller -/

theorem test_plan_is_consistent : plan.check = none := by decide +kernel
/-- R71 before R73: the group and the SOURCE entry both miss source 0, and the group is reported. -/
theorem test_missing_profile_breaks_the_group :
    (plan.setProfile 0 none).check = some ⟨.groups, 0, 2⟩ := by decide +kernel
/-- R72: entry 16 names an undefined source and covers an entry that is not IDLE; C3 is reported before C4. -/
theorem test_members_before_the_rule_of_the_kind :
    ({ plan with map := (plan.map.set .idle 16 (.source .w4 12 none)).set .idle 18 (.source .w1 3 none) } : Bank).check
      = some ⟨.map, 16, 3⟩ := by decide +kernel
theorem test_clear_completion :
    let s : State := { live with mapEngine := some (.clear 1), holds := ⟨[(1, ⟨some .write, none⟩)]⟩ }
    (after .clearCompletion s).bank 1 = { Bank.reset with revision := 1 }
      ∧ (after .clearCompletion s).mapEngine = none := by decide +kernel
theorem test_copy_completion :
    let s : State := { live with
      mapEngine := some (.copy 2 1), holds := ⟨[(1, ⟨some .write, none⟩), (2, ⟨some .read, none⟩)]⟩ }
    (after .copyCompletion s).bank 1 = { plan with revision := 1 }
      ∧ (after .copyCompletion s).holds = Table.empty := by decide +kernel
theorem test_verify_completion :
    let s : State := { live with mapEngine := some (.verify 2 5), holds := ⟨[(2, ⟨some .read, none⟩)]⟩ }
    ((after .verifyCompletion s).linkA.queue.map (·.notice.body)) = [.opDone .verify 2 5 .ok] := by decide +kernel
theorem test_activation_check_end :
    let s : State := { live with mapEngine := some (.activateCheck 1 0), holds := ⟨[(1, ⟨some .read, none⟩)]⟩ }
    (after .activationCheckEnd s).pendingAct = some ⟨1, 0⟩ := by decide +kernel
/-- R178: an erased flash holds no format mark; start-up falls back to bank 2 (R182). -/
theorem test_blank_flash_falls_back :
    let t := after (.pageReadCompletion .stored) State.reset
    t.mapEngine = some (.activateCheck 2 0) ∧ t.image.toReport = some .blankStore ∧ t.hold 0 = ⟨none, none⟩ := by
  decide +kernel
theorem test_header_read_goes_to_page_1 :
    ((after (.pageReadCompletion (.received (headerPage 3 9))) State.reset).image.op.map (·.page)) = some (some 1) := by
  decide +kernel
theorem test_page_write_after_the_invalid_header :
    let op : ImageOp := ⟨.save, 2, 5, 2, some 0, 0, 9, false, []⟩
    let s : State := { live with image := { live.image with op := some op } }
    ((after .pageWriteCompletion s).flashPage 0).take 4 = [0, 0, 0, 0]
      ∧ (after .pageWriteCompletion s).image.op = some { op with page := some 1 } := by decide +kernel
theorem test_reset_line_keeps_the_flash :
    (after (.resetLine true false) (live.setFlashPage 3 [1])).flashPage 3 = [1]
      ∧ (after (.resetLine true false) live).linkA.decoder = .skipping
      ∧ (after (.resetLine true false) live).active = none := by decide +kernel

/-! ### Links (R156 to R160) -/

/-- READ STATUS as a frame: 01h 00h FFh. -/
theorem test_frame_accepted :
    (after (.frameArrival .a (.whole [0x01#8, 0x00#8, 0xFF#8])) ready).linkA.untaken = some ⟨0x01#8, []⟩
      ∧ (after (.frameArrival .a (.whole [0x01#8, 0x00#8, 0xFE#8])) ready).linkA.response.outcome = .frameError := by
  decide +kernel
/-- R156, R160: 00h in the first byte; then NO_COMMAND with m = 0, the status word and the check byte. -/
theorem test_read_transfer_sums_to_zero :
    (after (.readTransfer .b (.whole 6)) ready).linkB.sent = [0x00#8, 0x00#8, 0x03#8, 0x00#8, 0xEC#8, 0x00#8, 0x11#8] := by
  decide +kernel
theorem test_write_transfer_sends_zeros :
    (after (.frameArrival .a (.whole [0x01#8, 0x00#8, 0xFF#8])) ready).linkA.sent = [0, 0, 0, 0] := by decide +kernel
theorem test_skipped_transfer : (after (.skippedTransfer .a (.start 0x77#8)) ready).linkA.decoder = .skipping
    ∧ (after (.skippedTransfer .a (.whole 0x77#8 2)) ready).linkA.sent = [0, 0, 0] := by decide +kernel

/-! ### Commands: one answer each -/

theorem test_read_status : (after (.readStatus .b) (put .b 0x01#8 [] State.reset)).linkB.response
    = ⟨0x01#8, .done, false, [0x01#8, 0x00#8, 0x00#8]⟩ := by decide +kernel
theorem test_set_parameters_clamps :
    (after (.setParameters .a) (put .a 0x02#8 [0x00#8, 0x3F#8, 0x09#8, 0x80#8, 0x00#8, 0x04#8] ready)).rate
      = ⟨12, some 10, 0, 64, 32767, 3⟩ := by decide +kernel
theorem test_link_reset : (after (.linkReset .a) (put .a 0x03#8 [] (ready.notify (.timing true)))).linkA.queue = [] := by
  decide +kernel
theorem test_subscribe : (after (.subscribe .a) (put .a 0x04#8 [0xFE#8, 0x05#8] ready)).linkA.mask = 5#9 := by
  decide +kernel
theorem test_set_alert : (after (.setAlert .a) (put .a 0x05#8 [0x00#8, 0x03#8, 0xE9#8] ready)).linkA.response
    = ⟨0x05#8, .done, true, [0x01#8, 0x03#8, 0xE8#8, 0x00#8]⟩ := by decide +kernel
theorem test_read_notices :
    (after (.readNotices .a) (put .a 0x06#8 [0x01#8] (ready.notify (.timing true)))).linkA.response.result.length = 19 := by
  decide +kernel
theorem test_set_time : (after (.setTime .a) (put .a 0x07#8 [0x00#8, 0x01#8, 0x00#8, 0x02#8] ready)).time.pendingSeconds
    = some 65538 := by decide +kernel
theorem test_read_time : (after (.readTime .a) (put .a 0x08#8 [] State.reset)).linkA.response.result.length = 12 := by
  decide +kernel
theorem test_read_lines : (after (.readLines .a) (put .a 0x09#8 [] live)).linkA.response.result.take 5
    = [0x00#8, 0x01#8, 0x02#8, 0x02#8, 0x00#8] := by decide +kernel
/-- 04, Staging Writes: profile 357 is not aligned to 2; group 5 is clamped to hold-off 100 and restore wait 1. -/
theorem test_write_profile_misaligned :
    (after (.writeProfile .a) (put .a 0x11#8 [1, 0x01#8, 0x65#8, 0x82#8, 0, 0, 0] ready)).linkA.response.outcome
      = .badArgument := by decide +kernel
theorem test_write_group_clamps :
    ((after (.writeGroup .a)
      (put .a 0x12#8 [1, 5, 0xC2#8, 0x01#8, 0x64#8, 0x04#8, 0xAA#8, 150, 0, 0] ready)).bank 1).groupDef 5
      = some ⟨.w2, 356, 1194, true, 100, 1⟩ := by decide +kernel
theorem test_write_entry :
    ((after (.writeEntry .a) (put .a 0x10#8 [1, 0x03#8, 0x3C#8, 1, 2, 0x01#8, 0x64#8, 0, 0] ready)).bank 1).entry 828
      = .source .w2 356 none := by decide +kernel
theorem test_write_to_the_active_bank :
    (after (.writeEntry .a) (put .a 0x10#8 [2, 0, 0, 0, 0, 0, 0, 0, 0] live)).linkA.response.outcome = .activeBank := by
  decide +kernel
theorem test_read_entries : (after (.readEntries .a) (put .a 0x13#8 [2, 0, 16, 1] live)).linkA.response.result
    = [2, 0, 5, 1, 0, 16, 1, 1, 4, 0, 0, 1, 0x21#8] := by decide +kernel
theorem test_read_profiles : (after (.readProfiles .a) (put .a 0x14#8 [2, 0, 0, 1] live)).linkA.response.result
    = [2, 0, 5, 1, 0, 0, 1, 0xC4#8, 0x15#8, 0, 30] := by decide +kernel
theorem test_read_groups : (after (.readGroups .a) (put .a 0x15#8 [2, 0, 1] live)).linkA.response.result
    = [2, 0, 5, 1, 0, 1, 0xC4#8, 0, 0, 0, 8, 0, 1, 0] := by decide +kernel
theorem test_clear_bank : (after (.clearBank .a) (put .a 0x16#8 [1] ready)).hold 1 = ⟨some .write, none⟩ := by
  decide +kernel
theorem test_copy_bank : (after (.copyBank .a) (put .a 0x17#8 [2, 1] ready)).mapEngine = some (.copy 2 1) := by
  decide +kernel
theorem test_verify_bank : (after (.verifyBank .a) (put .a 0x18#8 [2] live)).mapEngine = some (.verify 2 5) := by
  decide +kernel
theorem test_activate_bank_stale :
    (after (.activateBank .a) (put .a 0x19#8 [1, 0, 9] live)).linkA.response = ⟨0x19#8, .stale, false, [1, 0, 0]⟩ := by
  decide +kernel
theorem test_push_request : ((after (.pushRequest .b) (put .b 0x20#8 [0, 7] live)).group 0).selection = .protect := by
  decide +kernel
theorem test_withdraw_request :
    (after (.withdrawRequest .b) (put .b 0x21#8 [0, 7] live)).linkB.response.outcome = .notPresent := by decide +kernel
theorem test_withdraw_all :
    (after (.withdrawAll .b) (put .b 0x22#8 [9] live)).linkB.response.outcome = .notDefined := by decide +kernel
theorem test_read_group_state :
    (after (.readGroupState .a) (put .a 0x23#8 [0] live)).linkA.response.result.length = 29 := by decide +kernel
theorem test_read_stamp : (after (.readStamp .a) (put .a 0x24#8 [0] live)).linkA.response.result
    = [0, 1, 0, 0, 0, 0, 0, 0, 0, 0, 0, 0, 0, 0, 0, 0] := by decide +kernel
theorem test_set_stamp_lock : ((after (.setStampLock .a) (put .a 0x25#8 [0, 1] live)).group 0).lock = true := by
  decide +kernel
theorem test_read_source : (after (.readSource .a) (put .a 0x28#8 [0, 0] live)).linkA.response.outcome = .done := by
  decide +kernel
/-- R119: an enabled LEVEL watch with polarity FALSE holds at a source that is OK, and latches at once. -/
theorem test_set_watch : ((after (.setWatch .a) (put .a 0x29#8 [0, 0, 1, 0, 0, 0, 3, 0xFF#8] live)).watch 0).latch = true := by
  decide +kernel
theorem test_read_latches :
    (after (.readLatches .a) (put .a 0x2A#8 [] (live.setWatch 8 { Watch.reset with latch := true }))).linkA.response.result
      = [1, 0, 8, 0, 0, 0, 0, 0, 0, 0, 0, 0] := by decide +kernel
theorem test_ack_latch :
    ((after (.ackLatch .a) (put .a 0x2B#8 [0, 8] (live.setWatch 8 { Watch.reset with latch := true }))).watch 8).latch
      = false := by decide +kernel
theorem test_set_pattern : (after (.setPattern .a) (put .a 0x2C#8 [7, 1, 15] live)).pattern 7 = ⟨true, 15, false⟩ := by
  decide +kernel
theorem test_ack_pattern :
    (after (.ackPattern .a) (put .a 0x2D#8 [8] live)).linkA.response.outcome = .badArgument := by decide +kernel
theorem test_save_image : (after (.saveImage .a) (put .a 0x30#8 [2] live)).hold 2 = ⟨none, some .read⟩ := by
  decide +kernel
theorem test_load_image : (after (.loadImage .a) (put .a 0x31#8 [2] live)).linkA.response.outcome = .activeBank := by
  decide +kernel
theorem test_verify_image : ((after (.verifyImage .a) (put .a 0x32#8 [1] live)).image.op.map (·.op)) = some .verifyImage := by
  decide +kernel

/-! ### The canonical form of the two states the witnesses start from -/

theorem live_canonical : live.Canonical := by
  constructor <;> decide +kernel

theorem reset_canonical : State.reset.Canonical := by
  constructor <;> decide +kernel

/-! ### Witnesses: states and operands that meet the hypotheses of the statements, clause by clause -/

theorem witness_EveryDeliverableCommandCompletes :
    (Instr.readStatus .a).wellFormed = true ∧ (Instr.pageReadCompletion (.received [])).wellFormed = false := by decide

theorem witness_StartingAnswersTheOtherCommands :
    ((0x02#8, Instr.setParameters .a) ∈ startingCommands .a ∧ (put .a 0x02#8 [] State.reset).waits .a 0x02#8 [])
      ∧ ((0x32#8, Instr.verifyImage .b) ∈ startingCommands .b ∧ (put .b 0x32#8 [0] State.reset).waits .b 0x32#8 [0])
      ∧ State.reset.image.finished = false := ⟨⟨by decide, rfl⟩, ⟨by decide, rfl⟩, rfl⟩

/-- A wrong length, a value refused, and an argument that is neither. -/
theorem witness_WrongArgumentLengthIsRefused :
    ((0x02#8, [0, 6], Instr.setParameters .a, fun _ => False) ∈ argumentRules .a
        ∧ (put .a 0x02#8 [1, 2, 3, 4, 5] ready).waits .a 0x02#8 [1, 2, 3, 4, 5]
        ∧ ([1, 2, 3, 4, 5] : List Byte).length ∉ [0, 6])
      ∧ ((0x06#8, [1], Instr.readNotices .b, fun a => argByte a 0 = 0) ∈ argumentRules .b
        ∧ (put .b 0x06#8 [0] ready).waits .b 0x06#8 [0] ∧ argByte [0] 0 = 0
        ∧ (put .b 0x06#8 [1] ready).waits .b 0x06#8 [1] ∧ ([1] : List Byte).length ∈ [1] ∧ argByte [1] 0 ≠ 0)
      ∧ ready.image.finished = true := by
  refine ⟨⟨by simp [argumentRules], rfl, by decide⟩, ⟨by simp [argumentRules], rfl, rfl, rfl, ?_, ?_⟩, rfl⟩ <;> decide

theorem witness_ReadsAnsweredAtAnyTime :
    (put .b 0x01#8 [] State.reset).waits .b 0x01#8 [] ∧ (put .a 0x08#8 [] live).waits .a 0x08#8 []
      ∧ (put .a 0x09#8 [] live).waits .a 0x09#8 [] := ⟨rfl, rfl, rfl⟩

theorem witness_SetParametersClampsAndStores :
    ready.image.finished = true ∧ (put .a 0x02#8 [] ready).waits .a 0x02#8 []
      ∧ (put .a 0x02#8 (byte2 63 ++ byte1 15 ++ byte2 32768 ++ byte1 255) ready).waits .a 0x02#8
        (byte2 63 ++ byte1 15 ++ byte2 32768 ++ byte1 255)
      ∧ 63 < 65536 ∧ 15 < 256 ∧ 32768 < 65536 ∧ 255 < 256 :=
  ⟨rfl, rfl, rfl, by decide, by decide, by decide, by decide⟩

theorem witness_LinkResetClearsItsOwnLink :
    (put .b 0x03#8 [] (ready.notify (.timing true))).waits .b 0x03#8 []
      ∧ (put .b 0x03#8 [] (ready.notify (.timing true))).image.finished = true := ⟨rfl, rfl⟩

theorem witness_SubscriptionAndAlertSettings :
    ready.image.finished = true ∧ (put .a 0x04#8 [] ready).waits .a 0x04#8 []
      ∧ (put .a 0x04#8 (byte2 65535) ready).waits .a 0x04#8 (byte2 65535) ∧ 65535 < 65536
      ∧ (put .a 0x05#8 [] ready).waits .a 0x05#8 []
      ∧ (put .a 0x05#8 (byte1 0 ++ byte2 1001) ready).waits .a 0x05#8 (byte1 0 ++ byte2 1001) :=
  ⟨rfl, rfl, rfl, by decide, rfl, rfl⟩

theorem witness_ReadNoticesRemovesTheOldest :
    ready.image.finished = true ∧ (put .a 0x06#8 (byte1 1) ready).waits .a 0x06#8 (byte1 1)
      ∧ (put .a 0x06#8 (byte1 255) ready).waits .a 0x06#8 (byte1 255) ∧ 0 < 1 ∧ 255 < 256 :=
  ⟨rfl, rfl, rfl, by decide, by decide⟩

theorem witness_SetTimeOnlySetsThePendingSeconds :
    ready.image.finished = true
      ∧ (put .a 0x07#8 (byte4 (0xFFFFFFFF#32).toNat) ready).waits .a 0x07#8 (byte4 (0xFFFFFFFF#32).toNat) := ⟨rfl, rfl⟩

theorem witness_AcceptedWriteReplacesOneRecord :
    (live.image.finished = true ∧ live.active ≠ some 1 ∧ (live.hold 1).mapEngine = none ∧ (live.hold 1).image = none)
      ∧ (decodeEntry 1535 [1, 1, 0x05#8, 0xFF#8, 1, 9] = some (.source .w1 1535 (some 9#8))
        ∧ (put .a 0x10#8 (byte1 1 ++ byte2 1535 ++ [1, 1, 0x05#8, 0xFF#8, 1, 9]) live).waits .a 0x10#8
          (byte1 1 ++ byte2 1535 ++ [1, 1, 0x05#8, 0xFF#8, 1, 9]))
      ∧ (decodeProfile 8 [0x88#8, 0, 0x10#8, 0] = some (some ⟨.w8, none, 4096⟩)
        ∧ (put .a 0x11#8 (byte1 1 ++ byte2 8 ++ [0x88#8, 0, 0x10#8, 0]) live).waits .a 0x11#8
          (byte1 1 ++ byte2 8 ++ [0x88#8, 0, 0x10#8, 0]))
      ∧ (decodeGroup [0x81#8, 0, 0, 0, 1, 101, 73, 0] = some (some ⟨.w1, 0, 1, false, 101, 73⟩)
        ∧ (put .a 0x12#8 (byte1 1 ++ byte1 255 ++ [0x81#8, 0, 0, 0, 1, 101, 73, 0]) live).waits .a 0x12#8
          (byte1 1 ++ byte1 255 ++ [0x81#8, 0, 0, 0, 1, 101, 73, 0])) :=
  ⟨⟨rfl, by decide, rfl, rfl⟩, ⟨by decide, rfl⟩, ⟨by decide, rfl⟩, ⟨by decide, rfl⟩⟩

/-- Clause 1 on the active bank 2, clause 2 on bank 1 while it is read-held. -/
theorem witness_RefusedWriteChangesNothing :
    ((decodeEntry 0 [0, 0, 0, 0, 0, 0]).isSome = true
        ∧ (put .a 0x10#8 (byte1 2 ++ byte2 0 ++ [0, 0, 0, 0, 0, 0]) live).waits .a 0x10#8
          (byte1 2 ++ byte2 0 ++ [0, 0, 0, 0, 0, 0]) ∧ live.active = some 2)
      ∧ ((decodeProfile 1535 [0, 0, 0, 0]).isSome = true ∧ (decodeGroup [0, 0, 0, 0, 0, 0, 0, 0]).isSome = true
        ∧ ((live.mapHold 1 (some .read)).hold 1).mapEngine ≠ none ∧ (live.mapHold 1 (some .read)).active ≠ some 1) :=
  ⟨⟨by decide, rfl, rfl⟩, by decide, by decide, by decide, by decide⟩

/-- Boundary values: an index of 1536, a bank of 3, a profile of width 3, a group whose second source is slot 1536. -/
theorem witness_LocalChecksOfTheWrites :
    (1535 < 1536 ∧ (0x7F#8).toNat < 128 ∧ (0x00#8).toNat = 0 ∧ ready.image.finished = true)
      ∧ ((put .a 0x10#8 (byte1 2 ++ byte2 1536 ++ [0, 0, 0, 0, 0, 0]) ready).waits .a 0x10#8
        (byte1 2 ++ byte2 1536 ++ [0, 0, 0, 0, 0, 0]))
      ∧ (profileRefused 0 [0x83#8, 0, 0, 0] ∧ (put .a 0x11#8 (byte1 3 ++ byte2 0 ++ [0x83#8, 0, 0, 0]) ready).waits .a 0x11#8
        (byte1 3 ++ byte2 0 ++ [0x83#8, 0, 0, 0]))
      ∧ (groupRefused [0x81#8, 0, 0, 6, 0, 0, 0, 0]
        ∧ (put .a 0x12#8 (byte1 2 ++ byte1 255 ++ [0x81#8, 0, 0, 6, 0, 0, 0, 0]) ready).waits .a 0x12#8
          (byte1 2 ++ byte1 255 ++ [0x81#8, 0, 0, 6, 0, 0, 0, 0])) :=
  ⟨⟨by decide, by decide, rfl, rfl⟩, rfl, ⟨by unfold profileRefused; decide, rfl⟩, by unfold groupRefused; decide, rfl⟩

theorem witness_BankReadsReportAndChangeNothing :
    live.image.finished = true ∧ 0 < 255 ∧ 255 < 256
      ∧ (put .a 0x13#8 (byte1 2 ++ byte2 1535 ++ byte1 255) live).waits .a 0x13#8 (byte1 2 ++ byte2 1535 ++ byte1 255)
      ∧ (put .a 0x14#8 (byte1 2 ++ byte2 0 ++ byte1 1) live).waits .a 0x14#8 (byte1 2 ++ byte2 0 ++ byte1 1)
      ∧ (put .a 0x15#8 (byte1 2 ++ byte1 255 ++ byte1 30) live).waits .a 0x15#8 (byte1 2 ++ byte1 255 ++ byte1 30)
      ∧ ¬((live.hold 2).mapEngine = some .write ∨ (live.hold 2).image = some .write)
      ∧ ((live.imageHold 1 (some .write)).hold 1).image = some .write :=
  ⟨rfl, by decide, by decide, rfl, rfl, rfl, by decide, by decide⟩

theorem witness_MapEngineTakesAnOperation :
    live.image.finished = true ∧ live.mapEngine = none
      ∧ ((put .a 0x16#8 (byte1 0) live).waits .a 0x16#8 (byte1 0) ∧ live.active ≠ some 0 ∧ live.hold 0 = ⟨none, none⟩)
      ∧ ((put .a 0x17#8 (byte1 2 ++ byte1 1) live).waits .a 0x17#8 (byte1 2 ++ byte1 1) ∧ (2 : BankNo) ≠ 1
        ∧ live.active ≠ some 1 ∧ live.hold 1 = ⟨none, none⟩ ∧ (live.hold 2).mapEngine ≠ some .write
        ∧ (live.hold 2).image ≠ some .write)
      ∧ (put .a 0x18#8 (byte1 2) live).waits .a 0x18#8 (byte1 2) :=
  ⟨rfl, rfl, ⟨rfl, by decide, by decide⟩, ⟨rfl, by decide, by decide, by decide, by decide, by decide⟩, rfl⟩

theorem witness_MapEngineRefusesInOrder :
    ((put .a 0x16#8 (byte1 2) live).waits .a 0x16#8 (byte1 2) ∧ live.active = some 2)
      ∧ ((put .a 0x16#8 (byte1 1) { live with mapEngine := some (.verify 2 5) }).waits .a 0x16#8 (byte1 1)
        ∧ live.active ≠ some 1)
      ∧ ((put .a 0x17#8 (byte1 1 ++ byte1 1) live).waits .a 0x17#8 (byte1 1 ++ byte1 1))
      ∧ ((put .a 0x17#8 (byte1 1 ++ byte1 2) live).waits .a 0x17#8 (byte1 1 ++ byte1 2) ∧ (1 : BankNo) ≠ 2)
      ∧ ((put .a 0x17#8 (byte1 2 ++ byte1 1) (live.imageHold 1 (some .read))).waits .a 0x17#8 (byte1 2 ++ byte1 1)
        ∧ (live.imageHold 1 (some .read)).hold 1 ≠ ⟨none, none⟩)
      ∧ ((put .a 0x18#8 (byte1 1) (live.imageHold 1 (some .write))).waits .a 0x18#8 (byte1 1)
        ∧ ((live.imageHold 1 (some .write)).hold 1).image = some .write) :=
  ⟨⟨rfl, rfl⟩, ⟨rfl, by decide⟩, rfl, ⟨rfl, by decide⟩, ⟨rfl, by decide⟩, ⟨rfl, by decide⟩⟩

theorem witness_ActivateBankIsJudgedInOrder :
    ((put .a 0x19#8 (byte1 2) live).waits .a 0x19#8 (byte1 2) ∧ live.active = some 2)
      ∧ ((put .a 0x19#8 (byte1 1 ++ byte2 0) live).waits .a 0x19#8 (byte1 1 ++ byte2 (0#16).toNat) ∧ live.active ≠ some 1
        ∧ live.mapEngine = none ∧ (live.hold 1).mapEngine ≠ some .write ∧ (live.hold 1).image ≠ some .write
        ∧ (live.bank 1).revision = 0#16)
      ∧ (put .a 0x19#8 (byte1 1 ++ byte2 65535) live).waits .a 0x19#8 (byte1 1 ++ byte2 (0xFFFF#16).toNat)
      ∧ ((live.imageHold 1 (some .write)).hold 1).image = some .write :=
  ⟨⟨rfl, rfl⟩, ⟨rfl, by decide, rfl, by decide, by decide, rfl⟩, rfl, by decide⟩

theorem witness_MapEngineOperationsComplete :
    ({ live with mapEngine := some (.clear 1) } : State).mapEngine = some (.clear 1)
      ∧ ({ live with mapEngine := some (.copy 2 1) } : State).mapEngine = some (.copy 2 1) ∧ (2 : BankNo) ≠ 1
      ∧ ({ live with mapEngine := some (.verify 2 5) } : State).mapEngine = some (.verify 2 5) :=
  ⟨rfl, rfl, by decide, rfl⟩

/-- A passing and a failing check after start-up, and the three cases during start-up. -/
theorem witness_ActivationCheckEnds :
    let s : State := { live with mapEngine := some (.activateCheck 1 0) }
    let bad : State := s.setBank 1 (plan.setProfile 8 none)
    let up : State := { State.reset with mapEngine := some (.activateCheck 0 0) }
    let badUp : State := up.setBank 0 (plan.setProfile 8 none)
    (s.image.finished = true ∧ (s.bank 1).check = none) ∧ (bad.bank 1).check = some ⟨.groups, 0, 2⟩
      ∧ (up.image.finished = false ∧ (up.bank 0).check = none) ∧ (badUp.bank 0).check ≠ none
      ∧ (State.reset.bank 2).check = none := by decide +kernel

theorem witness_EveryBoundaryMovesTimeAndCounter :
    let present : State := { live with time := ⟨true, 0, 1000, none, true, 7, 3999, none⟩ }
    let regains : State := { live with time := ⟨false, 15, 1000, some 1000, true, 7, 3999, none⟩ }
    live.makesBoundary .oscillator ∧ live.BoundaryRow .oscillator .oscillatorBoundary ∧ live.image.finished = true
      ∧ present.makesBoundary (.mark 126000) ∧ present.makesBoundary (.mark 376000)
      ∧ present.BoundaryRow (.mark 126000) (.secondRollover (.mark 126000)) ∧ present.makesBoundary .lost
      ∧ regains.makesBoundary (.mark 126000) :=
  ⟨rfl, .event, rfl, ⟨by decide, .inl ⟨rfl, by decide⟩⟩, ⟨by decide, .inl ⟨rfl, by decide⟩⟩, .second rfl (by decide), rfl,
    by decide, .inr ⟨rfl, by decide, 1000, rfl, by decide, by decide⟩⟩

theorem witness_BoundaryWithoutAdoptionKeepsTheRest :
    live.makesBoundary .oscillator ∧ live.BoundaryRow .oscillator .oscillatorBoundary ∧ live.pendingAct = none :=
  ⟨rfl, .event, rfl⟩

/-- The 16th mark at 125,999 comes too early after the boundary at 1,000 to be one; at 126,000 it is one. -/
theorem witness_MarksRegainTheReference :
    let present : State := { ready with time := ⟨true, 0, 1000, none, true, 7, 12, none⟩ }
    let counting : State := { ready with time := ⟨false, 15, 1000, some 500, true, 7, 12, none⟩ }
    let spaced (m : Nat) : Prop := ∃ q, counting.time.lastMark = some q ∧ q + 125000 ≤ m ∧ m ≤ q + 375000
    present.time.refPresent = true ∧ 125999 < present.time.lastBoundary + 125000
      ∧ present.time.lastBoundary + 375000 < 376001 ∧ counting.time.refPresent = false ∧ counting.time.regain ≠ 0
      ∧ (spaced 125999 ∧ 125999 < counting.time.lastBoundary + 125000)
      ∧ (spaced 126000 ∧ counting.time.lastBoundary + 125000 ≤ 126000)
      ∧ 16 ≤ counting.time.regain + 1 ∧ ready.time.regain = 0 ∧ ¬spaced 125499 :=
  ⟨rfl, by decide, by decide, rfl, by decide, ⟨⟨500, rfl, by decide, by decide⟩, by decide⟩,
    ⟨⟨500, rfl, by decide, by decide⟩, by decide⟩, by decide, rfl, fun ⟨_, h, k, _⟩ => by cases h; revert k; decide⟩

theorem witness_StoresObeyThenDecide :
    let s : State := { live with pendingAct := some ⟨1, 0⟩, mapEngine := some (.activatePending 1 0) }
    s.makesBoundary .oscillator ∧ s.BoundaryRow .oscillator (.adoption .oscillator) ∧ ¬s.endsWindow
      ∧ s.stores.wf Store.reset = true ∧ 0 ∈ plan.referenced ∧ 8 ∈ plan.referenced :=
  ⟨rfl, .adoption ⟨1, 0⟩ rfl, by decide, by decide +kernel, by decide +kernel, by decide +kernel⟩

/-- A window end, and one that is an adoption too. -/
theorem witness_WindowEndEvaluatesEverySource :
    let s : State := { live with rate := { live.rate with counter := 4095 } }
    let u : State := { s with pendingAct := some ⟨1, 0⟩ }
    (s.makesBoundary .oscillator ∧ s.BoundaryRow .oscillator (.windowEnd .oscillator) ∧ s.endsWindow
      ∧ s.stores.wf Store.reset = true ∧ (s.storeNext 0).state ≠ .idle ∧ (s.storeNext 1).state = .idle)
      ∧ u.makesBoundary .oscillator ∧ u.BoundaryRow .oscillator (.adoption .oscillator) ∧ u.endsWindow
      ∧ (u.storeNext 0).state = .idle ∧ s.Canonical ∧ u.Canonical :=
  ⟨⟨rfl, .window ⟨rfl, by decide⟩, ⟨rfl, by decide⟩, by decide +kernel, by decide +kernel, by decide +kernel⟩,
    rfl, .adoption ⟨1, 0⟩ rfl, ⟨rfl, by decide⟩, by decide +kernel, { live_canonical with }, { live_canonical with }⟩

theorem witness_HeadsCarryTheirSources :
    live.makesBoundary .oscillator ∧ live.BoundaryRow .oscillator .oscillatorBoundary
      ∧ live.bankNext.entry 16 = .source .w4 0 (some 0x21#8) ∧ live.bankNext.entry 20 = .group .w4 0 none
      ∧ live.bankNext.entry 24 = .follow .w4 16 none ∧ live.bankNext.entry 28 = .idle :=
  ⟨rfl, .event, rfl, rfl, rfl, rfl⟩

theorem witness_FramesCarryTagsAndParity :
    live.makesBoundary .oscillator ∧ live.BoundaryRow .oscillator .oscillatorBoundary := ⟨rfl, .event⟩

/-- A hold-off expiry at a boundary that is no window end and at one that is, and a group none of whose timers runs. -/
theorem witness_GroupTimersCountAtBoundaries :
    let s := live.setGroup 0 { pairRec with working := ⟨.failed, .ok, 1⟩ }
    let w : State := { s with rate := { s.rate with counter := 4095 } }
    (s.makesBoundary .oscillator ∧ s.BoundaryRow .oscillator (.holdOffExpiry 0 .working .oscillator) ∧ s.pendingAct = none
      ∧ ¬s.endsWindow ∧ s.groups.wf GroupRec.reset = true ∧ (s.group 0).settings ≠ none ∧ (s.group 0).working.timer = 1
      ∧ (s.group 1).settings = none ∧ (live.group 0).working.timer ≠ 1)
      ∧ (w.makesBoundary .oscillator ∧ w.BoundaryRow .oscillator (.windowEnd .oscillator)
        ∧ w.BoundaryRow .oscillator (.holdOffExpiry 0 .working .oscillator) ∧ w.pendingAct = none ∧ w.endsWindow)
      ∧ s.Canonical ∧ w.Canonical ∧ live.Canonical := by
  refine ⟨⟨rfl, .holdOffWorking 0 (by decide) rfl, rfl, by decide, by decide +kernel, by decide, rfl, rfl, by decide⟩,
    ⟨rfl, .window ⟨rfl, by decide⟩, .holdOffWorking 0 (by decide) rfl, rfl, rfl, by decide⟩,
    { live_canonical with groups := by decide +kernel }, { live_canonical with groups := by decide +kernel }, live_canonical⟩

theorem witness_AlertDelayExpiryAssertsTheLine :
    let q : Queued := ⟨⟨.timing true, 0, 0⟩, 3999⟩
    let s := ready.setLink .a { ready.linkA with queue := [q], batch := 8, delay := 1000 }
    s.makesBoundary .oscillator ∧ (s.link .a).queue.head? = some q ∧ 0 < (s.link .a).delay ∧ (s.link .a).delay ≤ 1000
      ∧ q.wait + 1 = (s.link .a).delay * 4 := ⟨rfl, rfl, by decide, by decide, by decide⟩

/-- In service, at a boundary that is no window end and at one that is, and at the end of start-up. -/
theorem witness_AdoptionMakesThePendingBankActive :
    let s : State := { live with pendingAct := some ⟨1, 0⟩ }
    let up : State := { State.reset with
      pendingAct := some ⟨0, 0⟩, image := { State.reset.image with toReport := some .imageStarted } }
    (s.makesBoundary .oscillator ∧ s.Canonical ∧ s.image.finished = true ∧ s.parityCleared 3 ∧ ¬s.parityCleared 20
        ∧ ¬s.endsWindow ∧ ({ s with rate := { s.rate with counter := 4095 } } : State).endsWindow)
      ∧ up.makesBoundary .oscillator ∧ up.Canonical ∧ up.image.finished = false
      ∧ up.image.toReport = some .imageStarted := by
  refine ⟨⟨rfl, { live_canonical with }, rfl, ⟨0, .w4, .inr (.inl ?_), .inl rfl, by decide, by decide⟩, ?_, by decide,
    by decide⟩, rfl, { reset_canonical with }, rfl, rfl⟩
  · decide +kernel
  · rintro ⟨h, w, -, k, below, above⟩
    have far : 8 < h := by cases w <;> simp [Width.toNat] at above <;> omega
    have keys : live.activeBank.profiles.keys = [0, 8] := rfl
    have old : live.activeBank.profile h = none :=
      Table.get_of_not_mem _ _ _ (by rw [keys]; simp; omega)
    rcases k with k | k
    · change (live.activeBank.profile h).map (·.width) = some w at k
      rw [old] at k
      cases k
    · cases k

/-- Bank 1 redefines group 0, defines group 1 afresh, leaves group 2 undefined, which the active bank defines, and keeps
group 3 with another hold-off. -/
theorem witness_AdoptionReconcilesGroups :
    let s : State := { live with
      banks := ⟨[(1, { plan with groups := ⟨[(0, some { pair with protect := 4 }), (1, some pair),
          (3, some { pair with holdOff := 9 })]⟩ }),
        (2, { plan with groups := ⟨[(0, some pair), (2, some pair), (3, some pair)]⟩ })]⟩
      pendingAct := some ⟨1, 5⟩ }
    s.makesBoundary .oscillator ∧ s.pendingAct = some ⟨1, 5⟩ ∧ s.Canonical ∧ ¬s.endsWindow
      ∧ s.activeBank.groupDef 0 = some pair ∧ (s.bank 1).groupDef 0 = some { pair with protect := 4 }
      ∧ s.activeBank.groupDef 1 = none ∧ (s.bank 1).groupDef 2 = none
      ∧ (s.activeBank.groupDef 3 = some pair ∧ (s.bank 1).groupDef 3 = some { pair with holdOff := 9 })
      ∧ ({ s with rate := { s.rate with counter := 4095 } } : State).endsWindow := by
  refine ⟨rfl, rfl, { live_canonical with banks := ?_, bankTables := ?_ }, ?_, rfl, rfl, rfl, rfl, ⟨rfl, rfl⟩, rfl, rfl⟩
  · decide +kernel
  · decide +kernel
  · decide

theorem witness_ReferencedMeansNamed : plan.entry 16 = .source .w4 0 (some 0x21#8) ∧ plan.groupDef 0 = some pair :=
  ⟨rfl, rfl⟩

theorem witness_SignalDetectorChanges :
    (live.lif 0).signal = true ∧ (live.lif 0).align = .locked ∧ (live.lif 1).signal = false ∧ live.Canonical
      ∧ ((live.setLif 2 { Lif.reset with signal := true }).lif 2).signal = true := ⟨rfl, rfl, rfl, live_canonical, by decide⟩

theorem witness_AlignmentWordsMoveTheLif :
    let s := (((live.setLif 1 { Lif.reset with signal := true }).setLif 2 ⟨true, .confirm, 0, 0, some 9, false⟩).setLif 3
      ⟨true, .confirm, 1, 0, some 9, false⟩).setLif 4 ⟨true, .locked, 2, 3, some 9, false⟩
    ((s.lif 1).align = .hunt ∧ (s.lif 1).signal = true) ∧ ((s.lif 2).align = .confirm ∧ (s.lif 2).confirm = 0)
      ∧ (s.lif 3).confirm = 1 ∧ ((s.lif 0).align = .locked ∧ (s.lif 0).miss < 3) ∧ 3 ≤ (s.lif 4).miss
      ∧ (0#32 : Word) ≠ 0x4E971DC2#32 := by decide +kernel

/-- `plan` satisfies C1. Beside frame0, a phase-1 frame with the marker, whose parity is wrong for a full history. -/
theorem witness_IngressArrivalReachesEveryHead :
    let frame1 : List RxSlot := List.replicate 48 ⟨0x03#8, 0xFF#8, List.replicate 65 0x31#8⟩
    let full : SlotParity := ⟨2, 0x01#8, 0x02#8⟩
    (wellFormedFrame 0 frame0 = true ∧ (live.lif 0).align = .locked ∧ live.activeBank.profiles.wf none = true
      ∧ live.activeBank.profile 0 = some ⟨.w4, some 0x15#8, 30⟩ ∧ lineOfSlot 0 = 0 ∧ live.activeBank.profile 4 = none)
      ∧ (∀ h p, live.activeBank.profile h = some p → ∀ j, 0 < j → j < p.width.toNat → live.activeBank.profile (h + j) = none)
      ∧ live.Canonical ∧ wellFormedFrame 0 frame1 = true ∧ (0x03#8).getLsbD 0 = true ∧ full.held = 2
      ∧ 0xFF#8 ≠ xorBytes ((List.replicate 4 full).flatMap (fun q => [q.newer, q.older])) := by
  refine ⟨by decide +kernel, fun h p d j a b => ?_, live_canonical, by decide +kernel, by decide, by decide, by decide⟩
  have keys : live.activeBank.profiles.keys = [0, 8] := rfl
  have absent : ∀ n, n ≠ 0 → n ≠ 8 → live.activeBank.profile n = none := fun n x y =>
    Table.get_of_not_mem _ _ _ (by rw [keys]; simp [x, y])
  by_cases x : h = 0
  · subst x
    cases d
    have : j < 4 := b
    exact absent _ (by omega) (by omega)
  · by_cases y : h = 8
    · subst y
      cases d
      have : j < 4 := b
      exact absent _ (by omega) (by omega)
    · rw [absent h x y] at d; cases d

theorem witness_ArrivalsFillTheStore :
    (live.store 1).state = .idle ∧ (live.store 0).state ≠ .idle
      ∧ (live.store 0).bytes.length + 424 ≤ 256 * (live.store 0).w
      ∧ 256 * (live.store 0).w < (live.store 0).bytes.length + 425 := by decide +kernel

theorem witness_StoreDecisions :
    (live.store 8).width = some .w4 ∧ (live.store 8).state = .priming ∧ (live.store 8).bytes.length < 128 * Width.w4.toNat
      ∧ (live.store 0).width = some .w4 ∧ (live.store 0).state = .running := by decide +kernel

theorem witness_FrameArrivalIsCheckedAndAccepted :
    (ready.link .a).decoder = .quiet ∧ ((put .a 0x01#8 [] ready).link .a).untaken ≠ none ∧ (ready.link .a).untaken = none
      ∧ (([0x01#8, 0x00#8, 0xFF#8] : List Byte).map BitVec.toNat).sum % 256 = 0 ∧ (0x01#8).toNat ∈ commandCodes
      ∧ (([0x0A#8, 0x00#8, 0xF6#8] : List Byte).map BitVec.toNat).sum % 256 = 0 ∧ (0x0A#8).toNat ∉ commandCodes
      ∧ ¬3 ≤ ([0x01#8, 0xFF#8] : List Byte).length := by decide

theorem witness_ReadAndSkippedTransfers :
    (ready.link .b).decoder = .quiet ∧ (0x00#8 : Byte) ≠ 0x01#8 ∧ (0x03#8 : Byte) ≠ 0x02#8 := by decide

theorem witness_OfferedNoticesAreFiled :
    let n : Notice := ⟨.timing true, 0, 0⟩
    ready.linkA.mask.getLsbD n.body.kindCode = true ∧ ready.linkA.queue.length < 32
      ∧ 32 ≤ ({ ready.linkA with queue := List.replicate 32 ⟨n, 0⟩ } : LinkState).queue.length
      ∧ ({ ready.linkA with mask := 0#9 } : LinkState).mask.getLsbD n.body.kindCode = false := by decide +kernel

/-- A FORCE_PROTECT stands in the list: HOLD_WORKING may be pushed, FORCE_PROTECT withdrawn, all withdrawn. -/
theorem witness_RequestCommandsEvaluateTheGroup :
    let s := live.setGroup 0 { pairRec with requests := [⟨.forceProtect, .a⟩] }
    (s.image.finished = true ∧ (s.group 0).settings = some pair ∧ requestsOrdered (s.group 0).requests)
      ∧ (put .b 0x20#8 (byte1 0 ++ byte1 9) s).waits .b 0x20#8 (byte1 0 ++ byte1 ReqKind.holdWorking.code)
      ∧ (∀ q ∈ (s.group 0).requests, q.kind ≠ .holdWorking)
      ∧ (put .b 0x21#8 (byte1 0 ++ byte1 7) s).waits .b 0x21#8 (byte1 0 ++ byte1 ReqKind.forceProtect.code)
      ∧ (∃ q ∈ (s.group 0).requests, q.kind = .forceProtect)
      ∧ (put .b 0x22#8 (byte1 0) s).waits .b 0x22#8 (byte1 0)
      ∧ (put .a 0x20#8 (byte1 0 ++ byte1 2) live).waits .a 0x20#8 (byte1 0 ++ byte1 ReqKind.manualWorking.code)
      ∧ (live.group 0).requests = [] ∧ (live.group 0).governing.rank ≤ 2 :=
  ⟨⟨rfl, rfl, by decide, by decide⟩, rfl, by decide, rfl, ⟨⟨.forceProtect, .a⟩, by decide, rfl⟩, rfl, rfl, rfl, by decide⟩

theorem witness_RequestCommandsRefuseInOrder :
    let s := live.setGroup 0 { pairRec with requests := [⟨.manualProtect, .a⟩], governing := .manualProtect }
    let t := live.setGroup 0 { pairRec with governing := .degradeWorking }
    (live.group 1).settings = none
      ∧ (∃ q ∈ (s.group 0).requests, q.kind = .manualWorking ∨ ReqKind.manualWorking.isManual = true ∧ q.kind.isManual = true)
      ∧ ((t.group 0).settings ≠ none ∧ (t.group 0).requests = [] ∧ ReqKind.manualWorking.isManual = true
        ∧ 2 < (t.group 0).governing.rank)
      ∧ (∀ q ∈ (s.group 0).requests, q.kind ≠ .manualWorking)
      ∧ (put .a 0x20#8 (byte1 0 ++ byte1 2) s).waits .a 0x20#8 (byte1 0 ++ byte1 ReqKind.manualWorking.code)
      ∧ (put .a 0x21#8 (byte1 255 ++ byte1 9) s).waits .a 0x21#8 (byte1 255 ++ byte1 ReqKind.holdWorking.code)
      ∧ (put .a 0x22#8 (byte1 255) s).waits .a 0x22#8 (byte1 255) :=
  ⟨rfl, ⟨_, List.mem_singleton.2 rfl, .inr ⟨rfl, rfl⟩⟩, ⟨by decide, rfl, rfl, by decide⟩, by decide, rfl, rfl, rfl⟩

theorem witness_EvaluationObeysTheHighestRequest : pairRec.settings = some pair := rfl

theorem witness_GroupReadsAndStampLock :
    live.image.finished = true ∧ (put .a 0x23#8 (byte1 255) live).waits .a 0x23#8 (byte1 255)
      ∧ (put .a 0x24#8 (byte1 0) live).waits .a 0x24#8 (byte1 0)
      ∧ (put .a 0x25#8 (byte1 0 ++ [0x01#8]) live).waits .a 0x25#8 (byte1 0 ++ [0x01#8])
      ∧ (live.group 0).settings ≠ none ∧ (live.group 255).settings = none :=
  ⟨rfl, rfl, rfl, rfl, by decide, rfl⟩

theorem witness_SourceReadsChangeNothing :
    live.image.finished = true ∧ 65535 < 65536 ∧ (put .a 0x28#8 (byte2 1535) live).waits .a 0x28#8 (byte2 1535)
      ∧ (put .a 0x28#8 (byte2 1536) live).waits .a 0x28#8 (byte2 1536) ∧ (put .a 0x2A#8 [] live).waits .a 0x2A#8 []
      ∧ (put .a 0x2A#8 (byte2 0) live).waits .a 0x2A#8 (byte2 0) := ⟨rfl, by decide, rfl, rfl, rfl, rfl⟩

theorem witness_WatchCommandsSetAndAcknowledge :
    live.image.finished = true ∧ 1535 < 1536
      ∧ decodeWatch (live.watch 1535).latch [1, 1, 1, 0, 15, 7] = some ⟨true, .degradedOrWorse, true, .level, 15, some 7, false⟩
      ∧ (put .a 0x29#8 (byte2 1535 ++ [1, 1, 1, 0, 15, 7]) live).waits .a 0x29#8 (byte2 1535 ++ [1, 1, 1, 0, 15, 7])
      ∧ (put .a 0x2B#8 (byte2 1535) live).waits .a 0x2B#8 (byte2 1535) := ⟨rfl, by decide, by decide, rfl, rfl⟩

theorem witness_PatternCommandsSetAndAcknowledge :
    live.image.finished = true ∧ 7 < 8 ∧ 15 < 16
      ∧ (put .a 0x2C#8 (byte1 7 ++ [0x01#8] ++ byte1 15) live).waits .a 0x2C#8 (byte1 7 ++ [0x01#8] ++ byte1 15)
      ∧ (put .a 0x2D#8 (byte1 7) live).waits .a 0x2D#8 (byte1 7) := ⟨rfl, by decide, by decide, rfl, rfl⟩

theorem witness_ImageOperationsAreTakenOrRefused :
    let busy : State := { live with image := { live.image with op := some ⟨.save, 2, 5, 2, some 0, 0, 9, false, []⟩ } }
    (live.image.finished = true ∧ live.image.op = none ∧ busy.image.op ≠ none)
      ∧ ((put .a 0x30#8 (byte1 2) live).waits .a 0x30#8 (byte1 2)
        ∧ ¬((live.hold 2).mapEngine = some .write ∨ (live.hold 2).image = some .write))
      ∧ ((put .a 0x31#8 (byte1 2) live).waits .a 0x31#8 (byte1 2) ∧ live.active = some 2)
      ∧ ((put .a 0x31#8 (byte1 1) live).waits .a 0x31#8 (byte1 1) ∧ live.active ≠ some 1 ∧ live.hold 1 = ⟨none, none⟩)
      ∧ (live.mapHold 1 (some .read)).hold 1 ≠ ⟨none, none⟩
      ∧ (put .a 0x32#8 (byte1 0) live).waits .a 0x32#8 (byte1 0) :=
  ⟨⟨rfl, rfl, by decide⟩, ⟨rfl, by decide⟩, ⟨rfl, rfl⟩, ⟨rfl, by decide, by decide⟩, by decide, rfl⟩

/-- A header that passes, one with wrong counts, one without the mark, a page whose check disagrees on an attempt that may
be retried and on the last, and a stream page that passes. -/
theorem witness_PageReadsAdvanceOrEndTheRead :
    let op : ImageOp := ImageOp.startLoad
    let word (bytes : List Byte) (k : Nat) : Nat := (bytes.getD k 0).toNat * 256 + (bytes.getD (k + 1) 0).toNat
    let agrees (bytes : List Byte) : Prop := ((bytes.take 254).map BitVec.toNat).sum % 65536 = word bytes 254
    let counts := pageOf (padData (byte2 0x47D2 ++ byte2 0 ++ byte4 0 ++ byte2 17408 ++ byte1 69))
    State.reset.image.op = some op ∧ op.op ≠ .save ∧ op.page = some 0
      ∧ ((headerPage 3 9).length = 256 ∧ word (headerPage 3 9) 0 = 0x47D2 ∧ agrees (headerPage 3 9)
        ∧ word (headerPage 3 9) 8 = 17408 ∧ ((headerPage 3 9).getD 10 0).toNat = 70)
      ∧ (counts.length = 256 ∧ word counts 0 = 0x47D2 ∧ agrees counts ∧ (counts.getD 10 0).toNat ≠ 70)
      ∧ word erasedPage 0 ≠ 0x47D2
      ∧ (¬agrees ((0x47#8 : Byte) :: 0xD2#8 :: List.replicate 254 0) ∧ op.attempts < op.retries
        ∧ ({ op with attempts := 2 } : ImageOp).retries ≤ ({ op with attempts := 2 } : ImageOp).attempts)
      ∧ ((plan.streamPage 69).length = 256 ∧ agrees (plan.streamPage 69)) := by decide +kernel

theorem witness_PageWritesFollowTheSaveOrder :
    let op : ImageOp := ⟨.save, 2, 5, 2, some 69, 0, 9, false, []⟩
    ({ live with image := { live.image with op := some op } } : State).image.op = some op ∧ op.op = .save
      ∧ op.page = some 69 ∧ 69 ≤ 69 ∧ op.finalHeader = false
      ∧ ({ op with page := some 0, finalHeader := true } : ImageOp).finalHeader = true :=
  ⟨rfl, rfl, rfl, by decide, rfl, rfl⟩

theorem witness_RecordsDecodeToThemselves :
    1535 < 1536 ∧ 1528 % Width.w8.toNat = 0 ∧ (∀ q, (some ⟨.w1, none, 4095⟩ : Option Profile) = some q → q.threshold ≤ 4095)
      ∧ 255 < 256 ∧ pair.working < 1536 ∧ pair.protect % pair.width.toNat = 0 ∧ pair.holdOff ≤ 100 ∧ 1 ≤ pair.restoreWait :=
  ⟨by decide, by decide, fun _ h => by cases h; decide, by decide, by decide, by decide, by decide, by decide⟩

/-- No write cut, a stream page cut, and page 0 cut. -/
theorem witness_ResetLineBeginsStartUp :
    let saving (p : Nat) : State :=
      { live with image := { live.image with op := some ⟨.save, 2, 5, 2, some p, 0, 9, false, []⟩ } }
    (∀ op, live.image.op = some op → op.op ≠ .save ∨ op.page = none)
      ∧ (saving 7).image.op = some ⟨.save, 2, 5, 2, some 7, 0, 9, false, []⟩
      ∧ (saving 0).image.op = some ⟨.save, 2, 5, 2, some 0, 0, 9, false, []⟩ := ⟨fun _ h => (nomatch h), rfl, rfl⟩

/-! ### Witnesses of the invariants: a state in service, and a command that takes it on -/

theorem witness_EveryStepKeepsTablesCanonical :
    live.Canonical ∧ ∃ t, step { live with pending := [.oscillatorBoundary] } = .next t := ⟨live_canonical, _, rfl⟩

theorem live_holdsOk : live.HoldsOk where
  mapEngine := by decide
  image := by decide
  distinct := fun _ _ h => (nomatch h)
  alone := by decide
  notActive := by decide
  pending := fun _ => ⟨fun h => (nomatch h), fun h => (nomatch h)⟩
  started := rfl
  startLoad := fun h => (nomatch h)
  running := fun _ _ h => (nomatch h)

theorem witness_EveryStepKeepsTheHoldLaw :
    live.HoldsOk ∧ ∃ t, step { live with pending := [.oscillatorBoundary] } = .next t := ⟨live_holdsOk, _, rfl⟩

theorem live_store_else (n : Nat) (h : n ≠ 0) (k : n ≠ 8) : live.store n = Store.reset := by
  have keys : live.stores.keys = [0, 8] := rfl
  exact Table.get_of_not_mem _ _ _ (by rw [keys]; simp [h, k])

theorem live_group_else (g : Nat) (h : g ≠ 0) : live.group g = GroupRec.reset := by
  have keys : live.groups.keys = [0] := rfl
  exact Table.get_of_not_mem _ _ _ (by rw [keys]; simp [h])

theorem live_referenced : live.activeBank.referenced = [0, 8] := by decide +kernel

theorem live_followsBank : live.FollowsBank where
  idle n := by
    rw [live_referenced]
    by_cases h : n = 0
    · subst h; decide
    · by_cases k : n = 8
      · subst k; decide
      · simp [live_store_else n h k, Store.reset, h, k]
  width n h := by
    rw [live_referenced] at h
    rcases List.mem_cons.1 h with rfl | h
    · rfl
    · rw [List.mem_singleton.1 h]; rfl
  settings g := by
    by_cases h : g = 0
    · subst h; rfl
    · rw [live_group_else g h]
      have keys : live.activeBank.groups.keys = [0] := rfl
      exact (Table.get_of_not_mem _ _ _ (by rw [keys]; simp [h])).symm
  reset g h := by
    by_cases k : g = 0
    · subst k; exact absurd h (by decide)
    · exact live_group_else g k

theorem live_banksRanged : live.BanksRanged := by
  have outside {α : Type} {d : α} {t : Table α} {n : Nat} (h : ∀ k ∈ t.keys, k < n) : t.get d n = d :=
    Table.get_of_not_mem _ _ _ (fun m => Nat.lt_irrefl n (h n m))
  intro b
  have small : (∀ k ∈ (live.bank b).map.keys, k < 256) ∧ (∀ k ∈ (live.bank b).profiles.keys, k < 256)
      ∧ ∀ k ∈ (live.bank b).groups.keys, k < 256 := by revert b; decide +kernel
  exact ⟨fun n h => outside fun k m => by have := small.1 k m; omega,
    fun n h => outside fun k m => by have := small.2.1 k m; omega,
    fun n h => outside fun k m => by have := small.2.2 k m; omega⟩

theorem witness_EveryStepKeepsTheActiveBankSound :
    (live.HoldsOk ∧ live.BanksRanged ∧ live.Consistent ∧ live.FollowsBank ∧ live.FrameCounts)
      ∧ (∃ t, step { live with pending := [.oscillatorBoundary] } = .next t) ∧ live.active = some 2
      ∧ ∀ a b rest, ({ live with pending := [.oscillatorBoundary] } : State).pending ≠ .resetLine a b :: rest :=
  ⟨⟨live_holdsOk, live_banksRanged, ⟨fun b h => by cases h; decide +kernel, fun _ h => (nomatch h)⟩, live_followsBank,
    fun _ h => (nomatch h)⟩, ⟨_, rfl⟩, rfl, fun _ _ _ h => (nomatch h)⟩

theorem witness_EveryStepKeepsConditionsDerived :
    live.MonitorAgrees ∧ ∃ t, step { live with pending := [.signalAbsent 0] } = .next t := by
  have lines : ∀ l, l ≠ 0 → live.lineDefect l = LineDefects.reset ∧ live.lif l = Lif.reset := by
    intro l h
    have k1 : live.lineDefects.keys = [0] := rfl
    have k2 : live.lifs.keys = [0] := rfl
    exact ⟨Table.get_of_not_mem _ _ _ (by rw [k1]; simp [h]), Table.get_of_not_mem _ _ _ (by rw [k2]; simp [h])⟩
  refine ⟨⟨fun l => ?_, fun l => ?_, fun n => ?_⟩, _, rfl⟩
  · by_cases h : l = 0
    · subst h; rfl
    · rw [(lines l h).1, (lines l h).2]; rfl
  · by_cases h : l = 0
    · subst h; rfl
    · rw [(lines l h).1, (lines l h).2]; rfl
  · by_cases h : n = 0
    · subst h; rfl
    · by_cases k : n = 8
      · subst k; rfl
      · unfold State.derivedRaw
        rw [live_store_else n h k]
        rfl

theorem live_bounded : ∀ n, (live.store n).Bounded := by
  intro n
  by_cases h : n = 0
  · subst h; exact ⟨by decide +kernel, by decide, by decide, by decide, by decide, by decide⟩
  · by_cases k : n = 8
    · subst k; exact ⟨by decide +kernel, by decide, by decide, by decide, by decide, by decide⟩
    · rw [live_store_else n h k]; exact ⟨by decide, by decide, by decide, by decide, by decide, by decide⟩

theorem witness_EveryStepKeepsRecordsBounded :
    live.RecordsBounded ∧ ∃ t, step { live with pending := [.oscillatorBoundary] } = .next t := by
  have lists : ∀ g, (live.group g).requests = [] := by
    intro g
    by_cases h : g = 0
    · subst h; rfl
    · rw [live_group_else g h]; rfl
  refine ⟨⟨live_bounded, fun g => ?_, fun x => ?_, fun x => ?_, by decide, fun _ _ h => (nomatch h), by decide,
    fun _ h => (nomatch h), by decide⟩, _, rfl⟩
  · rw [lists g]; exact ⟨by decide, by decide⟩
  · cases x <;> decide
  · cases x <;> exact ⟨fun h => (nomatch h), fun h => absurd rfl h.1⟩

end Sys2Proof.Tests
end

section
namespace Sys2Proof.Machine

/-! ### Reads and SET TIME (R17, R18, R163) -/

/-- A 4-byte quantity reads back (R184). -/
theorem value4_byte4 (v : Word) :
    BitVec.ofNat 32 (value2 (BitVec.ofNat 8 (v.toNat / 65536 / 256)) (BitVec.ofNat 8 (v.toNat / 65536)) * 65536
      + value2 (BitVec.ofNat 8 (v.toNat / 256)) (BitVec.ofNat 8 v.toNat)) = v := by
  have bound := v.isLt
  have high := value2_byte2 (v.toNat / 65536) (by omega)
  have low : value2 (BitVec.ofNat 8 (v.toNat / 256)) (BitVec.ofNat 8 v.toNat) = v.toNat % 65536 := by
    simp only [value2, BitVec.toNat_ofNat]; omega
  apply BitVec.eq_of_toNat_eq
  rw [high, low, BitVec.toNat_ofNat]
  omega

/-- The record of a line, byte by byte (R18). -/
theorem lineRecord_eq (s : State) (l : Nat) :
    lineRecord s l = [BitVec.ofNat 8 l, if (s.lif l).signal then 0x01#8 else 0x00#8,
      match (s.lif l).align with | .hunt => 0x00#8 | .confirm => 0x01#8 | .locked => 0x02#8,
      BitVec.ofNat 8 (s.lif l).confirm, BitVec.ofNat 8 (s.lif l).miss] := by
  unfold lineRecord
  cases (s.lif l).align <;> rfl

/-- The result of READ TIME, item by item (R18). -/
theorem timeResult_eq (t : Timebase) :
    timeResult t = byte4 t.seconds.toNat ++ byte2 t.frame
      ++ (match t.pendingSeconds with | some p => 0x01#8 :: byte4 p.toNat | none => [0, 0, 0, 0, 0])
      ++ [if t.refPresent then 0x01#8 else 0x00#8] := by
  unfold timeResult
  cases t.pendingSeconds <;> rfl

/-- Settles O5: each of the three reads is taken at any time (R159), and its judgement changes the overrun flag of READ
STATUS's own link or nothing. -/
theorem readsAnsweredAtAnyTime : Obligations.ReadsAnsweredAtAnyTime := by
  intro x s
  refine ⟨fun h => ?_, fun h => ?_, fun h => ?_⟩
  · refine (takeCommand_executed h (.inr rfl) rfl).trans ?_
    cases x <;> rfl
  · refine (takeCommand_executed h (.inr rfl) rfl).trans ?_
    rw [timeResult_eq]; rfl
  · refine (takeCommand_executed h (.inr rfl) rfl).trans ?_
    rw [funext (lineRecord_eq s)]; rfl

/-- Settles O10: the four argument bytes are the value, most significant first. -/
theorem setTimeOnlySetsThePendingSeconds : Obligations.SetTimeOnlySetsThePendingSeconds := by
  intro x s v finished h
  refine (takeCommand_executed (code := 0x07#8) h (.inl finished) (judge := judgeSetTime)
    (t := { s with time := { s.time with pendingSeconds := some v } }) (r := .done []) ?_)
  change executed { s with time := { s.time with pendingSeconds := some (BitVec.ofNat 32 _) } } _ = _
  rw [value4_byte4 v]

/-! ### Codes, estimates, raw conditions, DEGRADE (R7, R45, R112, R115) -/

/-- The three pairs of a control byte are the digits it was made of (file 12). -/
theorem codePair_digits {a b c low : Nat} (ha : a < 4) (hb : b < 4) (hc : c < 4) (hl : low < 4) :
    codePair (BitVec.ofNat 8 (a * 64 + b * 16 + c * 4 + low)) 6 = a
      ∧ codePair (BitVec.ofNat 8 (a * 64 + b * 16 + c * 4 + low)) 4 = b
      ∧ codePair (BitVec.ofNat 8 (a * 64 + b * 16 + c * 4 + low)) 2 = c := by
  simp only [codePair, BitVec.toNat_ofNat]
  omega

/-- A value that two of three digits have is their majority. -/
theorem majority_of_twice {a b c v : Nat} (h : a = v ∧ b = v ∨ a = v ∧ c = v ∨ b = v ∧ c = v) :
    majority a b c = some v := by
  unfold majority
  rcases h with ⟨rfl, rfl⟩ | ⟨rfl, rfl⟩ | ⟨rfl, rfl⟩ <;> simp

/-- Three different digits have no majority. -/
theorem majority_of_distinct {a b c : Nat} (hab : a ≠ b) (hac : a ≠ c) (hbc : b ≠ c) : majority a b c = none := by
  simp [majority, hab, hac, hbc]

/-- R45: truncation toward zero, as a quotient of naturals with a sign. -/
theorem tdiv_eq_signed (q d : Int) : Int.tdiv q d = if 0 ≤ q then q / d else -(-q / d) := by
  split
  · rename_i h; exact Int.tdiv_eq_ediv_of_nonneg h
  · rename_i h
    rw [← Int.tdiv_eq_ediv_of_nonneg (by omega : 0 ≤ -q), Int.neg_tdiv, Int.neg_neg]

/-- Settles O38: the pair values are the code's base-4 digits, truncation is a signed quotient, and the raw condition and the
hysteresis are read off their definitions. -/
theorem codeEstimateConditionAndDegrade : Obligations.CodeEstimateConditionAndDegrade := by
  refine ⟨fun a b c low ha hb hc hl => ?_, fun k w a r _ => ?_, fun l d => ?_, fun t n before => ?_⟩
  · obtain ⟨h6, h4, h2⟩ := codePair_digits ha hb hc hl
    dsimp only [codeTaken]
    rw [h6, h4, h2]
    refine ⟨fun h => by rw [majority_of_twice h]; rfl, fun h => by rw [majority_of_twice h]; rfl,
      fun h => by rw [majority_of_twice h]; rfl, ?_⟩
    rintro (h | ⟨hab, hac, hbc⟩)
    · rw [majority_of_twice h]; rfl
    · rw [majority_of_distinct hab hac hbc]
  · dsimp only [rateQuotient]
    rw [tdiv_eq_signed]
    rfl
  · rcases l with ⟨_ | _, _ | _⟩ <;> rcases d with ⟨_ | _, _ | _, _ | _, _ | _, _, _⟩ <;> simp [rawCondition]
  · unfold degradeAfter
    refine ⟨fun h => if_pos h, fun h k => ?_, fun h k => ?_, fun h k => ?_⟩
    · rw [if_neg (by omega), if_pos k]
    · rw [if_neg (by omega), if_neg (by omega), if_pos k]
    · rw [if_neg (by omega), if_neg (by omega), if_neg (by omega)]

end Sys2Proof.Machine
end

section
/-! SUPPORT. What the parts of an event leave alone, said once: events that only latch and evaluate groups, the notices they
raise, and the end of an event at the Defect Monitor. -/

namespace Sys2Proof.Machine

/-! ### Tables -/

/-- The later of two writes of one key is the one that stands. -/
theorem dropKey_insertKey {α : Type} (k : Nat) (v : α) (l : List (Nat × α)) (h : ∀ p ∈ l, p.1 ≠ k) :
    dropKey k (insertKey k v l) = l := by
  have gone : ∀ r : List (Nat × α), (∀ p ∈ r, p.1 ≠ k) → dropKey k r = r := fun r hr =>
    List.filter_eq_self.mpr (fun p hp => by simpa using hr p hp)
  induction l with
  | nil => simp [insertKey, dropKey]
  | cons p rest ih =>
    obtain ⟨k', v'⟩ := p
    have hk : k' ≠ k := h (k', v') (List.mem_cons_self ..)
    have hr : ∀ q ∈ rest, q.1 ≠ k := fun q hq => h q (List.mem_cons_of_mem _ hq)
    unfold insertKey
    split
    · have := gone _ h
      simpa [dropKey] using this
    · have := ih hr
      simp only [dropKey] at this ⊢
      simp [hk, this]

/-- A write followed by a write of the same key is the second write. -/
theorem Table.set_set {α : Type} [DecidableEq α] (d : α) (t : Table α) (k : Nat) (v w : α) :
    (t.set d k v).set d k w = t.set d k w := by
  have key : dropKey k (t.set d k v).entries = dropKey k t.entries := by
    unfold Table.set
    split
    · exact List.filter_filter.trans (by simp [dropKey])
    · exact dropKey_insertKey k v _ (fun p hp => ne_of_mem_dropKey hp)
  simp only [Table.set] at key ⊢
  rw [key]

/-- Keys that rise strictly and are the same set are the same list. -/
theorem keys_eq_of_mem_iff {α : Type} {l m : List (Nat × α)} (hl : risingKeys l = true) (hm : risingKeys m = true)
    (h : ∀ k, k ∈ l.map (·.1) ↔ k ∈ m.map (·.1)) : l.map (·.1) = m.map (·.1) := by
  have rising : ∀ r : List (Nat × α), risingKeys r = true → (r.map (·.1)).Pairwise (· < ·) := by
    intro r hr
    induction r with
    | nil => exact List.Pairwise.nil
    | cons p rest ih =>
      obtain ⟨k, v⟩ := p
      simp only [risingKeys, Bool.and_eq_true, List.all_eq_true, decide_eq_true_eq] at hr
      refine List.Pairwise.cons (fun j hj => ?_) (ih hr.2)
      obtain ⟨q, hq, rfl⟩ := List.mem_map.mp hj
      exact hr.1 q hq
  exact List.Perm.eq_of_pairwise (fun a b _ _ hab hba => absurd hba (by omega)) (rising l hl) (rising m hm)
    ((List.perm_ext_iff_of_nodup (risingKeys_keys_nodup l hl) (risingKeys_keys_nodup m hm)).mpr h)

/-- In a canonical table, a write that leaves the listed set leaves the listed keys. -/
theorem Table.keys_set {α : Type} [DecidableEq α] {d : α} {t : Table α} (h : t.wf d = true) {k : Nat} {v : α}
    (hk : v = d ↔ t.get d k = d) : (t.set d k v).keys = t.keys := by
  have hs := Table.wf_set d t k v h
  have rising : ∀ {u : Table α}, u.wf d = true → risingKeys u.entries = true := fun hu => by
    simp only [Table.wf, Bool.and_eq_true] at hu; exact hu.1
  refine keys_eq_of_mem_iff (rising hs) (rising h) (fun m => ?_)
  have := Table.mem_keys d _ hs m
  have := Table.mem_keys d _ h m
  simp only [Table.keys] at *
  rw [‹m ∈ (t.set d k v).entries.map _ ↔ _›, ‹m ∈ t.entries.map _ ↔ _›, Table.get_set]
  split
  · subst m; exact not_congr hk
  · rfl

/-! ### Fields of an event's result -/

/-- The state without the groups and the latched entries: what evaluations of groups, watches and pattern sets leave. -/
def State.besideLatches (s : State) : State :=
  { s with groups := .empty, watches := .empty, patterns := .empty }

/-- Every group's request list keeps its order (R132). -/
def State.RequestsOrdered (s : State) : Prop := ∀ g, requestsOrdered (s.group g).requests

/-- The notices an event has raised of the kinds 4 and up. -/
def Ev.highNotices (e : Ev) : List (Block × Notice) := e.raised.filter (fun p => decide (4 ≤ p.2.body.kindCode))

/-- Every notice an event has raised carries the event's site time (R167). -/
def Ev.Stamped (e : Ev) : Prop :=
  ∀ p ∈ e.raised, p.2.seconds = e.st.time.seconds ∧ p.2.frame = e.st.time.frame

/-- Part of an event that evaluates groups, watches and pattern sets and raises their notices, and does nothing else. -/
structure Ev.Quiet (e e' : Ev) : Prop where
  kept    : e'.st.besideLatches = e.st.besideLatches
  high    : e'.highNotices = e.highNotices
  stamped : e.Stamped → e'.Stamped
  ordered : e.st.RequestsOrdered → e'.st.RequestsOrdered

namespace Ev.Quiet

theorem refl (e : Ev) : e.Quiet e := ⟨rfl, rfl, id, id⟩

theorem trans {e f g : Ev} (h : e.Quiet f) (k : f.Quiet g) : e.Quiet g :=
  ⟨k.kept.trans h.kept, k.high.trans h.high, k.stamped ∘ h.stamped, k.ordered ∘ h.ordered⟩

theorem foldl {α : Type} {f : Ev → α → Ev} (h : ∀ (e : Ev) (a : α), e.Quiet (f e a)) (l : List α) (e : Ev) :
    e.Quiet (l.foldl f e) := by
  induction l generalizing e with
  | nil => exact .refl e
  | cons a rest ih => exact (h e a).trans (ih _)

variable {e e' : Ev} (h : e.Quiet e')
include h

theorem pending : e'.st.pending = e.st.pending := (congrArg State.pending h.kept :)
theorem lifs : e'.st.lifs = e.st.lifs := (congrArg State.lifs h.kept :)
theorem slots : e'.st.slots = e.st.slots := (congrArg State.slots h.kept :)
theorem sentParity : e'.st.sentParity = e.st.sentParity := (congrArg State.sentParity h.kept :)
theorem time : e'.st.time = e.st.time := (congrArg State.time h.kept :)
theorem stores : e'.st.stores = e.st.stores := (congrArg State.stores h.kept :)
theorem rate : e'.st.rate = e.st.rate := (congrArg State.rate h.kept :)
theorem rates : e'.st.rates = e.st.rates := (congrArg State.rates h.kept :)
theorem banks : e'.st.banks = e.st.banks := (congrArg State.banks h.kept :)
theorem active : e'.st.active = e.st.active := (congrArg State.active h.kept :)
theorem egress : e'.st.egress = e.st.egress := (congrArg State.egress h.kept :)
theorem ended : e'.st.ended = e.st.ended := (congrArg State.ended h.kept :)
theorem lineDefects : e'.st.lineDefects = e.st.lineDefects := (congrArg State.lineDefects h.kept :)
theorem defects : e'.st.defects = e.st.defects := (congrArg State.defects h.kept :)
theorem linkA : e'.st.linkA = e.st.linkA := (congrArg State.linkA h.kept :)
theorem linkB : e'.st.linkB = e.st.linkB := (congrArg State.linkB h.kept :)
theorem image : e'.st.image = e.st.image := (congrArg State.image h.kept :)
theorem flash : e'.st.flash = e.st.flash := (congrArg State.flash h.kept :)

end Ev.Quiet

/-! ### Raising -/

/-- What raising adds to an event's notices: nothing before start-up has finished (R168). -/
theorem Ev.raise_raised (e : Ev) (b : Block) (n : NoticeBody) :
    (e.raise b n).raised
      = e.raised ++ if e.st.image.finished then [(b, ⟨n, e.st.time.seconds, e.st.time.frame⟩)] else [] := by
  unfold Ev.raise
  split <;> simp_all

/-- What raising several notices adds, in their order. -/
theorem Ev.raiseAll_raised (e : Ev) (b : Block) (ns : List NoticeBody) :
    (e.raiseAll b ns).raised = e.raised ++ if e.st.image.finished then
      ns.map (fun n => (b, ⟨n, e.st.time.seconds, e.st.time.frame⟩)) else [] := by
  unfold Ev.raiseAll
  induction ns generalizing e with
  | nil => simp
  | cons n rest ih =>
    rw [List.foldl_cons, ih, Ev.raise_st, Ev.raise_raised]
    split <;> simp

/-- Notices of kinds 0 to 3 are raised quietly. -/
theorem Ev.raiseAll_quiet (e : Ev) (b : Block) (ns : List NoticeBody) (h : ∀ n ∈ ns, n.kindCode < 4) :
    e.Quiet (e.raiseAll b ns) where
  kept := by rw [Ev.raiseAll_st]
  high := by
    simp only [Ev.highNotices, Ev.raiseAll_raised, List.filter_append, List.append_right_eq_self]
    split
    · rw [List.filter_eq_nil_iff]
      intro p hp
      obtain ⟨n, hn, rfl⟩ := List.mem_map.mp hp
      have := h n hn
      simp only [decide_eq_true_eq]; omega
    · rfl
  stamped := by
    intro hs p hp
    rw [Ev.raiseAll_raised] at hp
    rw [Ev.raiseAll_st]
    rcases List.mem_append.mp hp with hp | hp
    · exact hs p hp
    · split at hp
      · obtain ⟨n, -, rfl⟩ := List.mem_map.mp hp
        exact ⟨rfl, rfl⟩
      · cases hp
  ordered := by rw [Ev.raiseAll_st]; exact id

theorem Ev.raise_quiet (e : Ev) (b : Block) (n : NoticeBody) (h : n.kindCode < 4) : e.Quiet (e.raise b n) :=
  Ev.raiseAll_quiet e b [n] (by simpa using h)

/-! ### Groups -/

/-- A part of a request list keeps its order (R132). -/
theorem requestsOrdered.filter {l : List Request} (h : requestsOrdered l) (p : Request → Bool) :
    requestsOrdered (l.filter p) :=
  ⟨fun q hq => h.1 q (List.mem_of_mem_filter hq), h.2.filter p⟩

theorem requestsOrdered_nil : requestsOrdered [] := ⟨fun _ h => (nomatch h), List.Pairwise.nil⟩

@[simp] theorem GroupRec.settle_requests (d : GroupDef) (r : GroupRec) : (r.settle d).requests = r.requests := by
  unfold GroupRec.settle; split <;> rfl

/-- An evaluation keeps the order of the list: it removes entries or none (R143). -/
theorem GroupRec.evaluate_ordered {g : Nat} {sec : Word} {fr : Nat} {r : GroupRec} (h : requestsOrdered r.requests) :
    requestsOrdered (r.evaluate g sec fr).1.requests := by
  have kept : ∀ (d : GroupDef) (c : ReqKind), requestsOrdered ((r.settle d).keptRequests c) := by
    intro d c
    unfold GroupRec.keptRequests
    split <;> rw [GroupRec.settle_requests]
    · exact h.filter _
    · exact h
  unfold GroupRec.evaluate
  split
  · exact h
  · dsimp only
    split
    · exact kept _ _
    · exact kept _ _

/-- An evaluation raises REQUEST_DISPLACED and GROUP_SWITCH only (R143, R146). -/
theorem GroupRec.evaluate_notices {g : Nat} {sec : Word} {fr : Nat} {r : GroupRec} :
    ∀ n ∈ (r.evaluate g sec fr).2, n.kindCode = 2 ∨ n.kindCode = 3 := by
  have displaced : ∀ (l : List Request) (c : DisplaceCause) (n : NoticeBody),
      n ∈ l.map (fun q => NoticeBody.requestDisplaced g q.kind q.origin c) → n.kindCode = 2 ∨ n.kindCode = 3 := by
    intro l c n hn
    obtain ⟨q, -, rfl⟩ := List.mem_map.mp hn
    exact .inr rfl
  unfold GroupRec.evaluate
  split
  · exact fun n hn => (nomatch hn)
  · dsimp only
    split
    · exact fun n hn => displaced _ _ n hn
    · intro n hn
      rcases List.mem_append.mp hn with hn | hn
      · exact displaced _ _ n hn
      · rw [List.mem_singleton.mp hn]; exact .inl rfl

/-- The notices of a removal are REQUEST_DISPLACED and GROUP_SWITCH (R151). -/
theorem GroupRec.removalNotices_kinds (g : Nat) (r : GroupRec) :
    ∀ n ∈ r.removalNotices g, n.kindCode = 2 ∨ n.kindCode = 3 := by
  intro n hn
  unfold GroupRec.removalNotices at hn
  rcases List.mem_append.mp hn with hn | hn
  · obtain ⟨q, -, rfl⟩ := List.mem_map.mp hn
    exact .inr rfl
  · split at hn
    · rw [List.mem_singleton.mp hn]; exact .inl rfl
    · cases hn

/-- A group takes a record whose list is in order. -/
theorem Ev.setGroup_quiet (g : Nat) (r : GroupRec) (e : Ev) (h : e.st.RequestsOrdered → requestsOrdered r.requests) :
    e.Quiet (e.modify (·.setGroup g r)) where
  kept := rfl
  high := rfl
  stamped := id
  ordered := by
    intro hs m
    rw [Ev.modify_st, State.setGroup_group]
    split
    · exact h hs
    · exact hs m

theorem Ev.evaluateGroup_quiet (g : Nat) (r : GroupRec) (e : Ev)
    (h : e.st.RequestsOrdered → requestsOrdered r.requests) : e.Quiet (e.evaluateGroup g r) :=
  (Ev.setGroup_quiet g _ e (fun hs => GroupRec.evaluate_ordered (h hs))).trans
    (Ev.raiseAll_quiet _ _ _ (fun n hn => by
      have := GroupRec.evaluate_notices n hn
      omega))

@[simp] theorem GroupRec.takeChanges_requests (c : List RawChange) (r : GroupRec) :
    (r.takeChanges c).requests = r.requests := by unfold GroupRec.takeChanges; split <;> rfl

@[simp] theorem GroupRec.countTimers_requests (b r : GroupRec) : (b.countTimers r).requests = r.requests := by
  unfold GroupRec.countTimers; split <;> rfl

theorem Ev.deliverChanges_quiet (c : List RawChange) (e : Ev) : e.Quiet (e.deliverChanges c) := by
  unfold Ev.deliverChanges
  refine Ev.Quiet.foldl (fun e g => ?_) _ e
  split
  · exact Ev.evaluateGroup_quiet g _ e (fun hs => by simpa using hs g)
  · exact .refl e

theorem Ev.countGroup_quiet (before : GroupRec) (g : Nat) (e : Ev) : e.Quiet (e.countGroup before g) := by
  unfold Ev.countGroup
  dsimp only
  split
  · exact Ev.evaluateGroup_quiet g _ e (fun hs => by simpa using hs g)
  · exact Ev.setGroup_quiet g _ e (fun hs => by simpa using hs g)

theorem Ev.countTimers_quiet (start : State) (which : Nat → Bool) (e : Ev) : e.Quiet (e.countTimers start which) := by
  unfold Ev.countTimers
  refine Ev.Quiet.foldl (fun e g => ?_) _ e
  split
  · exact Ev.countGroup_quiet _ g e
  · exact .refl e

theorem Ev.reconcileGroup_quiet (old new : Bank) (c : List RawChange) (g : Nat) (e : Ev) :
    e.Quiet (e.reconcileGroup old new c g) := by
  have removal : ∀ (e : Ev) (r : GroupRec), e.Quiet (e.raiseAll .protection (r.removalNotices g)) := fun e r =>
    Ev.raiseAll_quiet e _ _ (fun n hn => by
      have := GroupRec.removalNotices_kinds g r n hn
      omega)
  unfold Ev.reconcileGroup
  dsimp only
  split
  · exact .refl e
  · exact (Ev.setGroup_quiet g _ e (fun _ => requestsOrdered_nil)).trans (removal _ _)
  · exact Ev.evaluateGroup_quiet g _ e (fun _ => requestsOrdered_nil)
  · exact Ev.evaluateGroup_quiet g _ e (fun hs => by simpa using hs g)
  · exact (removal e _).trans (Ev.evaluateGroup_quiet g _ _ (fun _ => requestsOrdered_nil))

theorem Ev.reconcile_quiet (old new : Bank) (c : List RawChange) (e : Ev) : e.Quiet (e.reconcile old new c) :=
  Ev.Quiet.foldl (fun e g => Ev.reconcileGroup_quiet old new c g e) _ e

/-! ### Watches and pattern sets -/

theorem Ev.latchWatch_quiet (n : Nat) (e : Ev) : e.Quiet (e.latchWatch n) := by
  unfold Ev.latchWatch
  dsimp only
  split
  · exact Ev.Quiet.trans (f := e.modify (·.setWatch n _)) ⟨rfl, rfl, id, id⟩
      (Ev.raise_quiet _ _ _ (by simp [NoticeBody.kindCode]))
  · exact .refl e

theorem Ev.evalLevelWatch_quiet (n : Nat) (e : Ev) : e.Quiet (e.evalLevelWatch n) := by
  unfold Ev.evalLevelWatch
  split
  · exact Ev.latchWatch_quiet n e
  · exact .refl e

theorem Ev.evalWatchAtChange_quiet (c : RawChange) (e : Ev) : e.Quiet (e.evalWatchAtChange c) := by
  unfold Ev.evalWatchAtChange
  split
  · exact Ev.evalLevelWatch_quiet _ e
  · split
    · exact Ev.latchWatch_quiet _ e
    · exact .refl e

theorem Ev.evalWatchAtAdoption_quiet (c : List RawChange) (n : Nat) (e : Ev) :
    e.Quiet (e.evalWatchAtAdoption c n) := by
  unfold Ev.evalWatchAtAdoption
  split
  · exact Ev.evalLevelWatch_quiet _ e
  · split
    · split
      · exact Ev.latchWatch_quiet _ e
      · exact .refl e
    · exact .refl e

theorem Ev.evalPattern_quiet (p : Nat) (e : Ev) : e.Quiet (e.evalPattern p) := by
  unfold Ev.evalPattern
  dsimp only
  split
  · exact Ev.Quiet.trans (f := e.modify (·.setPattern p _)) ⟨rfl, rfl, id, id⟩
      (Ev.raise_quiet _ _ _ (by simp [NoticeBody.kindCode]))
  · exact .refl e

theorem Ev.evalPatterns_quiet (e : Ev) : e.Quiet e.evalPatterns :=
  Ev.Quiet.foldl (fun e p => Ev.evalPattern_quiet p e) _ e

/-! ### The end of an event at the Defect Monitor (R113) -/

/-- After the new raw conditions are stored, the rest of an event of the Defect Monitor only evaluates. -/
theorem Ev.settleRaw_quiet (touched : List Nat) (e : Ev) :
    (e.modify (·.storeRaw (e.st.rawChanges touched))).Quiet (e.settleRaw touched) := by
  unfold Ev.settleRaw
  dsimp only
  split
  · rename_i none
    rw [List.isEmpty_iff.mp none]
    exact .refl e
  · exact ((Ev.deliverChanges_quiet _ _).trans (Ev.Quiet.foldl (fun e c => Ev.evalWatchAtChange_quiet c e) _ _)).trans
      (Ev.evalPatterns_quiet _)

end Sys2Proof.Machine
end

section
/-! SUPPORT. What an event of the Defect Monitor leaves of defect records and raw conditions (R112, R113), and that line and
source reports, adoptions and window ends leave every raw condition as the levels give it. -/

namespace Sys2Proof.Machine

/-! ### Raw conditions held and derived (R112, R113) -/

/-- The raw condition reads a defect record's four levels only. -/
theorem rawCondition_congr (line : LineDefects) {d d' : DefectRec} (hm : d'.marker = d.marker)
    (ht : d'.mismatch = d.mismatch) (hg : d'.degrade = d.degrade) (hx : d'.excursion = d.excursion) :
    rawCondition line d' = rawCondition line d := by
  unfold rawCondition; rw [hm, ht, hg, hx]

/-- The derived raw condition of a source depends on its line's levels, its own levels and whether its store is IDLE. -/
theorem State.derivedRaw_congr {s t : State} {n : Nat} (hs : (t.store n).state = .idle ↔ (s.store n).state = .idle)
    (hl : t.lineDefect (lineOfSlot n) = s.lineDefect (lineOfSlot n))
    (hd : rawCondition (s.lineDefect (lineOfSlot n)) (t.defect n)
      = rawCondition (s.lineDefect (lineOfSlot n)) (s.defect n)) :
    t.derivedRaw n = s.derivedRaw n := by
  unfold State.derivedRaw
  rw [hl, hd]
  exact if_congr hs rfl rfl

/-- The raw condition held of every source is the one the levels give (R112). -/
def State.RawAgrees (s : State) : Prop := ∀ n, (s.defect n).raw = s.derivedRaw n

/-- Changes of other fields, of errored counts too, leave held and derived raw conditions alike. -/
theorem State.RawAgrees.of_levels {s t : State} (h : s.RawAgrees)
    (hs : ∀ n, (t.store n).state = .idle ↔ (s.store n).state = .idle) (hl : t.lineDefects = s.lineDefects)
    (hd : ∀ n, { t.defect n with errored := 0 } = { s.defect n with errored := 0 }) : t.RawAgrees := by
  intro n
  have hn := hd n
  have hraw : (t.defect n).raw = (s.defect n).raw := (congrArg DefectRec.raw hn :)
  have hline : t.lineDefect (lineOfSlot n) = s.lineDefect (lineOfSlot n) := by simp only [State.lineDefect, hl]
  rw [hraw, h n]
  exact (State.derivedRaw_congr (hs n) hline (rawCondition_congr _ (congrArg DefectRec.marker hn :)
    (congrArg DefectRec.mismatch hn :) (congrArg DefectRec.degrade hn :) (congrArg DefectRec.excursion hn :))).symm

theorem State.RawAgrees.of_same {s t : State} (h : s.RawAgrees) (hs : t.stores = s.stores)
    (hl : t.lineDefects = s.lineDefects) (hd : t.defects = s.defects) : t.RawAgrees :=
  h.of_levels (fun n => by simp only [State.store, hs]) hl (fun n => by simp only [State.defect, hd])

/-- Storing raw condition changes touches the raw condition of their sources (R113, step 1). -/
theorem State.storeRaw_defect {f : Nat → Cond} (c : List RawChange) (s : State) (h : ∀ x ∈ c, x.new = f x.source)
    (n : Nat) :
    (s.storeRaw c).defect n = if n ∈ c.map (·.source) then { s.defect n with raw := f n } else s.defect n := by
  unfold State.storeRaw
  induction c generalizing s with
  | nil => simp
  | cons a rest ih =>
    have ha := h a (List.mem_cons_self ..)
    rw [List.foldl_cons, ih _ (fun x hx => h x (List.mem_cons_of_mem _ hx)), State.setDefect_defect]
    by_cases hr : n ∈ rest.map (·.source)
    · by_cases hn : n = a.source
      · subst hn; simp [hr]
      · simp [hr, hn]
    · by_cases hn : n = a.source
      · subst hn; simp [hr, ha]
      · simp [hr, hn]

theorem State.mem_rawChanges {s : State} {touched : List Nat} {x : RawChange} :
    x ∈ s.rawChanges touched ↔ x.source ∈ touched ∧ (s.defect x.source).raw ≠ s.derivedRaw x.source
      ∧ x = ⟨x.source, (s.defect x.source).raw, s.derivedRaw x.source⟩ := by
  unfold State.rawChanges
  rw [List.mem_filterMap]
  constructor
  · rintro ⟨n, hn, hx⟩
    split at hx
    · cases hx
    · rename_i hne
      cases hx
      exact ⟨hn, hne, rfl⟩
  · rintro ⟨hn, hne, hx⟩
    exact ⟨x.source, hn, by rw [if_neg hne, ← hx]⟩

/-- The defect record of a source when its raw condition has been derived. -/
theorem State.storeRaw_rawChanges_defect (s : State) (touched : List Nat) (n : Nat) :
    (s.storeRaw (s.rawChanges touched)).defect n
      = if n ∈ touched then { s.defect n with raw := s.derivedRaw n } else s.defect n := by
  rw [State.storeRaw_defect (f := s.derivedRaw) _ _
    (fun x hx => by rw [(State.mem_rawChanges.mp hx).2.2])]
  by_cases ht : n ∈ touched
  · by_cases hr : (s.defect n).raw = s.derivedRaw n
    · rw [if_pos ht, ← hr]; split <;> rfl
    · rw [if_pos ht, if_pos]
      exact List.mem_map.mpr ⟨⟨n, (s.defect n).raw, s.derivedRaw n⟩, State.mem_rawChanges.mpr ⟨ht, hr, rfl⟩, rfl⟩
  · rw [if_neg ht, if_neg]
    intro h
    obtain ⟨x, hx, rfl⟩ := List.mem_map.mp h
    exact ht (State.mem_rawChanges.mp hx).1

/-- Storing raw conditions touches the defect table alone. -/
theorem State.storeRaw_rest (c : List RawChange) (s : State) :
    { s.storeRaw c with defects := s.defects } = s := by
  unfold State.storeRaw
  induction c generalizing s with
  | nil => rfl
  | cons a rest ih =>
    have := ih (s.setDefect a.source { s.defect a.source with raw := a.new })
    rw [List.foldl_cons]
    exact (congrArg (fun u : State => { u with defects := s.defects }) this :)

theorem State.storeRaw_stores (c : List RawChange) (s : State) : (s.storeRaw c).stores = s.stores :=
  (congrArg State.stores (State.storeRaw_rest c s) :)
theorem State.storeRaw_lineDefects (c : List RawChange) (s : State) : (s.storeRaw c).lineDefects = s.lineDefects :=
  (congrArg State.lineDefects (State.storeRaw_rest c s) :)

/-- If only touched sources disagree before raw conditions are stored, none does then (R113). -/
theorem State.storeRaw_agrees (touched : List Nat) (s : State)
    (h : ∀ n, n ∉ touched → (s.defect n).raw = s.derivedRaw n) : (s.storeRaw (s.rawChanges touched)).RawAgrees := by
  intro n
  have derived : (s.storeRaw (s.rawChanges touched)).derivedRaw n = s.derivedRaw n := by
    refine State.derivedRaw_congr (by simp only [State.store, State.storeRaw_stores])
      (by simp only [State.lineDefect, State.storeRaw_lineDefects]) ?_
    rw [State.storeRaw_rawChanges_defect]
    split <;> rfl
  rw [derived, State.storeRaw_rawChanges_defect]
  split
  · rfl
  · exact h n ‹_›

section SettleRaw

variable (touched : List Nat) (e : Ev)

/-- The defect records after an event of the Defect Monitor: the touched sources hold the derived raw condition. -/
theorem Ev.settleRaw_defect (n : Nat) : (e.settleRaw touched).st.defect n
    = if n ∈ touched then { e.st.defect n with raw := e.st.derivedRaw n } else e.st.defect n := by
  rw [← State.storeRaw_rawChanges_defect]
  simp only [State.defect, (Ev.settleRaw_quiet touched e).defects]
  rfl

/-- What an event of the Defect Monitor leaves, beside defect records, groups and latches. -/
theorem Ev.settleRaw_rest : { (e.settleRaw touched).st.besideLatches with defects := e.st.defects }
    = { e.st.besideLatches with defects := e.st.defects } := by
  rw [(Ev.settleRaw_quiet touched e).kept]
  exact (congrArg State.besideLatches (State.storeRaw_rest (e.st.rawChanges touched) e.st) :)

theorem Ev.settleRaw_stores : (e.settleRaw touched).st.stores = e.st.stores :=
  (congrArg State.stores (Ev.settleRaw_rest touched e) :)
theorem Ev.settleRaw_lifs : (e.settleRaw touched).st.lifs = e.st.lifs :=
  (congrArg State.lifs (Ev.settleRaw_rest touched e) :)
theorem Ev.settleRaw_slots : (e.settleRaw touched).st.slots = e.st.slots :=
  (congrArg State.slots (Ev.settleRaw_rest touched e) :)
theorem Ev.settleRaw_lineDefects : (e.settleRaw touched).st.lineDefects = e.st.lineDefects :=
  (congrArg State.lineDefects (Ev.settleRaw_rest touched e) :)

/-- An event of the Defect Monitor changes no level. -/
theorem Ev.settleRaw_besideRaw (n : Nat) :
    ((e.settleRaw touched).st.defect n).besideRaw = (e.st.defect n).besideRaw := by
  rw [Ev.settleRaw_defect]; split <;> rfl

/-- If only touched sources disagree before an event of the Defect Monitor, none does after it (R113). -/
theorem Ev.settleRaw_agrees (h : ∀ n, n ∉ touched → (e.st.defect n).raw = e.st.derivedRaw n) :
    (e.settleRaw touched).st.RawAgrees :=
  have quiet := Ev.settleRaw_quiet touched e
  (State.storeRaw_agrees touched e.st h).of_same quiet.stores quiet.lineDefects quiet.defects

end SettleRaw

/-! ### Reports -/

/-- A source that is not IDLE is listed. -/
theorem State.mem_stores_keys {s : State} {n : Nat} (h : (s.store n).state ≠ .idle) : n ∈ s.stores.keys :=
  Table.mem_keys_of_get_ne Store.reset _ _ (fun hn => h (by rw [State.store, hn]; rfl))

theorem State.referencedNow_iff {s : State} {n : Nat} : s.referencedNow n = true ↔ (s.store n).state ≠ .idle := by
  simp [State.referencedNow]

/-- The sources whose raw condition a line report derives (R111). -/
theorem State.mem_sourcesOnLine {s : State} {l n : Nat} :
    n ∈ s.sourcesOnLine l ↔ lineOfSlot n = l ∧ (s.store n).state ≠ .idle := by
  unfold State.sourcesOnLine
  rw [List.mem_filter, Bool.and_eq_true, State.referencedNow_iff, beq_iff_eq]
  exact ⟨fun h => ⟨h.2.2, h.2.1⟩, fun h => ⟨State.mem_stores_keys h.2, h.2, h.1⟩⟩

/-- A line report keeps held and derived raw conditions alike (R111, R113). -/
theorem Ev.lineReport_agrees {e : Ev} (h : e.st.RawAgrees) (l : Nat) (f : LineDefects → LineDefects) :
    (e.lineReport l f).st.RawAgrees := by
  refine Ev.settleRaw_agrees _ _ (fun n hn => ?_)
  have outside : (e.st.store n).state = .idle ∨ lineOfSlot n ≠ l := by
    by_contra hc
    rw [not_or, not_not] at hc
    exact hn (State.mem_sourcesOnLine.mpr ⟨hc.2, hc.1⟩)
  have held : ((e.modify (fun s => s.setLineDefect l (f (s.lineDefect l)))).st.defect n).raw = e.st.derivedRaw n := h n
  rw [held]
  rcases outside with idle | other
  · simp [State.derivedRaw, idle]
  · simp [State.derivedRaw, State.setLineDefect_lineDefect, other]

/-- A source report keeps held and derived raw conditions alike (R111, R113). -/
theorem Ev.sourceReport_agrees {e : Ev} (h : e.st.RawAgrees) (n : Nat) (f : DefectRec → DefectRec) :
    (e.sourceReport n f).st.RawAgrees := by
  unfold Ev.sourceReport
  split
  · refine Ev.settleRaw_agrees _ _ (fun m hm => ?_)
    have other : m ≠ n := by simpa using hm
    have same : (e.st.setDefect n (f (e.st.defect n))).defect m = e.st.defect m := by
      rw [State.setDefect_defect, if_neg other]
    show ((e.st.setDefect n _).defect m).raw = (e.st.setDefect n _).derivedRaw m
    rw [State.derivedRaw_congr (s := e.st) (by simp) (by simp) (by rw [same]), same]
    exact h m
  · exact h

/-- An errored event changes no level and no raw condition. -/
theorem State.erroredEvent_levels (s : State) (n m : Nat) :
    { (s.erroredEvent n).defect m with errored := 0 } = { s.defect m with errored := 0 } := by
  unfold State.erroredEvent
  split
  · rw [State.setDefect_defect]
    split
    · subst m; rfl
    · rfl
  · rfl

/-- An errored event touches the defect table alone. -/
theorem State.erroredEvent_rest (s : State) (n : Nat) : { s.erroredEvent n with defects := s.defects } = s := by
  unfold State.erroredEvent
  split <;> rfl

end Sys2Proof.Machine
end

section
/-! SUPPORT. The parts of a core frame boundary, each said once: what a boundary hands on from part to part, and a way to
carry a property of states through all of them. -/

namespace Sys2Proof.Machine

/-! ### The parts of a boundary -/

/-- The state in which an adoption has told every block its part (R89 to R91): before groups, watches and pattern sets are
evaluated. -/
def State.adopted (p : PendingActivation) (s : State) : State :=
  let s1 := (s.makeActive p.bank).adoptSources s.activeBank (s.bank p.bank)
  s1.storeRaw (s1.rawChanges (adoptionTouched s.activeBank (s.bank p.bank) s s1))

/-- An adoption: the blocks' parts, a quiet part, the report, and the end of start-up (R89 to R92, R183). -/
theorem Ev.adopt_parts (p : PendingActivation) (e : Ev) :
    ∃ q : Ev, ({ e with st := e.st.adopted p } : Ev).Quiet q
      ∧ e.adopt p = if e.st.image.finished then q.raise .switch (.bankActivated p.bank p.revision e.st.active)
        else (q.raise .switch (.bankActivated p.bank p.revision e.st.active)).modify State.finishStartUp :=
  ⟨_, ((Ev.reconcile_quiet _ _ _ _).trans (Ev.Quiet.foldl (fun e n => Ev.evalWatchAtAdoption_quiet _ n e) _ _)).trans
    (Ev.evalPatterns_quiet _), rfl⟩

/-- The frame and the content records that the Switch hands over touch no store and no defect record. -/
theorem State.decideAndAssemble_eq (sel : Nat → Selection) (s : State) :
    ∃ content, s.decideAndAssemble sel = s.decideStores.beginFrames content := ⟨_, rfl⟩

/-- The state of a source before its event at a window end: store and rate record counted, levels judged (R44, R115). -/
def State.windowJudged (n : Nat) (s : State) : State :=
  let before := s.rateOf n
  let after := before.evaluate s.rate.k s.rate.l (s.store n)
  ((s.setStore n (s.store n).endWindow).setRate n { after with newInWindow := false }).setDefect n
    ((s.defect n).endWindow (s.threshold n) before after)

theorem Ev.endWindowOf_eq (n : Nat) (e : Ev) : e.endWindowOf n = (e.modify (State.windowJudged n)).settleRaw [n] := rfl

/-- A property of states that every part of the timebase's events keeps, a boundary's parts among them. -/
structure BoundaryInvariant (P : State → Prop) : Prop where
  timed    : ∀ (s : State) t r, t.frame = s.time.frame → P s → P { s with time := t, ended := r }
  begins   : ∀ s, P s → P s.beginBoundary
  exponent : ∀ s, P s → P s.applyExponent
  adopts   : ∀ p s, P s → P (s.adopted p)
  finishes : ∀ s, P s → P s.finishStartUp
  quiet    : ∀ e e' : Ev, e.Quiet e' → P e.st → P e'.st
  decides  : ∀ s, P s → P s.decideStores
  frames   : ∀ c s, P s → P (s.beginFrames c)
  ends     : ∀ n (e : Ev), P e.st → P (e.endWindowOf n).st
  counted  : ∀ b s, P s → P (State.countWindow b s)
  offered  : ∀ e : Ev, P e.st → P e.offer
  chosen   : ∀ (s : State) n, P s → P { s with choices := n }

namespace BoundaryInvariant

variable {P : State → Prop} (inv : BoundaryInvariant P)
include inv

theorem adopt (p : PendingActivation) (e : Ev) (h : P e.st) : P (e.adopt p).st := by
  obtain ⟨q, hq, heq⟩ := e.adopt_parts p
  have hqs : P q.st := inv.quiet _ _ hq (inv.adopts p _ h)
  rw [heq]
  split
  · rwa [Ev.raise_st]
  · rw [Ev.modify_st, Ev.raise_st]; exact inv.finishes _ hqs

theorem adoptOrCount (s0 : State) (e : Ev) (h : P e.st) : P (e.adoptOrCount s0).st := by
  unfold Ev.adoptOrCount
  split
  · exact inv.adopt _ e h
  · exact inv.quiet _ _ (Ev.countTimers_quiet _ _ e) h

theorem decideAndAssemble (sel : Nat → Selection) (s : State) (h : P s) : P (s.decideAndAssemble sel) :=
  inv.frames _ _ (inv.decides _ h)

theorem windowEnd (e : Ev) (h : P e.st) : P e.windowEnd.st := by
  unfold Ev.windowEnd
  generalize e.st.deciding = l
  induction l generalizing e with
  | nil => exact h
  | cons n rest ih =>
    exact ih _ (inv.ends n e h)

theorem closeBoundary (s0 : State) (e : Ev) (h : P e.st) : P (e.closeBoundary s0).st := by
  unfold Ev.closeBoundary
  split
  · have hw : P (e.modify (·.countWindow true)).windowEnd.st := inv.windowEnd _ (inv.counted _ _ h)
    dsimp only
    rw [Ev.modify_st]
    refine inv.chosen _ _ ?_
    split
    · exact inv.quiet _ _ (Ev.countTimers_quiet _ _ _) hw
    · exact hw
  · exact inv.counted _ _ h

theorem boundaryEvent (timing : Option Bool) (e : Ev) (h : P e.st) : P (e.boundary timing).st := by
  unfold Ev.boundary
  refine inv.closeBoundary _ _ (inv.decideAndAssemble _ _ (inv.adoptOrCount _ _ (inv.exponent _ ?_)))
  cases timing with
  | none => exact inv.begins _ h
  | some r => exact (Ev.raise_st _ _ _).symm ▸ inv.begins _ h

/-- A boundary keeps the property, whatever its cause. -/
theorem boundary (c : BoundaryCause) (s : State) (h : P s) : P (s.boundary c) := by
  unfold State.boundary
  split
  · rename_i t ht
    exact inv.offered _ (inv.boundaryEvent _ _ (inv.timed s t _ (Timebase.boundaryAt_keeps ht).2.2.1 h))
  · exact h

end BoundaryInvariant

end Sys2Proof.Machine
end

section
/-! SUPPORT. Line defects agree with the LIFs and raw conditions with the levels (R18, R112): every command keeps that. -/

namespace Sys2Proof.Machine

/-! ### Sorted lists and adoption orders -/

theorem mem_insertSorted {n m : Nat} {l : List Nat} : n ∈ insertSorted m l ↔ n = m ∨ n ∈ l := by
  induction l with
  | nil => simp [insertSorted]
  | cons k rest ih =>
    unfold insertSorted
    split
    · simp
    · split
      · subst m; simp
      · simp only [List.mem_cons, ih]; tauto

/-- Sorting keeps the members of a list. -/
theorem mem_sortedUnique {n : Nat} {l : List Nat} : n ∈ sortedUnique l ↔ n ∈ l := by
  have key : ∀ acc : List Nat, n ∈ l.foldl (fun acc n => insertSorted n acc) acc ↔ n ∈ acc ∨ n ∈ l := by
    induction l with
    | nil => simp
    | cons m rest ih => intro acc; rw [List.foldl_cons, ih, mem_insertSorted, List.mem_cons]; tauto
  exact (key []).trans (by simp)

theorem mem_adoptionSources {old new : Bank} {n : Nat} :
    n ∈ adoptionSources old new ↔ n ∈ old.referenced ∨ n ∈ new.referenced := by
  rw [adoptionSources, mem_sortedUnique, List.mem_append]

/-- A source that neither bank references gets no instruction (R90). -/
theorem storeOrder_of_not_mem {old new : Bank} {n : Nat} (h : n ∉ adoptionSources old new) :
    storeOrder old new n = .nothing := by
  rw [mem_adoptionSources, not_or] at h
  simp [storeOrder, h.1, h.2]

/-- An instruction that changes nothing leaves the store (R36). -/
theorem Store.obey_of_not_changes {o : StoreOrder} (h : o.changes = false) (w : Option Width) (st : Store) :
    st.obey o w = st := by
  cases o with
  | nothing => rfl
  | keep => rfl
  | startAnew => cases h
  | enterIdle => cases h

/-! ### The records after an adoption -/

/-- The store of a source after an adoption: it has obeyed its instruction (R36 to R38). -/
theorem State.adopted_store (p : PendingActivation) (s : State) (n : Nat) :
    (s.adopted p).store n
      = (s.store n).obey (storeOrder s.activeBank (s.bank p.bank) n) ((s.bank p.bank).sourceWidth n) := by
  unfold State.adopted State.store
  dsimp only
  rw [State.storeRaw_stores]
  refine (Table.get_update Store.reset s.stores (adoptionSources s.activeBank (s.bank p.bank)) _ n).trans ?_
  split
  · rfl
  · rename_i h
    rw [storeOrder_of_not_mem h]; rfl

/-- A source that the adoption does not touch keeps its store (R36, R90). -/
theorem obey_of_not_touched {old new : Bank} {before after : State} {n : Nat}
    (h : n ∉ adoptionTouched old new before after) (w : Option Width) (st : Store) :
    st.obey (storeOrder old new n) w = st := by
  by_cases hn : n ∈ adoptionSources old new
  · refine Store.obey_of_not_changes ?_ w st
    by_contra hc
    exact h (List.mem_filter.mpr ⟨hn, by simp only [Bool.not_eq_false] at hc; rw [hc]; rfl⟩)
  · rw [storeOrder_of_not_mem hn]; rfl

/-- An adoption keeps held and derived raw conditions alike (R91, R113). -/
theorem State.RawAgrees.adopted {s : State} (h : s.RawAgrees) (p : PendingActivation) : (s.adopted p).RawAgrees := by
  refine State.storeRaw_agrees _ _ (fun n hn => ?_)
  have defects : ((s.makeActive p.bank).adoptSources s.activeBank (s.bank p.bank)).defect n = s.defect n :=
    (Table.get_update DefectRec.reset s.defects _ _ n).trans (if_neg hn)
  have stores : ((s.makeActive p.bank).adoptSources s.activeBank (s.bank p.bank)).store n = s.store n := by
    refine (Table.get_update Store.reset s.stores _ _ n).trans ?_
    split
    · exact obey_of_not_touched hn _ _
    · rfl
  rw [defects, h n]
  symm
  exact State.derivedRaw_congr (by rw [stores]) rfl (by rw [defects])

/-! ### The parts of a boundary keep raw conditions -/

/-- A restart of windows clears the window counts of a store (R49). -/
theorem State.restartWindows_store (k : Nat) (s : State) (n : Nat) :
    (s.restartWindows k).store n = (s.store n).restartWindow :=
  Table.get_mapAll Store.reset s.stores (fun _ st => st.restartWindow) (fun _ => rfl) n

/-- A restart of windows clears the errored-event count of a source (R116). -/
theorem State.restartWindows_defect (k : Nat) (s : State) (n : Nat) :
    (s.restartWindows k).defect n = { s.defect n with errored := 0 } :=
  Table.get_mapAll DefectRec.reset s.defects (fun _ d => { d with errored := 0 }) (fun _ => rfl) n

theorem State.RawAgrees.applyExponent {s : State} (h : s.RawAgrees) : s.applyExponent.RawAgrees := by
  unfold State.applyExponent
  split
  · exact h.of_levels (fun n => by rw [State.restartWindows_store]; rfl) rfl
      (fun n => by rw [State.restartWindows_defect])
  · exact h

/-- The store and defect records after one store's decision (R25, R31). -/
theorem State.decideStore_eq (s : State) (n : Nat) :
    s.decideStore n = s.setStore n ((s.store n).decide s.rate.j).1
      ∨ s.decideStore n = (s.setStore n ((s.store n).decide s.rate.j).1).erroredEvent n := by
  unfold State.decideStore
  dsimp only
  split
  · exact .inr rfl
  · exact .inl rfl

theorem State.RawAgrees.erroredEvent {s : State} (h : s.RawAgrees) (n : Nat) : (s.erroredEvent n).RawAgrees :=
  have rest := State.erroredEvent_rest s n
  h.of_levels (fun m => by rw [State.store, (congrArg State.stores rest :)]; rfl) (congrArg State.lineDefects rest :)
    (State.erroredEvent_levels s n)

/-- A store that stays IDLE or stays otherwise leaves raw conditions. -/
theorem State.RawAgrees.setStore {s : State} (h : s.RawAgrees) {n : Nat} {st : Store}
    (hst : st.state = .idle ↔ (s.store n).state = .idle) : (s.setStore n st).RawAgrees := by
  refine h.of_levels (fun m => ?_) rfl (fun _ => rfl)
  rw [State.setStore_store]
  split
  · subst m; exact hst
  · rfl

theorem State.RawAgrees.decideStores {s : State} (h : s.RawAgrees) : s.decideStores.RawAgrees := by
  refine List.foldlRecOn _ _ h (fun s hs n _ => ?_)
  have stored := hs.setStore ((s.store n).decide_keeps s.rate.j).2
  rcases s.decideStore_eq n with heq | heq <;> rw [heq]
  · exact stored
  · exact stored.erroredEvent n

/-- A source that is no other's at a window end: its own levels alone change, and its raw condition is derived (R115). -/
theorem Ev.endWindowOf_agrees (n : Nat) (e : Ev) (h : e.st.RawAgrees) : (e.endWindowOf n).st.RawAgrees := by
  rw [Ev.endWindowOf_eq]
  refine Ev.settleRaw_agrees _ _ (fun m hm => ?_)
  have other : m ≠ n := by simpa using hm
  have defect : (e.st.windowJudged n).defect m = e.st.defect m := by
    simp [State.windowJudged, State.setDefect_defect, other]
  have store : (e.st.windowJudged n).store m = e.st.store m := by
    simp [State.windowJudged, State.setStore_store, other]
  rw [Ev.modify_st, defect, h m]
  symm
  exact State.derivedRaw_congr (by rw [store]) rfl (by rw [defect])

theorem rawAgrees_boundaryInvariant : BoundaryInvariant State.RawAgrees where
  begins _ h := h.of_same rfl rfl rfl
  exponent _ h := h.applyExponent
  adopts p _ h := h.adopted p
  finishes s h := by
    unfold State.finishStartUp
    dsimp only
    split <;> exact h.of_same rfl rfl rfl
  quiet _ _ q h := h.of_same q.stores q.lineDefects q.defects
  decides _ h := h.decideStores
  frames _ _ h := h.of_same rfl rfl rfl
  ends n e h := Ev.endWindowOf_agrees n e h
  timed _ _ _ _ h := h.of_same rfl rfl rfl
  counted _ _ h := h.of_same rfl rfl rfl
  offered e h := h.of_same e.offer_stores e.offer_lineDefects e.offer_defects
  chosen _ _ h := h.of_same rfl rfl rfl

/-! ### Line defects and LIFs (R18) -/

/-- LINE_ABSENT is the absence of signal, FRAME_LOST any alignment state but LOCKED (R18). -/
def State.LinesAgree (s : State) : Prop :=
  ∀ l, (s.lineDefect l).absent = (!(s.lif l).signal) ∧ (s.lineDefect l).lost = ((s.lif l).align != .locked)

theorem State.monitorAgrees_iff (s : State) : s.MonitorAgrees ↔ s.LinesAgree ∧ s.RawAgrees :=
  ⟨fun h => ⟨fun l => ⟨h.absent l, h.lost l⟩, h.raw⟩, fun h => ⟨fun l => (h.1 l).1, fun l => (h.1 l).2, h.2⟩⟩

theorem State.LinesAgree.of_same {s t : State} (h : s.LinesAgree) (hl : t.lifs = s.lifs)
    (hd : t.lineDefects = s.lineDefects) : t.LinesAgree := by
  intro l
  have := h l
  simpa only [State.lif, State.lineDefect, hl, hd] using this

/-- A boundary's frames toggle the egress phase of each line and nothing else of a LIF (R13). -/
theorem State.beginFrames_lif (content : Table Content) (s : State) (l : Nat) :
    (s.beginFrames content).lif l
      = if l < 18 then { s.lif l with egressPhase := !(s.lif l).egressPhase } else s.lif l := by
  refine (Table.get_update Lif.reset s.lifs (List.range 18) _ l).trans ?_
  simp only [List.mem_range]
  rfl

theorem State.LinesAgree.beginFrames {s : State} (h : s.LinesAgree) (content : Table Content) :
    (s.beginFrames content).LinesAgree := by
  intro l
  have hl := h l
  rw [State.beginFrames_lif]
  split <;> exact hl

theorem State.decideStores_rest (s : State) :
    { s.decideStores with stores := s.stores, defects := s.defects } = s := by
  refine List.foldlRecOn (motive := fun t : State => { t with stores := s.stores, defects := s.defects } = s) _ _ rfl
    (fun t ht n _ => ?_)
  rw [← ht]
  rcases t.decideStore_eq n with heq | heq <;> rw [heq]
  · rfl
  · have := State.erroredEvent_rest (t.setStore n ((t.store n).decide t.rate.j).1) n
    exact (congrArg (fun u : State => { u with stores := s.stores, defects := s.defects }) this :)

end Sys2Proof.Machine
end

section
/-! SUPPORT. What the judgement of each catalogue command can do to the state, said once for each group of commands; and how
a property of states is carried through a take. -/

namespace Sys2Proof.Machine

/-! ### Groups of commands -/

/-- The state without banks, holds, the Map Engine's operation, its pending activation and the start outcome to be
reported: what reads and bank operations leave. -/
def State.besideBanks (s : State) : State :=
  { s with
    banks := .empty, holds := .empty, mapEngine := none, pendingAct := none, image := { s.image with toReport := none } }

@[simp] theorem State.setBank_besideBanks (s : State) (b : BankNo) (v : Bank) :
    (s.setBank b v).besideBanks = s.besideBanks := rfl
@[simp] theorem State.mapHold_besideBanks (s : State) (b : BankNo) (k : Option HoldKind) :
    (s.mapHold b k).besideBanks = s.besideBanks := rfl
@[simp] theorem State.imageHold_besideBanks (s : State) (b : BankNo) (k : Option HoldKind) :
    (s.imageHold b k).besideBanks = s.besideBanks := rfl
@[simp] theorem State.mapReady_besideBanks (s : State) : s.mapReady.besideBanks = s.besideBanks := rfl
@[simp] theorem State.startCheck_besideBanks (s : State) (b : BankNo) :
    (s.startCheck b).besideBanks = s.besideBanks := rfl
@[simp] theorem State.toReport_besideBanks (s : State) (o : StartOutcome) :
    (s.toReport o).besideBanks = s.besideBanks := rfl

/-- A judgement that reads, or changes banks, holds and the Map Engine's operation only. -/
def KeepsBesideBanks (judge : List Byte → State → Judged) : Prop :=
  ∀ args s, (judge args s).1.st.besideBanks = s.besideBanks

theorem judgeReadTime_keeps : KeepsBesideBanks judgeReadTime := by
  intro args s; unfold judgeReadTime; split <;> rfl
theorem judgeReadLines_keeps : KeepsBesideBanks judgeReadLines := by
  intro args s; unfold judgeReadLines; split <;> rfl

theorem judgeWrite_keeps (b : BankNo) (i : List Byte) (c : Bool) (put : Bank → Bank) (rec : Bank → List Byte) (s : State) :
    (judgeWrite b i c put rec s).1.st.besideBanks = s.besideBanks := by
  unfold judgeWrite; (repeat' split) <;> rfl

theorem judgeRead_keeps (b : BankNo) (size limit first count : Nat) (i : List Byte) (rec : Bank → Nat → List Byte)
    (s : State) : (judgeRead b size limit first count i rec s).1.st.besideBanks = s.besideBanks := by
  unfold judgeRead; split <;> rfl

theorem judgeWriteEntry_keeps : KeepsBesideBanks judgeWriteEntry := by
  intro args s
  unfold judgeWriteEntry
  (repeat' split)
  any_goals rfl
  exact judgeWrite_keeps ..
theorem judgeWriteProfile_keeps : KeepsBesideBanks judgeWriteProfile := by
  intro args s
  unfold judgeWriteProfile
  (repeat' split)
  any_goals rfl
  exact judgeWrite_keeps ..
theorem judgeWriteGroup_keeps : KeepsBesideBanks judgeWriteGroup := by
  intro args s
  unfold judgeWriteGroup
  (repeat' split)
  any_goals rfl
  exact judgeWrite_keeps ..
theorem judgeReadEntries_keeps : KeepsBesideBanks judgeReadEntries := by
  intro args s
  unfold judgeReadEntries
  (repeat' split)
  any_goals rfl
  exact judgeRead_keeps ..
theorem judgeReadProfiles_keeps : KeepsBesideBanks judgeReadProfiles := by
  intro args s
  unfold judgeReadProfiles
  (repeat' split)
  any_goals rfl
  exact judgeRead_keeps ..
theorem judgeReadGroups_keeps : KeepsBesideBanks judgeReadGroups := by
  intro args s
  unfold judgeReadGroups
  (repeat' split)
  any_goals rfl
  exact judgeRead_keeps ..
theorem judgeClearBank_keeps : KeepsBesideBanks judgeClearBank := by
  intro args s; unfold judgeClearBank; (repeat' split) <;> rfl
theorem judgeCopyBank_keeps : KeepsBesideBanks judgeCopyBank := by
  intro args s; unfold judgeCopyBank; (repeat' split) <;> rfl
theorem judgeVerifyBank_keeps : KeepsBesideBanks judgeVerifyBank := by
  intro args s; unfold judgeVerifyBank; (repeat' split) <;> rfl
theorem judgeActivateBank_keeps : KeepsBesideBanks judgeActivateBank := by
  intro args s; unfold judgeActivateBank judgeActivate; dsimp only; (repeat' split) <;> rfl
theorem judgeReadGroupState_keeps : KeepsBesideBanks judgeReadGroupState := by
  intro args s; unfold judgeReadGroupState; split <;> rfl
theorem judgeReadSource_keeps : KeepsBesideBanks judgeReadSource := by
  intro args s; unfold judgeReadSource; (repeat' split) <;> rfl
theorem judgeReadLatches_keeps : KeepsBesideBanks judgeReadLatches := by
  intro args s; unfold judgeReadLatches; (repeat' split) <;> rfl

/-- A judgement that evaluates groups, watches or pattern sets, or changes their records beside the request lists. -/
def JudgesQuietly (judge : List Byte → State → Judged) : Prop := ∀ args s, (Ev.start s).Quiet (judge args s).1

/-- A request command whose list keeps its order is quiet (R132 to R135). -/
theorem evaluated_quiet {g : Nat} {r : GroupRec} {lead : List Byte} {s : State}
    (h : s.RequestsOrdered → requestsOrdered r.requests) : (Ev.start s).Quiet (evaluated g r lead s).1 :=
  Ev.evaluateGroup_quiet g r (Ev.start s) h

theorem mem_insertRequest {q p : Request} {l : List Request} : p ∈ insertRequest q l ↔ p = q ∨ p ∈ l := by
  induction l with
  | nil => simp [insertRequest]
  | cons r rest ih =>
    unfold insertRequest
    split
    · simp
    · simp only [List.mem_cons, ih]; tauto

/-- A controller kind is inserted at its rank, if the list holds none of that rank (R132). -/
theorem requestsOrdered.insertRequest {q : Request} {l : List Request} (h : requestsOrdered l)
    (hq : q.kind.isController = true) (hr : ∀ p ∈ l, p.kind.rank ≠ q.kind.rank) :
    requestsOrdered (insertRequest q l) := by
  refine ⟨fun p hp => ?_, ?_⟩
  · rcases mem_insertRequest.mp hp with rfl | hp
    · exact hq
    · exact h.1 p hp
  · have pairwise := h.2
    clear h
    induction l with
    | nil => simp [Machine.insertRequest]
    | cons r rest ih =>
      rw [List.pairwise_cons] at pairwise
      have hne := hr r (List.mem_cons_self ..)
      unfold Machine.insertRequest
      split
      · rename_i hlt
        refine List.Pairwise.cons (fun p hp => ?_) (List.pairwise_cons.mpr pairwise)
        rcases List.mem_cons.mp hp with rfl | hp
        · exact hlt
        · have := pairwise.1 p hp; omega
      · rename_i hlt
        refine List.Pairwise.cons (fun p hp => ?_) (ih (fun p hp => hr p (List.mem_cons_of_mem _ hp)) pairwise.2)
        rcases mem_insertRequest.mp hp with rfl | hp
        · omega
        · exact pairwise.1 p hp

/-- Controller kinds of one rank are the same kind, or both manual (R131). -/
theorem ReqKind.eq_or_manual_of_rank {k l : ReqKind} (hk : k.isController = true) (hl : l.isController = true)
    (h : k.rank = l.rank) : k = l ∨ k.isManual = true ∧ l.isManual = true := by
  revert hk hl h
  cases k <;> cases l <;> decide

theorem controllerKind_isController {b : Byte} {k : ReqKind} (h : controllerKind b = some k) :
    k.isController = true := by
  unfold controllerKind at h
  (repeat' split at h) <;> cases h <;> rfl

/-- R133: a request that is no duplicate joins the list in its order. -/
theorem GroupRec.push_ordered {r : GroupRec} (h : requestsOrdered r.requests) {k : ReqKind}
    (hk : k.isController = true) (hd : r.duplicates k = false) (x : Link) :
    requestsOrdered (r.push k x).requests := by
  simp only [GroupRec.duplicates, Bool.or_eq_false_iff, Bool.and_eq_false_imp, List.any_eq_false, beq_iff_eq] at hd
  refine h.insertRequest hk (fun p hp hrank => ?_)
  rcases ReqKind.eq_or_manual_of_rank (h.1 p hp) hk hrank with heq | ⟨hm, hkm⟩
  · exact hd.1 p hp heq
  · exact hd.2 hkm p hp hm

theorem judgePushRequest_quiet (x : Link) : JudgesQuietly (judgePushRequest x) := by
  intro args s
  unfold judgePushRequest
  split
  · rename_i g k
    split
    · exact .refl _
    · rename_i kind hkind
      dsimp only
      split
      · exact .refl _
      · split
        · exact .refl _
        · rename_i hd
          split
          · exact .refl _
          · exact evaluated_quiet fun hs =>
              GroupRec.push_ordered (hs _) (controllerKind_isController hkind) (Bool.not_eq_true _ ▸ hd) x
  · exact .refl _

theorem judgeWithdrawRequest_quiet : JudgesQuietly judgeWithdrawRequest := by
  intro args s
  unfold judgeWithdrawRequest
  dsimp only
  (repeat' split)
  any_goals exact .refl _
  exact evaluated_quiet fun hs => (hs _).filter _

theorem judgeWithdrawAll_quiet : JudgesQuietly judgeWithdrawAll := by
  intro args s
  unfold judgeWithdrawAll
  dsimp only
  (repeat' split)
  any_goals exact .refl _
  exact evaluated_quiet fun _ => requestsOrdered_nil

theorem judgeReadStamp_quiet : JudgesQuietly judgeReadStamp := by
  intro args s
  unfold judgeReadStamp
  split
  · exact Ev.setGroup_quiet _ _ (Ev.start s) fun hs => hs _
  · exact .refl _

theorem judgeSetStampLock_quiet : JudgesQuietly judgeSetStampLock := by
  intro args s
  unfold judgeSetStampLock
  dsimp only
  (repeat' split)
  any_goals exact .refl _
  exact Ev.setGroup_quiet _ _ (Ev.start s) fun hs => hs _

theorem Ev.setWatch_quiet (e : Ev) (n : Nat) (w : Watch) : e.Quiet (e.modify (·.setWatch n w)) := ⟨rfl, rfl, id, id⟩

theorem Ev.setPattern_quiet (e : Ev) (p : Nat) (t : Pattern) : e.Quiet (e.modify (·.setPattern p t)) :=
  ⟨rfl, rfl, id, id⟩

theorem State.setWatchEvent_quiet (s : State) (n : Nat) (w : Watch) : (Ev.start s).Quiet (s.setWatchEvent n w) := by
  refine Ev.Quiet.trans ?_ (Ev.evalPatterns_quiet _)
  split
  · exact (Ev.setWatch_quiet _ n _).trans (Ev.evalLevelWatch_quiet _ _)
  · exact Ev.setWatch_quiet _ n _

theorem judgeSetWatch_quiet : JudgesQuietly judgeSetWatch := by
  intro args s
  unfold judgeSetWatch
  split
  · dsimp only
    split
    · split
      · exact .refl _
      · dsimp only
        exact State.setWatchEvent_quiet s _ _
    · exact .refl _
  · exact .refl _

theorem judgeAckLatch_quiet : JudgesQuietly judgeAckLatch := by
  intro args s
  unfold judgeAckLatch
  dsimp only
  (repeat' split)
  any_goals exact .refl _
  exact ((Ev.start s).setWatch_quiet _ _).trans (Ev.evalLevelWatch_quiet _ _)

theorem judgeSetPattern_quiet : JudgesQuietly judgeSetPattern := by
  intro args s
  unfold judgeSetPattern
  dsimp only
  (repeat' split)
  any_goals exact .refl _
  exact ((Ev.start s).setPattern_quiet _ _).trans (Ev.evalPattern_quiet _ _)

theorem judgeAckPattern_quiet : JudgesQuietly judgeAckPattern := by
  intro args s
  unfold judgeAckPattern
  (repeat' split)
  any_goals exact .refl _
  exact ((Ev.start s).setPattern_quiet _ _).trans (Ev.evalPattern_quiet _ _)

/-- An event that does nothing, or takes up an image operation: a hold and the operation's record, at page 0 and before the
final header (R177). -/
def State.TakesImage (s : State) (e : Ev) : Prop :=
  e = Ev.start s ∨ ∃ op b k, e = Ev.start ((s.imageHold b (some k)).imageAt
    ⟨op, b, (s.bank b).revision, s.rate.retries, some 0, 0, s.time.seconds, false, []⟩)

theorem judgeImage_takes (op : ImageOpName) (name : OpName) (b : BankNo) (k : HoldKind) (s : State) :
    s.TakesImage (judgeImage op name b k s).1 := by
  unfold judgeImage
  dsimp only
  (repeat' split)
  any_goals exact .inl rfl
  all_goals exact .inr ⟨op, b, _, rfl⟩

theorem judgeSaveImage_takes (args : List Byte) (s : State) : s.TakesImage (judgeSaveImage args s).1 := by
  unfold judgeSaveImage
  (repeat' split)
  any_goals exact .inl rfl
  exact judgeImage_takes ..

theorem judgeLoadImage_takes (args : List Byte) (s : State) : s.TakesImage (judgeLoadImage args s).1 := by
  unfold judgeLoadImage
  (repeat' split)
  any_goals exact .inl rfl
  exact judgeImage_takes ..

theorem judgeVerifyImage_takes (args : List Byte) (s : State) : s.TakesImage (judgeVerifyImage args s).1 := by
  unfold judgeVerifyImage
  (repeat' split)
  any_goals exact .inl rfl
  exact judgeImage_takes ..

/-- A notice queue of a link within its bound, and its alert line at the value R172 gives it. -/
structure LinkState.Sound (l : LinkState) : Prop where
  queue : l.queue.length ≤ 32
  alert : l.alert = l.alertDue

/-- An evaluation drives the alert line to the value due (R172). -/
theorem LinkState.evalAlert_sound {l : LinkState} (h : l.queue.length ≤ 32) : l.evalAlert.Sound := ⟨h, rfl⟩

/-- A judgement that changes the link's own record, whose queue stays within its bound and whose alert line is due. -/
def JudgesLink (x : Link) (judge : List Byte → State → Judged) : Prop :=
  ∀ args s, ∃ l, (judge args s).1 = Ev.start (s.setLink x l) ∧ ((s.link x).Sound → l.Sound)

theorem judgesLink_refused (x : Link) (s : State) :
    ∃ l, Ev.start s = Ev.start (s.setLink x l) ∧ ((s.link x).Sound → l.Sound) :=
  ⟨s.link x, by cases x <;> rfl, id⟩

theorem judgeReadStatus_link (x : Link) : JudgesLink x (judgeReadStatus x) := by
  intro args s
  unfold judgeReadStatus
  split
  · exact ⟨_, rfl, fun h => ⟨h.queue, h.alert⟩⟩
  · exact judgesLink_refused x s

theorem judgeLinkReset_link (x : Link) : JudgesLink x (judgeLinkReset x) := by
  intro args s
  unfold judgeLinkReset
  split
  · exact ⟨_, rfl, fun _ => ⟨Nat.zero_le _, rfl⟩⟩
  · exact judgesLink_refused x s

theorem judgeSubscribe_link (x : Link) : JudgesLink x (judgeSubscribe x) := by
  intro args s
  unfold judgeSubscribe
  split
  · exact judgesLink_refused x s
  · exact ⟨_, rfl, fun h => ⟨h.queue, h.alert⟩⟩
  · exact judgesLink_refused x s

theorem judgeSetAlert_link (x : Link) : JudgesLink x (judgeSetAlert x) := by
  intro args s
  unfold judgeSetAlert
  split
  · exact judgesLink_refused x s
  · exact ⟨_, rfl, fun h => LinkState.evalAlert_sound h.queue⟩
  · exact judgesLink_refused x s

theorem judgeReadNotices_link (x : Link) : JudgesLink x (judgeReadNotices x) := by
  intro args s
  unfold judgeReadNotices
  split
  · split
    · exact judgesLink_refused x s
    · exact ⟨_, rfl, fun h => LinkState.evalAlert_sound (by simpa using Nat.le_add_right_of_le h.queue)⟩
  · exact judgesLink_refused x s

/-! ### The take -/

/-- A property that offering and answering keep is kept by a command's take, if its judgement keeps it (R158). -/
theorem takeCommand_keeps {P : State → Prop} (offered : ∀ e : Ev, P e.st → P e.offer)
    (answered : ∀ s x code r, P s → P (State.answered s x code r)) {code : Byte} {d : Bool} {x : Link}
    {judge : List Byte → State → Judged} {s t : State} (h : P s) (hj : ∀ args, P (judge args s).1.st)
    (ht : takeCommand code d x judge s = .next t) : P t := by
  unfold takeCommand at ht
  split at ht
  · cases ht; exact h
  · split at ht
    · cases ht
      refine answered _ _ _ _ (offered _ ?_)
      split
      · exact h
      · exact hj _
    · cases ht; exact h

end Sys2Proof.Machine
end

section
/-! SUPPORT. How a property of states is carried through every command: what a take, a transfer, a completion and a boundary
must keep for that. -/

namespace Sys2Proof.Machine

/-! ### Transfers -/

/-- A link's notices, subscription and alert settings: what transfers and takes leave. -/
def LinkState.besideTransfer (l : LinkState) : LinkState :=
  { l with
    decoder := .quiet, frameBuf := [], frameLen := 0, untaken := none, response := Response.reset, overrun := false
    readItems := none, statusOut := 0, sent := [] }

theorem LinkState.Sound.of_besideTransfer {l m : LinkState} (h : l.Sound) (k : m.besideTransfer = l.besideTransfer) :
    m.Sound := by
  have queue : m.queue = l.queue := (congrArg LinkState.queue k :)
  have alert : m.alert = l.alert := (congrArg LinkState.alert k :)
  have due : m.alertDue = l.alertDue := (congrArg LinkState.alertDue k :)
  exact ⟨queue ▸ h.queue, by rw [alert, due]; exact h.alert⟩

theorem LinkState.frameArrives_beside (bytes : List Byte) (n : Nat) (l : LinkState) :
    (l.frameArrives bytes n).besideTransfer = l.besideTransfer := by
  unfold LinkState.frameArrives LinkState.acceptFrame
  (repeat' split) <;> rfl

theorem LinkState.writeBytes_beside (bs : List Byte) (l : LinkState) :
    (l.writeBytes bs).besideTransfer = l.besideTransfer := by
  unfold LinkState.writeBytes; split <;> rfl

theorem LinkState.writeEnds_beside (l : LinkState) : l.writeEnds.besideTransfer = l.besideTransfer := by
  unfold LinkState.writeEnds
  split
  · exact LinkState.frameArrives_beside _ _ _
  all_goals rfl

theorem LinkState.sendBytes_beside (word : Half) (n : Nat) (l : LinkState) :
    (l.sendBytes word n).besideTransfer = l.besideTransfer := by
  induction n generalizing l with
  | zero => rfl
  | succ n ih =>
    refine (ih _).trans ?_
    unfold LinkState.sendByte
    dsimp only
    (repeat' split) <;> rfl

theorem LinkState.readBegins_beside (l : LinkState) : l.readBegins.besideTransfer = l.besideTransfer := by
  unfold LinkState.readBegins; split <;> rfl
theorem LinkState.readEnds_beside (l : LinkState) : l.readEnds.besideTransfer = l.besideTransfer := by
  unfold LinkState.readEnds; split <;> rfl
theorem LinkState.skipBegins_beside (l : LinkState) : l.skipBegins.besideTransfer = l.besideTransfer := by
  unfold LinkState.skipBegins; split <;> rfl
theorem LinkState.skipBytes_beside (n : Nat) (l : LinkState) : (l.skipBytes n).besideTransfer = l.besideTransfer := by
  unfold LinkState.skipBytes; split <;> rfl
theorem LinkState.skipEnds_beside (l : LinkState) : l.skipEnds.besideTransfer = l.besideTransfer := by
  unfold LinkState.skipEnds; split <;> rfl

/-! ### Properties of states that commands keep -/

/-- A command keeps a property of states. -/
def Keeps (P : State → Prop) (i : Instr) : Prop := ∀ s t, P s → exec i s = .next t → P t

/-- What a property of states needs to be carried through every command but the reset line, the line events and the end of
a page write. -/
structure DeviceInvariant (P : State → Prop) : Prop where
  waiting  : ∀ (s : State) q, P s → P { s with pending := q }
  offered  : ∀ e : Ev, P e.st → P e.offer
  quiet    : ∀ e e' : Ev, e.Quiet e' → P e.st → P e'.st
  timed    : ∀ (s : State) t, t.frame = s.time.frame → P s → P { s with time := t }
  boundary : ∀ c s, P s → P (State.boundary c s)
  banks    : ∀ s t : State, t.besideBanks = s.besideBanks → P s → P t
  link     : ∀ (s : State) x l, ((s.link x).Sound → l.Sound) → P s → P (s.setLink x l)
  operated : ∀ (s : State) o, (∀ op, o = some op → op.op = .save → op.page = some 0 ∧ op.finalHeader = false) → P s →
    P { s with image := { s.image with op := o } }
  rate     : ∀ (s : State) j k l n, P s → P { s with rate := s.rate.store j (clampTo 10 14 k) l n }

namespace DeviceInvariant

variable {P : State → Prop} (inv : DeviceInvariant P)
include inv

/-! #### The Core Timebase -/

theorem markTowardRegain (m : Nat) (s : State) (h : P s) : P (s.markTowardRegain m) := by
  unfold State.markTowardRegain
  split
  · split
    · exact inv.boundary _ s h
    · refine inv.offered _ ?_
      rw [Ev.raise_st]
      exact inv.timed s s.time.regained rfl h
  · exact inv.timed s (s.time.countMark m) rfl h

theorem frameMark (m : Nat) : Keeps P (.frameMark m) := by
  intro s t h ht
  change execFrameMark m s = _ at ht
  unfold execFrameMark at ht
  (repeat' split at ht) <;> cases ht
  · exact h
  · exact inv.boundary _ s h
  · exact inv.markTowardRegain m _ (inv.boundary _ s h)
  · exact inv.markTowardRegain m _ h

theorem regainGap : Keeps P .regainGap := by
  intro s t h ht
  change execRegainGap s = _ at ht
  unfold execRegainGap at ht
  split at ht <;> cases ht
  · exact h
  · exact inv.timed s { s.time with regain := 0, lastMark := none } rfl h

/-- A row that is a boundary where something is due, and no event elsewhere (log entry 3). -/
theorem dueBoundary {due : Bool} {c : BoundaryCause} {s t : State} (h : P s)
    (ht : (if due then (.next (s.boundary c) : Answer) else .next s) = .next t) : P t := by
  split at ht <;> cases ht
  · exact inv.boundary c s h
  · exact h

/-! #### The Map Engine and the Image Store Controller -/

/-- An event that changes banks, holds, the Map Engine and the outcome to be reported, and raises one notice. -/
theorem bankEvent {s u t : State} {b : Block} {n : NoticeBody} (h : P s)
    (ht : ((Ev.start u).raise b n).done = .next t) (hu : u.besideBanks = s.besideBanks) : P t := by
  cases ht
  refine inv.offered _ ?_
  rw [Ev.raise_st]
  exact inv.banks s u hu h

theorem clearCompletion : Keeps P .clearCompletion := by
  intro s t h ht
  change execClearCompletion s = _ at ht
  unfold execClearCompletion at ht
  split at ht
  · exact inv.bankEvent h ht (by simp)
  · cases ht; exact h

theorem copyCompletion : Keeps P .copyCompletion := by
  intro s t h ht
  change execCopyCompletion s = _ at ht
  unfold execCopyCompletion at ht
  split at ht
  · exact inv.bankEvent h ht (by simp)
  · cases ht; exact h

theorem verifyCompletion : Keeps P .verifyCompletion := by
  intro s t h ht
  change execVerifyCompletion s = _ at ht
  unfold execVerifyCompletion at ht
  split at ht
  · exact inv.bankEvent h ht (by simp)
  · cases ht; exact h

omit inv in
theorem startUpAfterCheck_besideBanks (b : BankNo) (passed : Bool) (s : State) :
    (State.startUpAfterCheck b passed s).besideBanks = s.besideBanks := by
  unfold State.startUpAfterCheck
  (repeat' split) <;> rfl

theorem activationCheckEnd : Keeps P .activationCheckEnd := by
  intro s t h ht
  change execActivationCheckEnd s = _ at ht
  unfold execActivationCheckEnd at ht
  split at ht
  · split at ht <;> cases ht
    · refine inv.offered _ ?_
      rw [Ev.modify_st, Ev.raise_st]
      exact inv.banks s _ (startUpAfterCheck_besideBanks _ _ _) h
    · exact inv.banks s _ (startUpAfterCheck_besideBanks _ _ _) h
  · cases ht; exact h

theorem imageReady (s : State) (h : P s) : P s.imageReady := inv.operated s none (fun _ h => nomatch h) h

/-- The operation of a page read moves on. -/
theorem imageAt {op : ImageOp} (hop : op.op ≠ .save) (s : State) (h : P s) : P (s.imageAt op) :=
  inv.operated s (some op) (fun o ho hs => by cases ho; exact absurd hs hop) h

theorem endStartLoad {op : ImageOp} (hop : op.op ≠ .save) (res : OpResult) (s : State) (h : P s) :
    P (s.endStartLoad op res) := by
  have loaded : P ((s.setBank op.bank ((s.bank op.bank).afterLoad (res == .ok))).imageHold op.bank none) :=
    inv.banks s _ rfl h
  have left := inv.operated _ (some { op with page := none, carry := [] })
    (fun o ho hs => by cases ho; exact absurd hs hop) loaded
  unfold State.endStartLoad
  dsimp only
  split <;> exact inv.banks _ _ (by simp only [State.startCheck_besideBanks, State.toReport_besideBanks]) left

theorem endRead {op : ImageOp} (hop : op.op ≠ .save) (res : OpResult) (s : State) (h : P s) : P (s.endRead op res) := by
  unfold State.endRead
  split
  · refine inv.offered _ ?_
    rw [Ev.raise_st]
    exact inv.imageReady _ (inv.banks s _ rfl h)
  · refine inv.offered _ ?_
    rw [Ev.raise_st]
    exact inv.imageReady _ (inv.banks s _ rfl h)
  · exact inv.endStartLoad hop res s h
  · exact h

theorem pagePassed {op : ImageOp} (hop : op.op ≠ .save) (p : Nat) (bytes : List Byte) (s : State) (h : P s) :
    P (s.pagePassed op p bytes) := by
  unfold State.pagePassed
  split
  · split
    · exact inv.imageAt (by exact hop) s h
    · exact inv.endRead hop _ s h
  · dsimp only
    split
    · split
      · exact inv.endRead hop _ s h
      · split
        · exact inv.imageAt (by exact hop) s h
        · exact inv.endRead hop _ s h
    all_goals
      have written : ∀ v : Bank, P (s.setBank op.bank v) := fun v => inv.banks s _ rfl h
      split
      · exact inv.endRead hop _ _ (written _)
      · split
        · exact inv.imageAt (by exact hop) _ (written _)
        · exact inv.endRead hop _ _ (written _)

theorem pageRead {op : ImageOp} (hop : op.op ≠ .save) (p : Nat) (bytes : List Byte) (s : State) (h : P s) :
    P (s.pageRead op p bytes) := by
  unfold State.pageRead
  split
  · exact inv.endRead hop _ s h
  · split
    · exact inv.pagePassed hop p bytes s h
    · split
      · exact inv.imageAt (by exact hop) s h
      · exact inv.endRead hop _ s h

theorem pageReadCompletion (r : PageRead) : Keeps P (.pageReadCompletion r) := by
  intro s t h ht
  change execPageReadCompletion r s = _ at ht
  unfold execPageReadCompletion at ht
  split at ht
  · cases ht
  · split at ht
    · cases ht; exact h
    · rename_i op hop
      split at ht <;> cases ht
      · exact h
      · exact h
      · rename_i p hp notSave
        exact inv.pageRead notSave _ _ s h

/-! #### Links and takes -/

theorem transferred {x : Link} {l : LinkState} {s : State} (h : P s)
    (hl : l.besideTransfer = (s.link x).besideTransfer) : P (s.setLink x l) :=
  inv.link s x l (fun hs => hs.of_besideTransfer hl) h

theorem frameArrival (x : Link) (p : WritePart) : Keeps P (.frameArrival x p) := by
  intro s t h ht
  cases ht
  refine inv.transferred h ?_
  split
  · exact LinkState.writeBytes_beside _ _
  · exact LinkState.writeEnds_beside _
  · split
    · exact (LinkState.writeEnds_beside _).trans (LinkState.writeBytes_beside _ _)
    · rfl

theorem readTransfer (x : Link) (p : ReadPart) : Keeps P (.readTransfer x p) := by
  intro s t h ht
  cases ht
  refine inv.transferred h ?_
  split
  · exact LinkState.readBegins_beside _
  · split
    · exact LinkState.sendBytes_beside _ _ _
    · rfl
  · exact LinkState.readEnds_beside _
  · split
    · exact (LinkState.readEnds_beside _).trans
        ((LinkState.sendBytes_beside _ _ _).trans (LinkState.readBegins_beside _))
    · rfl

theorem skippedTransfer (x : Link) (p : SkipPart) : Keeps P (.skippedTransfer x p) := by
  intro s t h ht
  change execSkippedTransfer x p s = _ at ht
  unfold execSkippedTransfer at ht
  split at ht
  · cases ht
  · cases ht
    refine inv.transferred h ?_
    split
    · exact LinkState.skipBegins_beside _
    · exact LinkState.skipBytes_beside _ _
    · exact LinkState.skipEnds_beside _
    · split
      · exact (LinkState.skipEnds_beside _).trans
          ((LinkState.skipBytes_beside _ _).trans (LinkState.skipBegins_beside _))
      · rfl

/-- A take keeps the property, if the command's judgement does. -/
theorem take {code : Byte} {d : Bool} {x : Link} {judge : List Byte → State → Judged} {s t : State} (h : P s)
    (hj : ∀ args, P (judge args s).1.st) (ht : takeCommand code d x judge s = .next t) : P t :=
  takeCommand_keeps inv.offered (fun _ _ _ _ h => inv.transferred h rfl) h hj ht

theorem takeBank {code : Byte} {d : Bool} {x : Link} {judge : List Byte → State → Judged} {s t : State} (h : P s)
    (hj : KeepsBesideBanks judge) (ht : takeCommand code d x judge s = .next t) : P t :=
  inv.take h (fun args => inv.banks s _ (hj args s) h) ht

theorem takeQuiet {code : Byte} {d : Bool} {x : Link} {judge : List Byte → State → Judged} {s t : State} (h : P s)
    (hj : JudgesQuietly judge) (ht : takeCommand code d x judge s = .next t) : P t :=
  inv.take h (fun args => inv.quiet _ _ (hj args s) h) ht

theorem takeLink {code : Byte} {d : Bool} {x : Link} {judge : List Byte → State → Judged} {s t : State} (h : P s)
    (hj : JudgesLink x judge) (ht : takeCommand code d x judge s = .next t) : P t :=
  inv.take h (fun args => by
    obtain ⟨l, heq, hl⟩ := hj args s
    rw [heq]
    exact inv.link s x l hl h) ht

theorem takeImage {code : Byte} {d : Bool} {x : Link} {judge : List Byte → State → Judged} {s t : State} (h : P s)
    (hj : ∀ args, s.TakesImage (judge args s).1) (ht : takeCommand code d x judge s = .next t) : P t :=
  inv.take h (fun args => by
    rcases hj args with heq | ⟨op, b, k, heq⟩ <;> rw [heq]
    · exact h
    · exact inv.operated _ _ (fun o ho _ => by cases ho; exact ⟨rfl, rfl⟩) (inv.banks s (s.imageHold b (some k)) rfl h)) ht

theorem setTime (x : Link) : Keeps P (.setTime x) := by
  intro s t h ht
  refine inv.take (judge := judgeSetTime) h (fun args => ?_) ht
  unfold judgeSetTime
  split
  · exact inv.timed s _ rfl h
  · exact h

theorem setParameters (x : Link) : Keeps P (.setParameters x) := by
  intro s t h ht
  refine inv.take (judge := judgeSetParameters) h (fun args => ?_) ht
  unfold judgeSetParameters
  split
  · exact h
  · exact inv.rate s _ _ _ _ h
  · exact h

/-- Every command keeps the property, if the reset line, the line events and the end of a page write do. -/
theorem exec_keeps (reset : ∀ a b, Keeps P (.resetLine a b)) (absent : ∀ l, Keeps P (.signalAbsent l))
    (present : ∀ l, Keeps P (.signalPresent l)) (find : ∀ l p w, Keeps P (.alignmentFind l p w))
    (confirm : ∀ l w, Keeps P (.confirmWord l w)) (locked : ∀ l w, Keeps P (.lockedWord l w))
    (arrival : ∀ l r, Keeps P (.ingressArrival l r)) (written : Keeps P .pageWriteCompletion) (i : Instr) :
    Keeps P i := by
  cases i with
  | resetLine a b => exact reset a b
  | signalAbsent l => exact absent l
  | signalPresent l => exact present l
  | alignmentFind l p w => exact find l p w
  | confirmWord l w => exact confirm l w
  | lockedWord l w => exact locked l w
  | ingressArrival l r => exact arrival l r
  | frameMark m => exact inv.frameMark m
  | referenceLost => exact fun s t h ht => by cases ht; exact inv.boundary _ s h
  | oscillatorBoundary => exact fun s t h ht => by cases ht; exact inv.boundary _ s h
  | regainGap => exact inv.regainGap
  | secondRollover c => exact fun s t h ht => inv.dueBoundary h ht
  | windowEnd c => exact fun s t h ht => inv.dueBoundary h ht
  | holdOffExpiry g x c => exact fun s t h ht => inv.dueBoundary h ht
  | restoreWaitExpiry g c => exact fun s t h ht => inv.dueBoundary h ht
  | alertDelayExpiry x c => exact fun s t h ht => inv.dueBoundary h ht
  | adoption c => exact fun s t h ht => inv.dueBoundary h ht
  | clearCompletion => exact inv.clearCompletion
  | copyCompletion => exact inv.copyCompletion
  | verifyCompletion => exact inv.verifyCompletion
  | activationCheckEnd => exact inv.activationCheckEnd
  | pageReadCompletion r => exact inv.pageReadCompletion r
  | pageWriteCompletion => exact written
  | frameArrival x p => exact inv.frameArrival x p
  | readTransfer x p => exact inv.readTransfer x p
  | readStatus x => exact fun s t h ht => inv.takeLink h (judgeReadStatus_link x) ht
  | setParameters x => exact inv.setParameters x
  | linkReset x => exact fun s t h ht => inv.takeLink h (judgeLinkReset_link x) ht
  | subscribe x => exact fun s t h ht => inv.takeLink h (judgeSubscribe_link x) ht
  | setAlert x => exact fun s t h ht => inv.takeLink h (judgeSetAlert_link x) ht
  | readNotices x => exact fun s t h ht => inv.takeLink h (judgeReadNotices_link x) ht
  | setTime x => exact inv.setTime x
  | readTime x => exact fun s t h ht => inv.takeBank h judgeReadTime_keeps ht
  | readLines x => exact fun s t h ht => inv.takeBank h judgeReadLines_keeps ht
  | writeEntry x => exact fun s t h ht => inv.takeBank h judgeWriteEntry_keeps ht
  | writeProfile x => exact fun s t h ht => inv.takeBank h judgeWriteProfile_keeps ht
  | writeGroup x => exact fun s t h ht => inv.takeBank h judgeWriteGroup_keeps ht
  | readEntries x => exact fun s t h ht => inv.takeBank h judgeReadEntries_keeps ht
  | readProfiles x => exact fun s t h ht => inv.takeBank h judgeReadProfiles_keeps ht
  | readGroups x => exact fun s t h ht => inv.takeBank h judgeReadGroups_keeps ht
  | clearBank x => exact fun s t h ht => inv.takeBank h judgeClearBank_keeps ht
  | copyBank x => exact fun s t h ht => inv.takeBank h judgeCopyBank_keeps ht
  | verifyBank x => exact fun s t h ht => inv.takeBank h judgeVerifyBank_keeps ht
  | activateBank x => exact fun s t h ht => inv.takeBank h judgeActivateBank_keeps ht
  | pushRequest x => exact fun s t h ht => inv.takeQuiet h (judgePushRequest_quiet x) ht
  | withdrawRequest x => exact fun s t h ht => inv.takeQuiet h judgeWithdrawRequest_quiet ht
  | withdrawAll x => exact fun s t h ht => inv.takeQuiet h judgeWithdrawAll_quiet ht
  | readGroupState x => exact fun s t h ht => inv.takeBank h judgeReadGroupState_keeps ht
  | readStamp x => exact fun s t h ht => inv.takeQuiet h judgeReadStamp_quiet ht
  | setStampLock x => exact fun s t h ht => inv.takeQuiet h judgeSetStampLock_quiet ht
  | readSource x => exact fun s t h ht => inv.takeBank h judgeReadSource_keeps ht
  | setWatch x => exact fun s t h ht => inv.takeQuiet h judgeSetWatch_quiet ht
  | readLatches x => exact fun s t h ht => inv.takeBank h judgeReadLatches_keeps ht
  | ackLatch x => exact fun s t h ht => inv.takeQuiet h judgeAckLatch_quiet ht
  | setPattern x => exact fun s t h ht => inv.takeQuiet h judgeSetPattern_quiet ht
  | ackPattern x => exact fun s t h ht => inv.takeQuiet h judgeAckPattern_quiet ht
  | saveImage x => exact fun s t h ht => inv.takeImage h (fun a => judgeSaveImage_takes a s) ht
  | loadImage x => exact fun s t h ht => inv.takeImage h (fun a => judgeLoadImage_takes a s) ht
  | verifyImage x => exact fun s t h ht => inv.takeImage h (fun a => judgeVerifyImage_takes a s) ht
  | skippedTransfer x p => exact inv.skippedTransfer x p

/-- A step keeps the property, if every command does. -/
theorem step_keeps (commands : ∀ i, Keeps P i) {s t : State} (h : P s) (ht : step s = .next t) : P t := by
  rcases step_cases ht with ⟨-, heq⟩ | ⟨c, rest, -, heq⟩
  · cases heq; exact h
  · exact commands c _ t (inv.waiting s rest h) heq.symm

end DeviceInvariant

end Sys2Proof.Machine
end

section
/-! SUPPORT. Every command keeps line defects and raw conditions as the LIFs and the levels give them (R18, R112). -/

namespace Sys2Proof.Machine

/-! ### Boundaries -/

/-- The state without what an adoption's instructions change (R89 to R91). -/
def State.besideAdoption (s : State) : State :=
  { s with
    slots := .empty, stores := .empty, rates := .empty, holds := .empty, active := none, pendingAct := none
    mapEngine := none, defects := .empty }

theorem State.adoptSources_besideAdoption (old new : Bank) (s : State) :
    (s.adoptSources old new).besideAdoption = s.besideAdoption := rfl

theorem State.makeActive_besideAdoption (b : BankNo) (s : State) :
    (s.makeActive b).besideAdoption = s.besideAdoption := rfl

theorem State.storeRaw_besideAdoption (c : List RawChange) (s : State) :
    (s.storeRaw c).besideAdoption = s.besideAdoption :=
  (congrArg State.besideAdoption (State.storeRaw_rest c s) :)

theorem State.adopted_besideAdoption (p : PendingActivation) (s : State) :
    (s.adopted p).besideAdoption = s.besideAdoption :=
  (State.storeRaw_besideAdoption _ _).trans
    ((State.adoptSources_besideAdoption _ _ _).trans (State.makeActive_besideAdoption _ _))

/-- A source's event at a window end touches no line. -/
theorem Ev.endWindowOf_lines (n : Nat) (e : Ev) :
    (e.endWindowOf n).st.lifs = e.st.lifs ∧ (e.endWindowOf n).st.lineDefects = e.st.lineDefects :=
  ⟨(Ev.settleRaw_lifs [n] (e.modify (State.windowJudged n))).trans rfl,
    (Ev.settleRaw_lineDefects [n] (e.modify (State.windowJudged n))).trans rfl⟩

theorem linesAgree_boundaryInvariant : BoundaryInvariant State.LinesAgree where
  timed _ _ _ _ h := h.of_same rfl rfl
  begins _ h := h.of_same rfl rfl
  exponent s h := by unfold State.applyExponent; split <;> exact h.of_same rfl rfl
  adopts p s h := h.of_same (congrArg State.lifs (s.adopted_besideAdoption p) :)
    (congrArg State.lineDefects (s.adopted_besideAdoption p) :)
  finishes s h := by unfold State.finishStartUp; dsimp only; split <;> exact h.of_same rfl rfl
  quiet _ _ q h := h.of_same q.lifs q.lineDefects
  decides s h := h.of_same (congrArg State.lifs s.decideStores_rest :) (congrArg State.lineDefects s.decideStores_rest :)
  frames c _ h := h.beginFrames c
  ends n e h := h.of_same (e.endWindowOf_lines n).1 (e.endWindowOf_lines n).2
  counted _ _ h := h.of_same rfl rfl
  offered e h := h.of_same e.offer_lifs e.offer_lineDefects
  chosen _ _ h := h.of_same rfl rfl

theorem State.MonitorAgrees.of_same {s t : State} (h : s.MonitorAgrees) (hf : t.lifs = s.lifs)
    (hl : t.lineDefects = s.lineDefects) (hs : t.stores = s.stores) (hd : t.defects = s.defects) : t.MonitorAgrees := by
  rw [State.monitorAgrees_iff] at h ⊢
  exact ⟨h.1.of_same hf hl, h.2.of_same hs hl hd⟩

theorem monitorAgrees_deviceInvariant : DeviceInvariant State.MonitorAgrees where
  waiting _ _ h := h.of_same rfl rfl rfl rfl
  offered e h := h.of_same e.offer_lifs e.offer_lineDefects e.offer_stores e.offer_defects
  quiet _ _ q h := h.of_same q.lifs q.lineDefects q.stores q.defects
  timed _ _ _ h := h.of_same rfl rfl rfl rfl
  boundary c s h := by
    rw [State.monitorAgrees_iff] at h ⊢
    exact ⟨linesAgree_boundaryInvariant.boundary c s h.1, rawAgrees_boundaryInvariant.boundary c s h.2⟩
  banks _ _ k h := h.of_same (congrArg State.lifs k :) (congrArg State.lineDefects k :) (congrArg State.stores k :)
    (congrArg State.defects k :)
  link _ x _ _ h := by cases x <;> exact h.of_same rfl rfl rfl rfl
  operated _ _ _ h := h.of_same rfl rfl rfl rfl
  rate _ _ _ _ _ h := h.of_same rfl rfl rfl rfl

/-! ### Line events (R2 to R5) -/

theorem Ev.lineReport_lifs (l : Nat) (f : LineDefects → LineDefects) (e : Ev) :
    (e.lineReport l f).st.lifs = e.st.lifs := Ev.settleRaw_lifs _ _

theorem Ev.lineReport_lineDefects (l : Nat) (f : LineDefects → LineDefects) (e : Ev) :
    (e.lineReport l f).st.lineDefects = (e.st.setLineDefect l (f (e.st.lineDefect l))).lineDefects :=
  Ev.settleRaw_lineDefects _ _

/-- Two reports against one line leave what both make of its levels. -/
theorem Ev.lineReport_twice_lineDefects (l : Nat) (f g : LineDefects → LineDefects) (e : Ev) :
    ((e.lineReport l f).lineReport l g).st.lineDefects
      = (e.st.setLineDefect l (g (f (e.st.lineDefect l)))).lineDefects := by
  have first := Ev.lineReport_lineDefects l f e
  have read : (e.lineReport l f).st.lineDefect l = f (e.st.lineDefect l) :=
    (congrArg (fun u => Table.get LineDefects.reset u l) first).trans (Table.get_set_self _ _ _ _)
  rw [Ev.lineReport_lineDefects, read]
  refine (congrArg (fun u => Table.set LineDefects.reset u l (g (f (e.st.lineDefect l)))) first).trans ?_
  exact Table.set_set _ _ _ _ _

/-- One line's LIF and levels change together. -/
theorem State.LinesAgree.setLine {s t : State} (h : s.LinesAgree) {l : Nat} {lf : Lif} {d : LineDefects}
    (hf : t.lifs = (s.setLif l lf).lifs) (hl : t.lineDefects = (s.setLineDefect l d).lineDefects)
    (ha : d.absent = !lf.signal) (hlost : d.lost = (lf.align != .locked)) : t.LinesAgree := by
  intro m
  have lif : t.lif m = if m = l then lf else s.lif m :=
    (congrArg (fun u => Table.get Lif.reset u m) hf).trans (s.setLif_lif l lf m)
  have level : t.lineDefect m = if m = l then d else s.lineDefect m :=
    (congrArg (fun u => Table.get LineDefects.reset u m) hl).trans (s.setLineDefect_lineDefect l d m)
  rw [lif, level]
  split
  · exact ⟨ha, hlost⟩
  · exact h m

/-- An event that sets a LIF, touches slots beside, and reports one line defect change. -/
theorem lineEvent_agrees {s u : State} (h : s.MonitorAgrees) {l : Nat} {lf : Lif} {f : LineDefects → LineDefects}
    (hf : u.lifs = (s.setLif l lf).lifs) (hl : u.lineDefects = s.lineDefects) (hs : u.stores = s.stores)
    (hd : u.defects = s.defects) (ha : (f (s.lineDefect l)).absent = !lf.signal)
    (hlost : (f (s.lineDefect l)).lost = (lf.align != .locked)) :
    ((Ev.start u).lineReport l f).st.MonitorAgrees := by
  rw [State.monitorAgrees_iff] at h ⊢
  have raw : (Ev.start u).st.RawAgrees := h.2.of_same hs hl hd
  refine ⟨h.1.setLine ((Ev.lineReport_lifs ..).trans hf) ?_ ha hlost, Ev.lineReport_agrees raw l f⟩
  rw [Ev.lineReport_lineDefects]
  simp only [Ev.start_st, State.setLineDefect, State.lineDefect, hl]

/-- A LIF changes with its signal and its lock as they were. -/
theorem State.MonitorAgrees.setLif {s : State} (h : s.MonitorAgrees) {l : Nat} {lf : Lif}
    (hsig : lf.signal = (s.lif l).signal) (hal : (lf.align = .locked) ↔ (s.lif l).align = .locked) :
    (s.setLif l lf).MonitorAgrees := by
  rw [State.monitorAgrees_iff] at h ⊢
  refine ⟨fun m => ?_, h.2.of_same rfl rfl rfl⟩
  have hm := h.1 m
  rw [State.setLif_lineDefect, State.setLif_lif]
  split
  · subst m
    rw [hm.1, hm.2, hsig]
    exact ⟨rfl, by rw [Bool.eq_iff_iff]; simp [hal]⟩
  · exact hm

theorem signalAbsent_monitorAgrees (l : LineNo) : Keeps State.MonitorAgrees (.signalAbsent l) := by
  intro s t h ht
  change execSignalAbsent l s = _ at ht
  unfold execSignalAbsent at ht
  dsimp only at ht
  split at ht <;> cases ht
  · exact h
  · refine monitorAgrees_deviceInvariant.offered _ ?_
    split
    · rename_i locked
      have both := (State.monitorAgrees_iff s).mp h
      refine (State.monitorAgrees_iff _).mpr ⟨both.1.setLine (l := l) (lf := { (s.lif l).hunting with signal := false })
        (d := ⟨true, true⟩) ?_ ?_ rfl rfl, Ev.lineReport_agrees (Ev.lineReport_agrees ?_ l _) l _⟩
      · rw [Ev.lineReport_lifs, Ev.lineReport_lifs]; rfl
      · rw [Ev.lineReport_twice_lineDefects]; rfl
      · exact both.2.of_same rfl rfl rfl
    · rename_i unlocked
      refine lineEvent_agrees h (lf := { (s.lif l).hunting with signal := false }) rfl rfl rfl rfl rfl ?_
      rw [h.lost l, bne_iff_ne.mpr unlocked]
      rfl

theorem signalPresent_monitorAgrees (l : LineNo) : Keeps State.MonitorAgrees (.signalPresent l) := by
  intro s t h ht
  change execSignalPresent l s = _ at ht
  unfold execSignalPresent at ht
  dsimp only at ht
  split at ht <;> cases ht
  · exact h
  · exact monitorAgrees_deviceInvariant.offered _ (lineEvent_agrees h
      (lf := { s.lif l with signal := true }) rfl rfl rfl rfl rfl (h.lost l))

theorem alignmentFind_monitorAgrees (l : LineNo) (p : Nat) (w : Word) :
    Keeps State.MonitorAgrees (.alignmentFind l p w) := by
  intro s t h ht
  change execAlignmentFind l p w s = _ at ht
  unfold execAlignmentFind at ht
  dsimp only at ht
  split at ht <;> cases ht
  · rename_i hunt
    exact h.setLif rfl (by simp [hunt.1])
  · exact h

theorem confirmWord_monitorAgrees (l : LineNo) (w : Word) : Keeps State.MonitorAgrees (.confirmWord l w) := by
  intro s t h ht
  change execConfirmWord l w s = _ at ht
  unfold execConfirmWord at ht
  dsimp only at ht
  split at ht
  · rename_i confirm
    split at ht
    · split at ht <;> cases ht
      · exact monitorAgrees_deviceInvariant.offered _ (lineEvent_agrees h
          (lf := { (s.lif l).moveOn l with align := .locked, confirm := (s.lif l).confirm + 1, miss := 0 })
          rfl rfl rfl rfl (h.absent l) rfl)
      · exact h.setLif rfl Iff.rfl
    · cases ht
      exact h.setLif rfl (by simp [confirm, Lif.hunting])
  · cases ht; exact h

theorem lockedWord_monitorAgrees (l : LineNo) (w : Word) : Keeps State.MonitorAgrees (.lockedWord l w) := by
  intro s t h ht
  change execLockedWord l w s = _ at ht
  unfold execLockedWord at ht
  dsimp only at ht
  split at ht
  · split at ht
    · cases ht; exact h.setLif rfl Iff.rfl
    · split at ht <;> cases ht
      · exact h.setLif rfl Iff.rfl
      · exact monitorAgrees_deviceInvariant.offered _ (lineEvent_agrees h
          (lf := (s.lif l).hunting) rfl rfl rfl rfl (h.absent l) rfl)
  · cases ht; exact h

/-! ### Arrivals (R6 to R11) -/

theorem State.RawAgrees.arriveStore {s : State} (h : s.RawAgrees) (n : Nat) (bytes : List Byte) (errored : Bool) :
    (s.arriveStore n bytes errored).RawAgrees := by
  have stored := h.setStore (n := n) (st := ((s.store n).arrive bytes).1) (by rw [((s.store n).arrive_keeps bytes).1])
  unfold State.arriveStore
  dsimp only
  (repeat' split)
  · exact (stored.erroredEvent n).erroredEvent n
  · exact stored.erroredEvent n
  · exact stored.erroredEvent n
  · exact stored

theorem Ev.markerArrival_agrees {e : Ev} (h : e.st.RawAgrees) (n : Nat) (bit : Bool) :
    (e.markerArrival n bit).st.RawAgrees := by
  have set : (e.modify (·.setSlot n ((e.st.slot n).markerStep bit).1)).st.RawAgrees := h.of_same rfl rfl rfl
  unfold Ev.markerArrival
  dsimp only
  split
  · exact Ev.sourceReport_agrees set n _
  · exact set

theorem Ev.tagArrival_agrees {e : Ev} (h : e.st.RawAgrees) (n : Nat) (x : Option Byte) (tag : Byte) :
    (e.tagArrival n x tag).st.RawAgrees := by
  have set : (e.modify (·.setSlot n (((e.st.slot n).tagStep tag).mismatchStep x tag).1)).st.RawAgrees :=
    h.of_same rfl rfl rfl
  unfold Ev.tagArrival
  dsimp only
  split
  · exact Ev.sourceReport_agrees set n _
  · exact set

theorem Ev.headArrival_agrees {e : Ev} (h : e.st.RawAgrees) (base : Nat) (slots : List RxSlot) (n : Nat) (p : Profile) :
    (e.headArrival base slots n p).st.RawAgrees := by
  have marked : ∀ bytes bad bit, ((e.modify fun s =>
      (s.arriveStore n bytes bad).pushParity n p.width base slots).markerArrival n bit).st.RawAgrees :=
    fun bytes bad bit => Ev.markerArrival_agrees
      ((h.arriveStore n bytes bad).of_same (t := (e.st.arriveStore n bytes bad).pushParity n p.width base slots)
        rfl rfl rfl) n bit
  unfold Ev.headArrival
  dsimp only
  split
  · exact marked _ _ _
  · exact Ev.tagArrival_agrees (marked _ _ _) n _ _

/-- The state without what arrivals, line reports and window ends change of slots, stores, rates and defect records, and
without groups and latches. -/
def State.besideSources (s : State) : State :=
  { s.besideLatches with slots := .empty, stores := .empty, rates := .empty, defects := .empty }

theorem Ev.Quiet.besideSources {e e' : Ev} (q : e.Quiet e') : e'.st.besideSources = e.st.besideSources :=
  (congrArg (fun u : State => { u with
    slots := Table.empty, stores := Table.empty, rates := Table.empty, defects := Table.empty }) q.kept :)

theorem Ev.settleRaw_besideSources (touched : List Nat) (e : Ev) :
    (e.settleRaw touched).st.besideSources = e.st.besideSources :=
  (congrArg State.besideSources (Ev.settleRaw_rest touched e) :)

theorem Ev.sourceReport_besideSources (n : Nat) (f : DefectRec → DefectRec) (e : Ev) :
    (e.sourceReport n f).st.besideSources = e.st.besideSources := by
  unfold Ev.sourceReport
  split
  · exact Ev.settleRaw_besideSources _ _
  · rfl

theorem State.erroredEvent_besideSources (n : Nat) (s : State) : (s.erroredEvent n).besideSources = s.besideSources := by
  unfold State.erroredEvent; split <;> rfl

theorem State.arriveStore_besideSources (n : Nat) (bytes : List Byte) (errored : Bool) (s : State) :
    (s.arriveStore n bytes errored).besideSources = s.besideSources := by
  have stored : (s.setStore n ((s.store n).arrive bytes).1).besideSources = s.besideSources := rfl
  unfold State.arriveStore
  dsimp only
  (repeat' split) <;> simp only [State.erroredEvent_besideSources, stored]

theorem Ev.markerArrival_besideSources (n : Nat) (bit : Bool) (e : Ev) :
    (e.markerArrival n bit).st.besideSources = e.st.besideSources := by
  unfold Ev.markerArrival
  dsimp only
  split
  · exact Ev.sourceReport_besideSources _ _ _
  · rfl

theorem Ev.tagArrival_besideSources (n : Nat) (x : Option Byte) (tag : Byte) (e : Ev) :
    (e.tagArrival n x tag).st.besideSources = e.st.besideSources := by
  unfold Ev.tagArrival
  dsimp only
  split
  · exact Ev.sourceReport_besideSources _ _ _
  · rfl

/-- What the work of an arrival at one head keeps. -/
theorem Ev.headArrival_besideSources (base : Nat) (slots : List RxSlot) (n : Nat) (p : Profile) (e : Ev) :
    (e.headArrival base slots n p).st.besideSources = e.st.besideSources := by
  have arrived : ∀ bytes bad, ((e.st.arriveStore n bytes bad).pushParity n p.width base slots).besideSources
      = e.st.besideSources := fun bytes bad => State.arriveStore_besideSources n bytes bad e.st
  unfold Ev.headArrival
  dsimp only
  split
  · exact (Ev.markerArrival_besideSources _ _ _).trans (arrived _ _)
  · exact (Ev.tagArrival_besideSources _ _ _ _).trans ((Ev.markerArrival_besideSources _ _ _).trans (arrived _ _))

/-- A property that the work at every head keeps is kept by an arrival (R6). -/
theorem Ev.arrivals_keeps {P : State → Prop}
    (head : ∀ base slots n p (e : Ev), P e.st → P (e.headArrival base slots n p).st) (l : Nat) (slots : List RxSlot)
    {e : Ev} (h : P e.st) : P (e.arrivals l slots).st := by
  unfold Ev.arrivals
  refine List.foldlRecOn (motive := fun e : Ev => P e.st) _ _ h (fun e he n _ => ?_)
  split
  · exact head _ _ _ _ e he
  · exact he

theorem ingressArrival_monitorAgrees (l : LineNo) (r : List RxSlot) : Keeps State.MonitorAgrees (.ingressArrival l r) := by
  intro s t h ht
  change execIngressArrival l r s = _ at ht
  unfold execIngressArrival at ht
  split at ht
  · cases ht
  · split at ht <;> cases ht
    · refine monitorAgrees_deviceInvariant.offered _ (Ev.arrivals_keeps (fun base slots n p e he => ?_) l r h)
      rw [State.monitorAgrees_iff] at he ⊢
      have rest := Ev.headArrival_besideSources base slots n p e
      exact ⟨he.1.of_same (congrArg State.lifs rest :) (congrArg State.lineDefects rest :),
        Ev.headArrival_agrees he.2 base slots n p⟩
    · exact h

/-! ### The reset line and page writes -/

theorem resetLine_monitorAgrees (a b : Bool) : Keeps State.MonitorAgrees (.resetLine a b) := by
  intro s t _ ht
  have fresh : ∀ u : State, u.lifs = .empty → u.lineDefects = .empty → u.stores = .empty → u.defects = .empty →
      u.MonitorAgrees := by
    intro u hf hl hs hd
    constructor <;> intro l <;> simp only [State.lineDefect, State.lif, State.defect, State.derivedRaw, State.store, hf,
      hl, hs, hd] <;> rfl
  change execResetLine a b s = _ at ht
  unfold execResetLine at ht
  dsimp only at ht
  split at ht <;> cases ht <;> exact fresh _ rfl rfl rfl rfl

theorem pageWriteCompletion_monitorAgrees : Keeps State.MonitorAgrees .pageWriteCompletion := by
  intro s t h ht
  change execPageWriteCompletion s = _ at ht
  unfold execPageWriteCompletion at ht
  split at ht
  · cases ht; exact h
  · split at ht
    · dsimp only at ht
      split at ht
      · cases ht
        refine monitorAgrees_deviceInvariant.offered _ ?_
        rw [Ev.raise_st]
        exact h.of_same rfl rfl rfl rfl
      · split at ht <;> cases ht <;> exact h.of_same rfl rfl rfl rfl
    · cases ht; exact h

/-- Settles O58: the parts of a boundary, the line events, arrivals and takes each keep line defects and raw conditions as
the LIFs and the levels give them. -/
theorem everyStepKeepsConditionsDerived : Obligations.EveryStepKeepsConditionsDerived := by
  intro s t
  exact monitorAgrees_deviceInvariant.step_keeps (monitorAgrees_deviceInvariant.exec_keeps resetLine_monitorAgrees
    signalAbsent_monitorAgrees signalPresent_monitorAgrees alignmentFind_monitorAgrees confirmWord_monitorAgrees
    lockedWord_monitorAgrees ingressArrival_monitorAgrees pageWriteCompletion_monitorAgrees)

end Sys2Proof.Machine
end

section
/-! SUPPORT. The order in which the notices of one event reach the links (R168): a merge of what each block raised. -/

namespace Sys2Proof.Machine

/-! ### Merging -/

theorem interleave_perm {α : Type} (pick : Nat → Bool) (f n : Nat) (xs ys : List α) :
    (interleave pick f n xs ys).Perm (xs ++ ys) := by
  induction f generalizing n xs ys with
  | zero => exact .refl _
  | succ f ih =>
    match xs, ys with
    | [], ys => exact .refl _
    | x :: xs, [] => rw [List.append_nil]; exact .refl _
    | x :: xs, y :: ys =>
      unfold interleave
      split
      · exact (ih _ _ _).cons x
      · exact ((ih _ _ _).cons y).trans List.perm_middle.symm

/-- Elements that a test picks from one of two merged lists only keep that list's order. -/
theorem filter_interleave {α : Type} {p : α → Bool} (pick : Nat → Bool) (f n : Nat) {xs ys : List α}
    (h : (∀ x ∈ xs, p x = false) ∨ ∀ y ∈ ys, p y = false) :
    (interleave pick f n xs ys).filter p = xs.filter p ++ ys.filter p := by
  induction f generalizing n xs ys with
  | zero => exact List.filter_append ..
  | succ f ih =>
    match xs, ys with
    | [], ys => rfl
    | x :: xs, [] => simp [interleave]
    | x :: xs, y :: ys =>
      unfold interleave
      split
      · have rest := ih (n + 1) (xs := xs) (ys := y :: ys)
          (h.imp_left fun hx z hz => hx z (List.mem_cons_of_mem _ hz))
        rw [List.filter_cons, List.filter_cons, rest]
        split <;> rfl
      · have rest := ih (n + 1) (xs := x :: xs) (ys := ys)
          (h.imp_right fun hy z hz => hy z (List.mem_cons_of_mem _ hz))
        rw [List.filter_cons, rest]
        rcases h with h | h
        · have none : (x :: xs).filter p = [] := List.filter_eq_nil_iff.mpr fun z hz => by simp [h z hz]
          rw [none, List.filter_cons]
          split <;> rfl
        · have none : (y :: ys).filter p = [] := List.filter_eq_nil_iff.mpr fun z hz => by simp [h z hz]
          have none' : ys.filter p = [] :=
            List.filter_eq_nil_iff.mpr fun z hz => by simp [h z (List.mem_cons_of_mem _ hz)]
          rw [none, none', h y (List.mem_cons_self ..)]
          rfl

/-! ### The offering order -/

/-- One merge of the offering order. -/
def offeringStep (event : Nat) (raised : List (Block × Notice)) (acc : Nat × List Notice) (b : Block) :
    Nat × List Notice :=
  (acc.1 + 1, interleave (Config.firstListNext event acc.1) (acc.2.length + (noticesOf b raised).length) 0 acc.2
    (noticesOf b raised))

/-- The blocks, in the order in which their notices are merged. -/
def blockOrder : List Block := [.timebase, .switch, .mapEngine, .imageStore, .monitor, .protection]

theorem offeringOrder_eq (event : Nat) (raised : List (Block × Notice)) :
    offeringOrder event raised = (blockOrder.foldl (offeringStep event raised) (0, [])).2 := rfl

theorem mem_noticesOf {b : Block} {raised : List (Block × Notice)} {n : Notice} :
    n ∈ noticesOf b raised ↔ (b, n) ∈ raised := by
  unfold noticesOf
  rw [List.mem_filterMap]
  constructor
  · rintro ⟨⟨b', n'⟩, hp, h⟩
    dsimp only at h
    split at h <;> cases h
    subst b'; exact hp
  · intro h
    exact ⟨_, h, by simp⟩

/-- Every notice is one block's. -/
theorem noticesOf_blocks_perm (raised : List (Block × Notice)) :
    (blockOrder.flatMap (noticesOf · raised)).Perm (raised.map (·.2)) := by
  induction raised with
  | nil => exact .refl _
  | cons p rest ih =>
    obtain ⟨b, n⟩ := p
    rw [List.perm_iff_count] at ih ⊢
    intro m
    have := ih m
    cases b <;> simp only [blockOrder, noticesOf, List.flatMap_cons, List.flatMap_nil, List.filterMap_cons,
      List.map_cons, List.count_append, List.count_cons, reduceCtorEq, if_true, if_false, List.count_nil] at this ⊢ <;>
      omega

/-- Every notice of an event is offered, once (R168). -/
theorem offeringOrder_perm (event : Nat) (raised : List (Block × Notice)) :
    (offeringOrder event raised).Perm (raised.map (·.2)) := by
  have merged : ∀ (bs : List Block) (acc : Nat × List Notice),
      (bs.foldl (offeringStep event raised) acc).2.Perm (acc.2 ++ bs.flatMap (noticesOf · raised)) := by
    intro bs
    induction bs with
    | nil => intro acc; simp
    | cons b rest ih =>
      intro acc
      refine (ih _).trans ?_
      rw [List.flatMap_cons, ← List.append_assoc]
      exact (interleave_perm _ _ _ _ _).append_right _
  rw [offeringOrder_eq]
  exact (merged blockOrder (0, [])).trans (noticesOf_blocks_perm raised)

/-- Notices of kinds that only one block raises are offered in the order in which it raised them (R168). -/
theorem filter_offeringOrder {p : Notice → Bool} {raised : List (Block × Notice)} {b : Block} (event : Nat)
    (h : ∀ q ∈ raised, p q.2 = true → q.1 = b) :
    (offeringOrder event raised).filter p = (noticesOf b raised).filter p := by
  have other : ∀ c, c ≠ b → ∀ n ∈ noticesOf c raised, p n = false := by
    intro c hc n hn
    by_contra hp
    exact hc (h _ (mem_noticesOf.mp hn) (by simpa using hp))
  have step : ∀ (c : Block) (acc : Nat × List Notice),
      (c = b → ∀ n ∈ acc.2, p n = false) →
      (offeringStep event raised acc c).2.filter p = acc.2.filter p ++ (noticesOf c raised).filter p := by
    intro c acc hacc
    refine filter_interleave _ _ _ ?_
    by_cases hc : c = b
    · exact .inl (hacc hc)
    · exact .inr (other c hc)
  have merged : ∀ (bs : List Block) (acc : Nat × List Notice), bs.Nodup →
      (b ∈ bs → ∀ n ∈ acc.2, p n = false) →
      (bs.foldl (offeringStep event raised) acc).2.filter p
        = acc.2.filter p ++ if b ∈ bs then (noticesOf b raised).filter p else [] := by
    intro bs
    induction bs with
    | nil => intro acc _ _; simp
    | cons c rest ih =>
      intro acc nodup hacc
      rw [List.nodup_cons] at nodup
      have first := step c acc (fun hc => hacc (hc ▸ List.mem_cons_self ..))
      rw [List.foldl_cons, ih _ nodup.2, first]
      · by_cases hc : c = b
        · subst c
          simp [nodup.1]
        · have none : (noticesOf c raised).filter p = [] :=
            List.filter_eq_nil_iff.mpr fun n hn => by simp [other c hc n hn]
          simp [none, Ne.symm hc]
      · intro hb n hn
        have hc : c ≠ b := fun hc => nodup.1 (hc ▸ hb)
        rcases List.mem_append.mp ((interleave_perm _ _ _ _ _).mem_iff.mp hn) with hn | hn
        · exact hacc (List.mem_cons_of_mem _ hb) n hn
        · exact other c hc n hn
  have whole := merged blockOrder (0, []) (by decide) (fun _ n hn => nomatch hn)
  rw [offeringOrder_eq, whole, if_pos (by cases b <;> decide)]
  rfl

/-! ### What the links get -/

theorem State.notify_link {s : State} (body : NoticeBody) (x : Link) (h : s.image.finished = true) :
    (s.notify body).link x = (s.link x).file ⟨body, s.time.seconds, s.time.frame⟩ := by
  unfold State.notify
  rw [if_pos h, State.offerOne_link]

theorem State.notify_image (s : State) (body : NoticeBody) : (s.notify body).image = s.image := by
  unfold State.notify; split <;> rfl

theorem State.notify_time (s : State) (body : NoticeBody) : (s.notify body).time = s.time := by
  unfold State.notify; split <;> rfl

/-- What a link gets depends on its own record, the site time and the start-up finished flag only. -/
theorem foldl_notify_link_congr {s t : State} (ns : List NoticeBody) {x : Link} (hl : t.link x = s.link x)
    (ht : t.time = s.time) (hi : t.image.finished = s.image.finished) :
    (ns.foldl State.notify t).link x = (ns.foldl State.notify s).link x := by
  induction ns generalizing s t with
  | nil => exact hl
  | cons n rest ih =>
    refine ih ?_ (by rw [State.notify_time, State.notify_time, ht]) (by rw [State.notify_image, State.notify_image, hi])
    unfold State.notify
    rw [hi]
    split
    · rw [State.offerOne_link, State.offerOne_link, hl, ht]
    · exact hl

/-- Before start-up has finished no notice reaches a link (R168). -/
theorem foldl_notify_of_not_finished {s : State} (ns : List NoticeBody) (h : s.image.finished = false) :
    ns.foldl State.notify s = s := by
  induction ns with
  | nil => rfl
  | cons n rest ih =>
    have : s.notify n = s := by simp [State.notify, h]
    rw [List.foldl_cons, this, ih]

/-- Notices that carry the site time are offered as `State.notify` offers them. -/
theorem foldl_offerOne_eq {s : State} (ns : List Notice) (h : s.image.finished = true)
    (hn : ∀ n ∈ ns, n.seconds = s.time.seconds ∧ n.frame = s.time.frame) :
    ns.foldl State.offerOne s = (ns.map (·.body)).foldl State.notify s := by
  induction ns generalizing s with
  | nil => rfl
  | cons n rest ih =>
    have first := hn n (List.mem_cons_self ..)
    have same : s.notify n.body = s.offerOne n := by
      unfold State.notify
      rw [if_pos h, ← first.1, ← first.2]
    rw [List.foldl_cons, List.map_cons, List.foldl_cons, same]
    exact ih h (fun m hm => hn m (List.mem_cons_of_mem _ hm))

/-- What the end of an event gives a link: the event's notices, in the offering order (R168). -/
theorem Ev.offer_link {e : Ev} (hs : e.Stamped) (hf : e.st.image.finished = true) (x : Link) :
    e.offer.link x
      = (((offeringOrder e.st.choices e.raised).map (·.body)).foldl State.notify e.st).link x := by
  have stamped : ∀ n ∈ offeringOrder e.st.choices e.raised,
      n.seconds = e.st.time.seconds ∧ n.frame = e.st.time.frame := by
    intro n hn
    obtain ⟨p, hp, rfl⟩ := List.mem_map.mp ((offeringOrder_perm _ _).mem_iff.mp hn)
    exact hs p hp
  rw [← foldl_offerOne_eq _ hf stamped]
  unfold Ev.offer
  dsimp only
  split
  · cases x <;> rfl
  · rfl

end Sys2Proof.Machine
end

section
/-! SUPPORT. A core frame boundary as a whole (R16, R17, R42, R13): the state it leaves beside the records of sources, groups
and watches, and the notices it raises. -/

namespace Sys2Proof.Machine

/-! ### What the parts of a boundary keep -/

/-- The state without what an adoption, group timers, the decisions and a window end change: what is left of a boundary are
its time, its counter and its frames. -/
def State.besideRecords (s : State) : State :=
  { s with
    slots := .empty, stores := .empty, rates := .empty, holds := .empty, active := none, pendingAct := none
    mapEngine := none, defects := .empty, watches := .empty, patterns := .empty, groups := .empty
    image := ImageCtl.reset, linkA := s.linkA.besideNotices, linkB := s.linkB.besideNotices, choices := 0 }

theorem State.besideRecords_of_sources {s t : State} (h : t.besideSources = s.besideSources) :
    t.besideRecords = s.besideRecords := (congrArg State.besideRecords h :)

theorem State.besideRecords_of_adoption {s t : State} (h : t.besideAdoption = s.besideAdoption) :
    t.besideRecords = s.besideRecords := (congrArg State.besideRecords h :)

theorem State.choices_besideRecords (s : State) (n : Nat) :
    ({ s with choices := n } : State).besideRecords = s.besideRecords := rfl

theorem State.SameButLinks.besideRecords {s t : State} (h : s.SameButLinks t) : t.besideRecords = s.besideRecords := by
  have a : t.linkA.besideNotices = s.linkA.besideNotices := h.links .a
  have b : t.linkB.besideNotices = s.linkB.besideNotices := h.links .b
  calc t.besideRecords
      = { ({ t with linkA := s.linkA, linkB := s.linkB, choices := s.choices } : State).besideRecords with
          linkA := t.linkA.besideNotices, linkB := t.linkB.besideNotices } := rfl
    _ = { s.besideRecords with linkA := t.linkA.besideNotices, linkB := t.linkB.besideNotices } := by rw [h.rest]
    _ = s.besideRecords := by rw [a, b]; rfl

theorem State.finishStartUp_besideRecords (s : State) : s.finishStartUp.besideRecords = s.besideRecords := by
  unfold State.finishStartUp
  dsimp only
  split
  · exact (State.offerOne_same _ _).besideRecords.trans rfl
  · rfl

theorem Ev.adopt_besideRecords (p : PendingActivation) (e : Ev) :
    (e.adopt p).st.besideRecords = e.st.besideRecords := by
  obtain ⟨q, hq, heq⟩ := e.adopt_parts p
  have quiet : q.st.besideRecords = e.st.besideRecords :=
    (State.besideRecords_of_sources hq.besideSources).trans
      (State.besideRecords_of_adoption (e.st.adopted_besideAdoption p))
  rw [heq]
  split
  · rw [Ev.raise_st, quiet]
  · rw [Ev.modify_st, Ev.raise_st, State.finishStartUp_besideRecords, quiet]

theorem Ev.adoptOrCount_besideRecords (s0 : State) (e : Ev) :
    (e.adoptOrCount s0).st.besideRecords = e.st.besideRecords := by
  unfold Ev.adoptOrCount
  split
  · exact Ev.adopt_besideRecords _ e
  · exact State.besideRecords_of_sources (Ev.countTimers_quiet _ _ e).besideSources

theorem State.decideStores_besideSources (s : State) : s.decideStores.besideSources = s.besideSources :=
  (congrArg State.besideSources s.decideStores_rest :)

theorem Ev.endWindowOf_besideSources (n : Nat) (e : Ev) : (e.endWindowOf n).st.besideSources = e.st.besideSources :=
  (Ev.settleRaw_besideSources [n] (e.modify (State.windowJudged n))).trans rfl

theorem Ev.endWindowOf_slots (n : Nat) (e : Ev) : (e.endWindowOf n).st.slots = e.st.slots :=
  (Ev.settleRaw_slots [n] (e.modify (State.windowJudged n))).trans rfl

theorem Ev.windowEnd_besideSources (e : Ev) : e.windowEnd.st.besideSources = e.st.besideSources :=
  List.foldlRecOn (motive := fun f : Ev => f.st.besideSources = e.st.besideSources) _ _ rfl
    (fun f hf n _ => (Ev.endWindowOf_besideSources n f).trans hf)

theorem Ev.windowEnd_slots (e : Ev) : e.windowEnd.st.slots = e.st.slots :=
  List.foldlRecOn (motive := fun f : Ev => f.st.slots = e.st.slots) _ _ rfl
    (fun f hf n _ => (Ev.endWindowOf_slots n f).trans hf)

/-- The end of a boundary counts the window counter, and leaves slots. -/
theorem Ev.closeBoundary_rest (s0 : State) (e : Ev) :
    (e.closeBoundary s0).st.besideRecords = (e.st.countWindow s0.windowEndsNext).besideRecords
      ∧ (e.closeBoundary s0).st.slots = e.st.slots := by
  unfold Ev.closeBoundary
  split
  · rename_i ends
    rw [ends]
    have windows := Ev.windowEnd_besideSources (e.modify (·.countWindow true))
    have slots := Ev.windowEnd_slots (e.modify (·.countWindow true))
    dsimp only
    split
    · have timers := Ev.countTimers_quiet s0 (fun g => !s0.timersFirst g) (e.modify (·.countWindow true)).windowEnd
      exact ⟨(State.choices_besideRecords _ _).trans
        (State.besideRecords_of_sources (timers.besideSources.trans windows)), timers.slots.trans slots⟩
    · exact ⟨(State.choices_besideRecords _ _).trans (State.besideRecords_of_sources windows), slots⟩
  · rename_i ends
    rw [Bool.not_eq_true] at ends
    rw [ends]
    exact ⟨rfl, rfl⟩

/-! ### A boundary's state (R13, R17, R42) -/

/-- The window parameters that a boundary counts: a pending exponent has taken effect (R42, R49). -/
def State.rateAtBoundary (s : State) : RateParams :=
  match s.rate.pendingK with
  | some k => { s.rate with k := k, pendingK := none, counter := 0 }
  | none => s.rate

theorem State.applyExponent_besideRecords (s : State) :
    s.applyExponent.besideRecords = { s.besideRecords with rate := s.rateAtBoundary } := by
  unfold State.applyExponent State.rateAtBoundary
  cases s.rate.pendingK <;> rfl

theorem State.beginBoundary_besideRecords (s : State) :
    s.beginBoundary.besideRecords = { s.besideRecords with time := s.time.tick } := rfl

/-- The state in which the event of a boundary begins: the cause has moved the timebase, and each LIF stops its frame
(R13, R16). -/
def State.atCause (s : State) (t : Timebase) : State :=
  { s with time := t, ended := s.egress.map (⟨·, t.lastBoundary - s.time.lastBoundary⟩) }

/-- The first part of a boundary's event: site time, waits, the TIMING notice. -/
def Ev.beginTiming (timing : Option Bool) (e : Ev) : Ev :=
  match timing with
  | some regained => (e.modify State.beginBoundary).raise .timebase (.timing regained)
  | none => e.modify State.beginBoundary

/-- A boundary's event up to its decisions. -/
def Ev.beforeDecisions (timing : Option Bool) (e : Ev) : Ev :=
  ((e.beginTiming timing).modify State.applyExponent).adoptOrCount e.st

theorem Ev.boundary_eq (timing : Option Bool) (e : Ev) :
    e.boundary timing = ((e.beforeDecisions timing).modify
      (·.decideAndAssemble (e.st.selectionBefore e.st.pendingAct))).closeBoundary e.st := by
  cases timing <;> rfl

theorem State.boundary_eq {s : State} {c : BoundaryCause} {t : Timebase} (h : s.time.boundaryAt c = some t) :
    s.boundary c = ((Ev.start (s.atCause t)).boundary (s.time.timingAt c)).offer := by
  unfold State.boundary
  rw [h]
  rfl

theorem Ev.beginTiming_st (timing : Option Bool) (e : Ev) : (e.beginTiming timing).st = e.st.beginBoundary := by
  unfold Ev.beginTiming
  split
  · exact Ev.raise_st _ _ _
  · rfl

theorem Ev.beforeDecisions_besideRecords (timing : Option Bool) (e : Ev) :
    (e.beforeDecisions timing).st.besideRecords
      = { e.st.besideRecords with time := e.st.time.tick, rate := e.st.rateAtBoundary } := by
  unfold Ev.beforeDecisions
  rw [Ev.adoptOrCount_besideRecords, Ev.modify_st, State.applyExponent_besideRecords, Ev.beginTiming_st,
    State.beginBoundary_besideRecords]
  rfl

/-- A boundary: a state in which every store has decided, the frames begun in it, and the window counter counted; what
follows touches records of sources, groups and watches only. -/
theorem State.boundary_parts {s : State} {c : BoundaryCause} {t : Timebase} (h : s.time.boundaryAt c = some t) :
    ∃ (d : State) (content : Table Content),
      d.besideRecords = { s.besideRecords with
          time := t.tick, ended := s.egress.map (⟨·, t.lastBoundary - s.time.lastBoundary⟩), rate := s.rateAtBoundary }
      ∧ (s.boundary c).besideRecords = ((d.beginFrames content).countWindow s.windowEndsNext).besideRecords
      ∧ (s.boundary c).slots = d.slots := by
  let e := (Ev.start (s.atCause t)).beforeDecisions (s.time.timingAt c)
  let selection := (s.atCause t).selectionBefore s.pendingAct
  obtain ⟨content, hcontent⟩ := State.decideAndAssemble_eq selection e.st
  obtain ⟨closed, slots⟩ := Ev.closeBoundary_rest (s.atCause t) (e.modify (·.decideAndAssemble selection))
  rw [Ev.modify_st, hcontent] at closed slots
  refine ⟨e.st.decideStores, content, ?_, ?_, ?_⟩
  · rw [State.besideRecords_of_sources (State.decideStores_besideSources _)]
    exact Ev.beforeDecisions_besideRecords _ _
  · rw [State.boundary_eq h, Ev.boundary_eq, (Ev.offer_same _).besideRecords]
    exact closed
  · rw [State.boundary_eq h, Ev.boundary_eq, Ev.offer_slots]
    exact slots

/-- The window parameters after a boundary (R42). -/
theorem State.boundary_rate {s : State} {c : BoundaryCause} {t : Timebase} (h : s.time.boundaryAt c = some t) :
    (s.boundary c).rate = { s.rateAtBoundary with
      counter := if s.windowEndsNext then 0 else s.rateAtBoundary.counter + 1 } := by
  obtain ⟨d, content, hd, hb, -⟩ := State.boundary_parts h
  have rate : d.rate = s.rateAtBoundary := (congrArg State.rate hd :)
  have after : (s.boundary c).rate = { d.rate with counter := if s.windowEndsNext then 0 else d.rate.counter + 1 } :=
    (congrArg State.rate hb :)
  rw [after, rate]

/-! ### A boundary's notices (R168, R169) -/

/-- The bodies of the notices of kinds 4 and up that an event has raised. -/
def Ev.highBodies (e : Ev) : List NoticeBody := e.highNotices.map (·.2.body)

/-- Part of an event that leaves the links, the site time and the image store, and raises these notices of kinds 4 and up,
beside others of kinds 0 to 3. -/
structure Ev.Raises (more : List NoticeBody) (e e' : Ev) : Prop where
  linkA   : e'.st.linkA = e.st.linkA
  linkB   : e'.st.linkB = e.st.linkB
  image   : e'.st.image = e.st.image
  time    : e'.st.time = e.st.time
  high    : e'.highBodies = e.highBodies ++ more
  stamped : e.Stamped → e'.Stamped

namespace Ev.Raises

theorem refl (e : Ev) : Raises [] e e := ⟨rfl, rfl, rfl, rfl, (List.append_nil _).symm, id⟩

theorem trans {e f g : Ev} {m n : List NoticeBody} (h : Raises m e f) (k : Raises n f g) : Raises (m ++ n) e g :=
  ⟨k.linkA.trans h.linkA, k.linkB.trans h.linkB, k.image.trans h.image, k.time.trans h.time,
    by rw [k.high, h.high, List.append_assoc], k.stamped ∘ h.stamped⟩

theorem of_quiet {e e' : Ev} (q : e.Quiet e') : Raises [] e e' :=
  ⟨q.linkA, q.linkB, q.image, q.time, by rw [List.append_nil]; exact congrArg (List.map (·.2.body)) q.high, q.stamped⟩

/-- A change of other parts of the state raises nothing. -/
theorem modify (e : Ev) {f : State → State} (a : (f e.st).linkA = e.st.linkA) (b : (f e.st).linkB = e.st.linkB)
    (i : (f e.st).image = e.st.image) (t : (f e.st).time = e.st.time) : Raises [] e (e.modify f) where
  linkA := a
  linkB := b
  image := i
  time := t
  high := (List.append_nil _).symm
  stamped := by
    intro hs p hp
    rw [Ev.modify_st, t]
    exact hs p hp

theorem modify_of_besideSources (e : Ev) {f : State → State} (h : (f e.st).besideSources = e.st.besideSources) :
    Raises [] e (e.modify f) :=
  modify e (congrArg State.linkA h :) (congrArg State.linkB h :) (congrArg State.image h :) (congrArg State.time h :)

/-- Once start-up has finished, a notice of kind 4 and up is raised with the event's site time. -/
theorem raise {e : Ev} (hf : e.st.image.finished = true) (b : Block) {n : NoticeBody} (hk : 4 ≤ n.kindCode) :
    Raises [n] e (e.raise b n) where
  linkA := by rw [Ev.raise_st]
  linkB := by rw [Ev.raise_st]
  image := by rw [Ev.raise_st]
  time := by rw [Ev.raise_st]
  high := by simp [Ev.highBodies, Ev.highNotices, Ev.raise_raised, hf, hk]
  stamped := by
    intro h p hp
    rw [Ev.raise_raised, if_pos hf] at hp
    rw [Ev.raise_st]
    rcases List.mem_append.mp hp with hp | hp
    · exact h p hp
    · rw [List.mem_singleton.mp hp]; exact ⟨rfl, rfl⟩

end Ev.Raises

theorem Ev.settleRaw_raises (touched : List Nat) (e : Ev) : Raises [] e (e.settleRaw touched) :=
  .trans (.modify_of_besideSources e (congrArg State.besideSources (State.storeRaw_rest _ _) :))
    (.of_quiet (Ev.settleRaw_quiet touched e))

theorem Ev.windowEnd_raises (e : Ev) : Raises [] e e.windowEnd :=
  List.foldlRecOn (motive := fun f : Ev => Raises [] e f) _ _ (.refl e) fun f hf n _ =>
    hf.trans (.trans (.modify f rfl rfl rfl rfl) (Ev.settleRaw_raises [n] (f.modify (State.windowJudged n))))

theorem Ev.closeBoundary_raises (s0 : State) (e : Ev) : Raises [] e (e.closeBoundary s0) := by
  unfold Ev.closeBoundary
  split
  · have windows : Raises [] e (e.modify (·.countWindow true)).windowEnd :=
      .trans (.modify e rfl rfl rfl rfl) (Ev.windowEnd_raises _)
    dsimp only
    split
    · exact (windows.trans (.of_quiet (Ev.countTimers_quiet _ _ _))).trans (.modify _ rfl rfl rfl rfl)
    · exact windows.trans (.modify _ rfl rfl rfl rfl)
  · exact .modify e rfl rfl rfl rfl

theorem Ev.decideAndAssemble_raises (selection : Nat → Selection) (e : Ev) :
    Raises [] e (e.modify (·.decideAndAssemble selection)) :=
  have rest := State.decideStores_besideSources e.st
  .modify e (congrArg State.linkA rest :) (congrArg State.linkB rest :) (congrArg State.image rest :)
    (congrArg State.time rest :)

/-- The notice of a change of the reference (R16). -/
def timingNotices : Option Bool → List NoticeBody
  | some r => [.timing r]
  | none => []

/-- The notice of an adoption (R92). -/
def State.adoptionNotices (s : State) : List NoticeBody :=
  match s.pendingAct with
  | some p => [.bankActivated p.bank p.revision s.active]
  | none => []

/-- Once start-up has finished, an adoption raises BANK_ACTIVATED beside the notices of kinds 0 to 3 (R92). -/
theorem Ev.adoptOrCount_raises {s0 : State} {e : Ev} (hf : e.st.image.finished = true)
    (ha : e.st.active = s0.active) :
    Raises s0.adoptionNotices e (e.adoptOrCount s0) := by
  unfold Ev.adoptOrCount State.adoptionNotices
  cases s0.pendingAct with
  | none => exact .of_quiet (Ev.countTimers_quiet s0 s0.timersFirst e)
  | some p =>
    obtain ⟨q, hq, heq⟩ := e.adopt_parts p
    have rest := e.st.adopted_besideAdoption p
    have told : Raises [] e { e with st := e.st.adopted p } := .modify e (f := State.adopted p)
      (congrArg State.linkA rest :) (congrArg State.linkB rest :) (congrArg State.image rest :) (congrArg State.time rest :)
    have before := told.trans (.of_quiet hq)
    have finished : q.st.image.finished = true := by rw [before.image, hf]
    dsimp only
    rw [heq, if_pos hf, ha]
    exact before.trans (.raise finished .switch (by simp [NoticeBody.kindCode]))

/-- The notices of kinds 4 and up of a boundary with a change of the reference or without, and with an adoption or
without, and that its event leaves the links as the wait counts have left them. -/
theorem Ev.boundary_raises {timing : Option Bool} {s : State} (hf : s.image.finished = true) :
    Raises (timingNotices timing ++ s.adoptionNotices) (Ev.start s.beginBoundary) ((Ev.start s).boundary timing) := by
  have begun : Raises (timingNotices timing) (Ev.start s.beginBoundary)
      ((Ev.start s).beginTiming timing) := by
    cases timing with
    | none => exact .refl _
    | some r => exact .raise (e := Ev.start s.beginBoundary) hf .timebase (by simp [NoticeBody.kindCode])
  have exponent : Raises [] ((Ev.start s).beginTiming timing)
      (((Ev.start s).beginTiming timing).modify State.applyExponent) := by
    refine .modify _ ?_ ?_ ?_ ?_ <;> (unfold State.applyExponent; split <;> rfl)
  have adopted := Ev.adoptOrCount_raises (s0 := s) (e := ((Ev.start s).beginTiming timing).modify State.applyExponent)
    (by rw [exponent.image, begun.image]; exact hf)
    (by
      rw [Ev.modify_st, Ev.beginTiming_st]
      unfold State.applyExponent
      split <;> rfl)
  have decided := Ev.decideAndAssemble_raises (s.selectionBefore s.pendingAct) ((Ev.start s).beforeDecisions timing)
  rw [Ev.boundary_eq, Ev.start_st]
  have all := (((begun.trans exponent).trans adopted).trans decided).trans (Ev.closeBoundary_raises s _)
  simpa only [List.append_nil] using all

end Sys2Proof.Machine
end

section
/-! SUPPORT. The commands that are a boundary, and what every boundary does to time, counter, frames and notices (R13 to R17,
R42). -/

namespace Sys2Proof.Machine

/-! ### Which command is a boundary -/

/-- The timebase that a cause leaves, in the terms of R16. -/
def State.timeAtCause (s : State) : BoundaryCause → Timebase
  | .mark m =>
    if s.time.refPresent then { s.time with lastBoundary := m }
    else { s.time with refPresent := true, regain := 0, lastMark := none, lastBoundary := m }
  | .oscillator => { s.time with lastBoundary := s.time.lastBoundary + 250000 }
  | .lost => { s.time with
      refPresent := false, regain := 0, lastMark := none, lastBoundary := s.time.lastBoundary + 375000 }

theorem State.boundaryAt_of_makes {s : State} {c : BoundaryCause} (h : s.makesBoundary c) :
    s.time.boundaryAt c = some (s.timeAtCause c) := by
  cases c with
  | mark m =>
    obtain ⟨late, present | regain⟩ := h
    · exact (if_pos ⟨present.1, late, present.2⟩).trans (by simp [State.timeAtCause, present.1])
    · have absent : s.time.refPresent = false := regain.1
      have regains := (Timebase.regainsAt_iff s.time m).mpr regain
      refine (if_neg (by simp [absent])).trans ((if_pos ⟨regains, late⟩).trans ?_)
      simp [State.timeAtCause, absent, Timebase.regained]
  | oscillator =>
    have absent : s.time.refPresent = false := h
    simp [Timebase.boundaryAt, State.timeAtCause, absent, framePeriod]
  | lost =>
    have present : s.time.refPresent = true := h
    simp [Timebase.boundaryAt, State.timeAtCause, present, markSpacingMax]

/-- A frame mark that makes a boundary is that boundary (R16). -/
theorem execFrameMark_boundary {s : State} {m : Nat} (h : s.makesBoundary (.mark m)) :
    execFrameMark m s = .next (s.boundary (.mark m)) := by
  obtain ⟨late, present | regain⟩ := h
  · refine (if_pos present.1).trans ((if_neg ?_).trans (if_pos present.2))
    exact Nat.not_lt.mpr late
  · have absent : s.time.refPresent = false := regain.1
    have regains := (Timebase.regainsAt_iff s.time m).mpr regain
    refine (if_neg (by simp [absent])).trans (congrArg _ ?_)
    exact (if_pos regains).trans (if_pos late)

/-- Every row that is the boundary a cause produces has the same effect (log entry 3). -/
theorem State.BoundaryRow.exec_eq {s : State} {c : BoundaryCause} {i : Instr} (h : s.BoundaryRow c i)
    (hm : s.makesBoundary c) : exec i s = .next (s.boundary c) := by
  cases h with
  | event =>
    cases c with
    | mark m => exact execFrameMark_boundary hm
    | oscillator => rfl
    | lost => rfl
  | second running due =>
    refine if_pos ?_
    have : 4000 ≤ s.time.frame + 1 := by omega
    simp [State.rolloverDue, running, this]
  | window ends =>
    refine if_pos ?_
    simp [State.windowEndsNext, ends.1, ends.2]
  | holdOffWorking g defined due =>
    refine if_pos ?_
    have timer : (s.group g).timerOf .working = 1 := due
    rw [Option.isSome_iff_ne_none.mpr defined, timer]; rfl
  | holdOffProtect g defined due =>
    refine if_pos ?_
    have timer : (s.group g).timerOf .protect = 1 := due
    rw [Option.isSome_iff_ne_none.mpr defined, timer]; rfl
  | restoreWait g defined due =>
    refine if_pos ?_
    rw [Option.isSome_iff_ne_none.mpr defined, due]; rfl
  | alertDelay x q head delayed due =>
    refine if_pos ?_
    obtain ⟨rest, hrest⟩ : ∃ rest, (s.link x).queue = q :: rest := by
      cases hq : (s.link x).queue with
      | nil => rw [hq] at head; cases head
      | cons a rest => rw [hq] at head; cases head; exact ⟨rest, rfl⟩
    simp [LinkState.delayDue, hrest, delayed, due]
  | adoption p pending => exact if_pos (by rw [pending]; rfl)

/-! ### Time, counter and frames -/

/-- The site time's step, in the terms of R17. -/
theorem Timebase.tick_eq (t : Timebase) :
    t.tick = (if t.clockRunning = false then { t with clockRunning := true }
      else if t.frame + 1 < 4000 then { t with frame := t.frame + 1 }
      else { t with
        frame := 0, pendingSeconds := none
        seconds := match t.pendingSeconds with | some v => v | none => t.seconds + 1 }) := by
  unfold Timebase.tick
  cases t.clockRunning <;> cases t.pendingSeconds <;> simp

theorem Timebase.tick_lastBoundary (t : Timebase) : t.tick.lastBoundary = t.lastBoundary := by
  unfold Timebase.tick
  (repeat' split) <;> rfl

/-- The state after a boundary beside records of sources, groups and watches (R13, R17, R42). -/
theorem State.boundary_fields {s : State} {c : BoundaryCause} (h : s.makesBoundary c) :
    (s.boundary c).time = (s.timeAtCause c).tick
      ∧ (s.boundary c).egress ≠ none
      ∧ (s.boundary c).ended = s.egress.map (⟨·, (s.timeAtCause c).lastBoundary - s.time.lastBoundary⟩)
      ∧ (∀ l, (s.boundary c).lif l
          = if l < 18 then { s.lif l with egressPhase := !(s.lif l).egressPhase } else s.lif l)
      ∧ (s.boundary c).pending = s.pending ∧ (s.boundary c).banks = s.banks
      ∧ (s.boundary c).lineDefects = s.lineDefects ∧ (s.boundary c).flash = s.flash
      ∧ ∀ x, ((s.boundary c).link x).besideNotices = (s.link x).besideNotices := by
  obtain ⟨d, content, hd, hb, -⟩ := State.boundary_parts (State.boundaryAt_of_makes h)
  refine ⟨(congrArg State.time hb :).trans (congrArg State.time hd :), ?_,
    (congrArg State.ended hb :).trans (congrArg State.ended hd :), fun l => ?_,
    (congrArg State.pending hb :).trans (congrArg State.pending hd :),
    (congrArg State.banks hb :).trans (congrArg State.banks hd :),
    (congrArg State.lineDefects hb :).trans (congrArg State.lineDefects hd :),
    (congrArg State.flash hb :).trans (congrArg State.flash hd :), fun x => ?_⟩
  · have egress : (s.boundary c).egress = (d.beginFrames content).egress := (congrArg State.egress hb :)
    rw [egress]
    exact Option.some_ne_none _
  · have after : (s.boundary c).lif l = (d.beginFrames content).lif l :=
      (congrArg (fun u : State => u.lif l) hb :)
    have before : d.lif l = s.lif l := (congrArg (fun u : State => u.lif l) hd :)
    rw [after, State.beginFrames_lif, before]
  · cases x
    · exact (congrArg State.linkA hb :).trans (congrArg State.linkA hd :)
    · exact (congrArg State.linkB hb :).trans (congrArg State.linkB hd :)

/-- The window parameters after a boundary, in the terms of R42. -/
theorem State.boundary_rate_eq {s : State} {c : BoundaryCause} (h : s.makesBoundary c) :
    (s.boundary c).rate = (match s.rate.pendingK with
      | some k => { s.rate with k := k, pendingK := none, counter := 1 }
      | none => { s.rate with counter := if s.rate.counter + 1 = 2 ^ s.rate.k then 0 else s.rate.counter + 1 }) := by
  rw [State.boundary_rate (State.boundaryAt_of_makes h)]
  unfold State.rateAtBoundary State.windowEndsNext
  cases s.rate.pendingK with
  | none => simp
  | some k => simp

/-! ### Notices -/

/-- A link that has waited through a boundary (R169, R172). -/
theorem State.beginBoundary_link (s : State) (x : Link) : s.beginBoundary.link x = (s.link x).waited := by
  cases x <;> rfl

/-- Once start-up has finished, the Core Timebase and the Switch raise what R16 and R92 say. -/
theorem State.boundaryNotices_eq {s : State} (c : BoundaryCause) (hf : s.image.finished = true) :
    s.boundaryNotices c = timingNotices (s.time.timingAt c) ++ s.adoptionNotices := by
  unfold State.boundaryNotices
  rw [if_pos hf]
  cases c with
  | mark m => cases h : s.time.refPresent <;>
      simp [Timebase.timingAt, timingNotices, State.adoptionNotices, h] <;> rfl
  | oscillator => rfl
  | lost => rfl

/-- Once start-up has finished, a boundary offers its notices to links that have waited: those of kinds 4 and up are the
Core Timebase's and the Switch's (R168, R169). -/
theorem State.boundary_notices {s : State} {c : BoundaryCause} (h : s.makesBoundary c)
    (hf : s.image.finished = true) : ∃ order : List NoticeBody,
      (order.filter (fun b => decide (4 ≤ b.kindCode))).Perm (s.boundaryNotices c)
      ∧ ∀ x, (s.boundary c).link x = (order.foldl State.notify (s.beforeNotices (s.boundary c))).link x := by
  let e := (Ev.start (s.atCause (s.timeAtCause c))).boundary (s.time.timingAt c)
  have whole : s.boundary c = e.offer := State.boundary_eq (State.boundaryAt_of_makes h)
  have raised := Ev.boundary_raises (timing := s.time.timingAt c) (s := s.atCause (s.timeAtCause c)) hf
  have finished : e.st.image.finished = true := by rw [raised.image]; exact hf
  have stamped : e.Stamped := raised.stamped (fun p hp => nomatch hp)
  refine ⟨(offeringOrder e.st.choices e.raised).map (·.body), ?_, fun x => ?_⟩
  · have high : ((offeringOrder e.st.choices e.raised).map (·.body)).filter (fun b => decide (4 ≤ b.kindCode))
        = ((offeringOrder e.st.choices e.raised).filter (fun n => decide (4 ≤ n.body.kindCode))).map (·.body) :=
      List.filter_map
    have bodies : e.highBodies = s.boundaryNotices c := by
      rw [State.boundaryNotices_eq c hf]
      exact raised.high
    rw [high, ← bodies]
    refine (((offeringOrder_perm _ _).filter _).map _).trans (List.Perm.of_eq ?_)
    rw [List.filter_map, List.map_map]
    rfl
  · rw [State.beforeNotices_of_finished hf]
    refine (congrArg (fun u : State => u.link x) whole).trans ((Ev.offer_link stamped finished x).trans ?_)
    refine foldl_notify_link_congr _ ?_ ?_ ?_
    · have links : e.st.link x = (s.link x).waited := by
        cases x
        · exact raised.linkA
        · exact raised.linkB
      rw [links]
      cases x <;> rfl
    · rw [whole]; exact e.offer_time.symm
    · rw [whole]; exact (congrArg ImageCtl.finished e.offer_image).symm

/-- Settles O21: every row is the one boundary, whose fields and notices are known. -/
theorem everyBoundaryMovesTimeAndCounter : Obligations.EveryBoundaryMovesTimeAndCounter := by
  intro s c i hm hrow
  obtain ⟨time, egress, ended, lifs, pending, banks, lines, flash, links⟩ := State.boundary_fields hm
  refine ⟨s.boundary c, hrow.exec_eq hm, ?_, State.boundary_rate_eq hm, lifs, egress, ended, pending,
    fun b => by simp only [State.bank, banks], lines, flash, links, State.boundary_notices hm⟩
  rw [time, Timebase.tick_eq]
  cases c with
  | mark m => cases present : s.time.refPresent <;> simp [State.timeAtCause, present] <;> rfl
  | oscillator => rfl
  | lost => rfl

end Sys2Proof.Machine
end

section
/-! SUPPORT. The frame that a boundary begins (R13 to R15), and the marks that regain the reference (R16). -/

namespace Sys2Proof.Machine

/-! ### Uncovered slots (R13, R97) -/

/-- A slot that no head of the content covers. -/
def Uncovered (content : Table Content) (n : Nat) : Prop :=
  ∀ h ∈ content.keys, n ∉ coveredSlots h (content.get Content.idle h).width

theorem Width.toNat_pos (w : Width) : 0 < w.toNat := by cases w <;> decide

theorem mem_coveredSlots {n h : Nat} {w : Width} : n ∈ coveredSlots h w ↔ h ≤ n ∧ n < h + w.toNat := by
  simp only [coveredSlots, List.mem_map, List.mem_range]
  constructor
  · rintro ⟨j, hj, rfl⟩; omega
  · intro hn; exact ⟨n - h, by omega, by omega⟩

/-- An uncovered slot has IDLE content (R97). -/
theorem Uncovered.get {content : Table Content} {n : Nat} (h : Uncovered content n) :
    content.get Content.idle n = Content.idle := by
  refine Table.get_of_not_mem _ _ _ fun hn => h n hn (mem_coveredSlots.mpr ⟨le_rfl, ?_⟩)
  have := (content.get Content.idle n).width.toNat_pos
  omega

/-- An uncovered slot is its own head (R13). -/
theorem Uncovered.coveringHead {content : Table Content} {n : Nat} (h : Uncovered content n) :
    coveringHead content n = n := by
  unfold Machine.coveringHead
  rw [List.findSome?_eq_none_iff.mpr, Option.getD_none]
  intro i _
  split
  · rename_i hi
    split
    · rename_i c hc
      have listed : n - i ∈ content.keys := List.mem_map.mpr ⟨_, mem_keys_of_findKey hc, rfl⟩
      have record : content.get Content.idle (n - i) = c := by simp [Table.get, hc]
      have outside := h _ listed
      rw [record, mem_coveredSlots] at outside
      exact if_neg (by omega)
    · rfl
  · rfl

/-- The positions of an uncovered slot are filler, whose XOR is 00h (R13). -/
theorem Uncovered.xor_positions {content : Table Content} {n : Nat} (h : Uncovered content n) :
    xorBytes (slotPositions content n) = 0 := by
  unfold slotPositions
  dsimp only
  rw [h.coveringHead, h.get, Nat.sub_self]
  rfl

theorem State.mem_egressSlots {s : State} {content : Table Content} {n : Nat} :
    n ∈ s.egressSlots content ↔ ¬Uncovered content n ∨ n ∈ s.sentParity.keys := by
  unfold State.egressSlots Uncovered
  rw [mem_sortedUnique, List.mem_append, List.mem_flatMap]
  push Not
  rfl

/-- A slot outside the frame's slots has sent filler before and sends filler now (R15). -/
theorem State.sent_of_not_mem_egressSlots {s : State} {content : Table Content} {n : Nat}
    (h : n ∉ s.egressSlots content) : Uncovered content n ∧ s.sent n = SentParity.reset := by
  rw [State.mem_egressSlots, not_or, not_not] at h
  exact ⟨h.1, Table.get_of_not_mem _ _ _ h.2⟩

/-! ### The frame begun (R13 to R15) -/

/-- R15: the egress parity history of every slot takes the XOR of what the slot is handed. -/
theorem State.beginFrames_sent (content : Table Content) (s : State) (n : Nat) :
    (s.beginFrames content).sent n = ⟨xorBytes (slotPositions content n), (s.sent n).newer⟩ := by
  refine (Table.get_update SentParity.reset s.sentParity (s.egressSlots content) _ n).trans ?_
  split
  · rfl
  · rename_i h
    obtain ⟨uncovered, sent⟩ := State.sent_of_not_mem_egressSlots h
    rw [uncovered.xor_positions, sent]
    exact sent

/-- The overhead byte of a head, or of an uncovered slot, in the frame begun (R13 to R15). -/
theorem State.beginFrames_overhead {content : Table Content} {s : State} {f : EgressFrame}
    (hf : (s.beginFrames content).egress = some f) {h : Nat} (hh : coveringHead content h = h) :
    f.content = content ∧ f.overhead.get 0 h = s.egressOverhead content h := by
  cases hf
  refine ⟨rfl, (Table.get_update 0 Table.empty _ _ h).trans ?_⟩
  split
  · rfl
  · rename_i hn
    have outside : h ∉ s.egressSlots content := fun hm => hn (List.mem_filter.mpr ⟨hm, by simp [hh]⟩)
    obtain ⟨uncovered, sent⟩ := State.sent_of_not_mem_egressSlots outside
    unfold State.egressOverhead
    dsimp only
    rw [uncovered.get]
    split
    · have covered : coveredSlots h Content.idle.width = [h] := rfl
      simp only [State.egressParity, covered, List.flatMap_cons, List.flatMap_nil, sent]
      rfl
    · rfl

/-- The overhead byte by the phase, in the terms of R14 and R15. -/
theorem State.egressOverhead_eq (s : State) (content : Table Content) (h : Nat) :
    s.egressOverhead content h =
      if (s.lif (lineOfSlot h)).egressPhase then
        xorBytes ((coveredSlots h (content.get Content.idle h).width).flatMap
          (fun n => [(s.sent n).newer, (s.sent n).older]))
      else
        match (content.get Content.idle h).tag, (content.get Content.idle h).resolved with
        | some tag, _ => tag
        | none, some n => ((s.slot n).accepted).getD 0x00#8
        | none, none => 0x00#8 := by
  unfold State.egressOverhead State.egressParity State.egressTag
  dsimp only
  cases (content.get Content.idle h).tag <;> cases (content.get Content.idle h).resolved <;> rfl

/-- A frame's bytes on a line, in the terms of R13. -/
theorem frameBytes_eq (f : EgressFrame) (phase : Bool) (l : LineNo) :
    frameBytes f phase l = [0x4E#8, 0x97#8, 0x1D#8, 0xC2#8]
      ++ (List.range (if l.val < 16 then 48 else 384)).flatMap (fun j => egressSlotBytes f phase (firstSlot l + j)) :=
  rfl

theorem frameLength_eq (l : LineNo) : frameLength l = if l.val < 16 then 3220 else 25732 := by
  unfold frameLength slotsOfLine
  split <;> rfl

/-- Settles O27: the frames of `State.beginFrames`, seen from the state after the boundary. -/
theorem framesCarryTagsAndParity : Obligations.FramesCarryTagsAndParity := by
  intro s c i hm hrow
  obtain ⟨d, content, hd, hb, slots⟩ := State.boundary_parts (State.boundaryAt_of_makes hm)
  obtain ⟨time, -, ended, lifs, -⟩ := State.boundary_fields hm
  obtain ⟨f, hf⟩ : ∃ f, (d.beginFrames content).egress = some f := ⟨_, rfl⟩
  have egress : (s.boundary c).egress = some f := (congrArg State.egress hb :).trans hf
  have begun : f.content = content := by cases hf; rfl
  have sent : ∀ n, d.sent n = s.sent n := fun n => (congrArg (fun u : State => u.sent n) hd :)
  have lif : ∀ n, d.lif n = s.lif n := fun n => (congrArg (fun u : State => u.lif n) hd :)
  have toggled : ∀ l : LineNo, ((s.boundary c).lif l).egressPhase = !(s.lif l).egressPhase := fun l => by
    rw [lifs, if_pos l.isLt]
  refine ⟨s.boundary c, f, hrow.exec_eq hm, egress, fun n => ?_, fun h hh => ?_, fun l => ⟨?_, ?_⟩⟩
  · have after : (s.boundary c).sent n = (d.beginFrames content).sent n := (congrArg (fun u : State => u.sent n) hb :)
    rw [after, State.beginFrames_sent, sent, begun]
  · rw [begun] at hh ⊢
    have tag : ∀ n, (s.boundary c).slot n = d.slot n := fun n => by simp only [State.slot, slots]
    rw [(State.beginFrames_overhead hf hh).2, State.egressOverhead_eq, lif]
    simp only [sent, tag] <;> rfl
  · unfold lineFrame
    rw [egress, Option.map_some, toggled, Bool.not_not, frameBytes_eq]
    refine congrArg some (congrArg _ (congrArg (List.flatMap · _) (funext fun j => ?_)))
    unfold egressSlotBytes controlByte slotPositions Content.positions
    dsimp only
    cases (f.content.get Content.idle (coveringHead f.content (firstSlot l + j))).code <;> rfl
  · unfold lineBefore lineFrame
    rw [ended, toggled, time, Timebase.tick_lastBoundary, ← frameLength_eq]
    cases s.egress <;> rfl

/-! ### Marks (R16) -/

/-- A mark is spaced from the last counted one (R16). -/
def Timebase.Spaced (t : Timebase) (m : Nat) : Prop := ∃ q, t.lastMark = some q ∧ q + 125000 ≤ m ∧ m ≤ q + 375000

/-- A mark counted toward the regain (R16). -/
theorem Timebase.countMark_spaced {t : Timebase} {m : Nat} (hr : t.regain ≠ 0) (h : t.Spaced m) :
    t.countMark m = { t with lastMark := some m, regain := t.regain + 1 } := by
  obtain ⟨q, hq, early, late⟩ := h
  simp [Timebase.countMark, hq, hr, markSpacingMin, markSpacingMax, early, late]

/-- A mark that begins a new count (R16). -/
theorem Timebase.countMark_afresh {t : Timebase} {m : Nat} (h : t.regain = 0 ∨ ¬t.Spaced m) :
    t.countMark m = { t with lastMark := some m, regain := 1 } := by
  unfold Timebase.countMark
  rcases h with hr | hs
  · simp [hr]
  · cases hq : t.lastMark with
    | none => simp
    | some q =>
      have : ¬(q + markSpacingMin ≤ m ∧ m ≤ q + markSpacingMax) := fun k => hs ⟨q, hq, k.1, k.2⟩
      rw [not_and_or] at this
      rcases this with k | k <;> simp [k]

/-- While the reference is absent a frame mark counts toward its regain (R16). -/
theorem execFrameMark_absent {s : State} (h : s.time.refPresent = false) (m : Nat) :
    execFrameMark m s = .next (s.markTowardRegain m) := if_neg (by simp [h])

/-- A mark that is not the 16th good one is counted (R16). -/
theorem State.markTowardRegain_counts {s : State} {m : Nat} (h : (s.time.countMark m).regain < 16) :
    s.markTowardRegain m = { s with time := s.time.countMark m } := by
  refine if_neg ?_
  simp [Timebase.regainsAt, h]

/-- The 16th good mark, too early for a boundary, makes the reference present (R16). -/
theorem State.markTowardRegain_early {s : State} {m : Nat} (h : s.time.regainsAt m = true)
    (early : m < s.time.lastBoundary + 125000) : s.markTowardRegain m = State.notify
      { s with time := { s.time with refPresent := true, regain := 0, lastMark := none } } (.timing true) := by
  refine (if_pos h).trans ((if_neg (Nat.not_le.mpr early)).trans ?_)
  exact Ev.offer_raise_start _ _ _

/-- Settles O23: a mark is disregarded, counted, or a boundary, and a late one finds the reference lost first. -/
theorem marksRegainTheReference : Obligations.MarksRegainTheReference := by
  intro s m
  refine ⟨fun present early => ?_, fun absent => ⟨fun hr hs few => ?_, fun h => ?_, fun hr hs many => ⟨fun early => ?_,
    fun late => ?_⟩, ?_⟩, fun present => ?_, fun present late => ?_⟩
  · exact (if_pos present).trans (if_pos early)
  · have counted := Timebase.countMark_spaced hr hs
    refine (execFrameMark_absent absent m).trans (congrArg _ ?_)
    rw [State.markTowardRegain_counts (by rw [counted]; exact few), counted]
  · have counted := Timebase.countMark_afresh h
    refine (execFrameMark_absent absent m).trans (congrArg _ ?_)
    rw [State.markTowardRegain_counts (by rw [counted]; exact (by decide : 1 < 16)), counted]
  · have regains := (s.time.regainsAt_iff m).mpr ⟨absent, by omega, hs⟩
    exact (execFrameMark_absent absent m).trans (congrArg _ (State.markTowardRegain_early regains early))
  · have makes : s.makesBoundary (.mark m) := ⟨late, .inr ⟨absent, by omega, hs⟩⟩
    refine ⟨makes, s.boundary (.mark m), execFrameMark_boundary makes, ?_⟩
    have regained : s.timeAtCause (.mark m)
        = { s.time with refPresent := true, regain := 0, lastMark := none, lastBoundary := m } :=
      if_neg (by simp [absent])
    rw [(State.boundary_fields makes).1, regained]
    unfold Timebase.tick
    (repeat' split) <;> exact ⟨rfl, rfl, rfl, rfl⟩
  · exact if_neg (by simp [absent])
  · exact if_pos present
  · have lost : s.makesBoundary .lost := present
    have absent : (s.boundary .lost).time.refPresent = false := by
      rw [(State.boundary_fields lost).1]
      unfold Timebase.tick
      (repeat' split) <;> rfl
    refine ⟨s.boundary .lost, (s.boundary .lost).markTowardRegain m, rfl, absent, execFrameMark_absent absent m, ?_⟩
    refine (if_pos present).trans ((if_neg ?_).trans (if_neg ?_))
    · simp only [markSpacingMin]; omega
    · simp only [markSpacingMax]; omega

end Sys2Proof.Machine
end

section
/-! SUPPORT. Stores, request lists, links, time, windows and an unfinished save stay in their ranges (R17, R19, R41, R42,
R132, R169, R172, R179). -/

namespace Sys2Proof.Machine

/-! ### Stores (R19) -/

theorem Store.reset_bounded : Store.reset.Bounded :=
  ⟨le_rfl, by decide, by decide, fun _ => rfl, fun _ => ⟨rfl, rfl⟩, by decide⟩

theorem Store.startAnew_bounded (w : Option Width) : (Store.startAnew w).Bounded :=
  ⟨Nat.zero_le _, (by decide : (-4095 : Int) ≤ 0), (by decide : (0 : Int) ≤ 4095), fun _ => rfl, fun h => (nomatch h),
    (by decide : 0 ≤ 255)⟩

theorem Store.obey_bounded {st : Store} (h : st.Bounded) (o : StoreOrder) (w : Option Width) : (st.obey o w).Bounded := by
  cases o
  · exact h
  · exact h
  · exact Store.startAnew_bounded w
  · exact Store.reset_bounded

/-- An arrival keeps a store in its bounds (R22 to R24). -/
theorem Store.arrive_bounded {st : Store} (h : st.Bounded) (bs : List Byte) : (st.arrive bs).1.Bounded := by
  rcases st.arrive_cases bs with ⟨-, heq⟩ | ⟨busy, fits, heq⟩ | ⟨busy, -, heq⟩ <;> rw [heq]
  · exact h
  · refine ⟨?_, h.low, h.high, h.rest, fun k => absurd k busy, h.slips⟩
    show (st.bytes ++ bs).length ≤ 256 * st.w
    rwa [List.length_append]
  · refine ⟨?_, (by decide : (-4095 : Int) ≤ 0), (by decide : (0 : Int) ≤ 4095), fun _ => rfl, fun k => absurd k busy,
      min_le_right _ _⟩
    show (((st.bytes ++ bs).take (256 * st.w)).drop (128 * st.w)).length ≤ 256 * st.w
    simp only [List.length_drop, List.length_take]
    omega

/-- A RUNNING decision leaves a store in its bounds (R27 to R31). -/
theorem Store.decideRunning_bounded {st : Store} (j : Nat) (fill : st.bytes.length ≤ 256 * st.w)
    (slips : st.slips ≤ 255) : (st.decideRunning j).1.Bounded := by
  obtain ⟨low, high⟩ := justify_bounds j st.w st.fill st.integrator
  unfold Store.decideRunning
  dsimp only
  split
  · refine ⟨?_, low, high, fun k => absurd rfl k, fun k => (nomatch k), slips⟩
    show (st.bytes.drop _).length ≤ 256 * st.w
    rw [List.length_drop]
    omega
  · exact ⟨Nat.zero_le _, (by decide : (-4095 : Int) ≤ 0), (by decide : (0 : Int) ≤ 4095), fun _ => rfl,
      fun k => (nomatch k), min_le_right _ _⟩

/-- A core frame decision keeps a store in its bounds (R25, R26). -/
theorem Store.decide_bounded {st : Store} (h : st.Bounded) (j : Nat) : (st.decide j).1.Bounded := by
  unfold Store.decide
  split
  · exact h
  · rename_i priming
    split
    · exact ⟨h.fill, h.low, h.high, h.rest, h.idle, h.slips⟩
    · exact Store.decideRunning_bounded j h.fill h.slips
  · exact Store.decideRunning_bounded j h.fill h.slips

/-- Every store is within its bounds (R19). -/
def State.StoresBounded (s : State) : Prop := ∀ n, (s.store n).Bounded

theorem State.StoresBounded.setStore {s : State} (h : s.StoresBounded) {n : Nat} {st : Store} (hst : st.Bounded) :
    (s.setStore n st).StoresBounded := by
  intro m
  rw [State.setStore_store]
  split
  · exact hst
  · exact h m

theorem State.StoresBounded.of_stores {s t : State} (h : s.StoresBounded) (k : t.stores = s.stores) :
    t.StoresBounded := by
  intro n
  simpa only [State.store, k] using h n

theorem State.StoresBounded.decideStores {s : State} (h : s.StoresBounded) : s.decideStores.StoresBounded := by
  refine List.foldlRecOn _ _ h (fun s hs n _ => ?_)
  have stored := hs.setStore (n := n) (Store.decide_bounded (hs n) s.rate.j)
  rcases s.decideStore_eq n with heq | heq <;> rw [heq]
  · exact stored
  · exact stored.of_stores (congrArg State.stores (State.erroredEvent_rest _ n) :)

/-! ### Links (R169, R172) -/

/-- The value R172 gives the alert line, as the evaluation finds it. -/
theorem LinkState.alertDue_iff (l : LinkState) : l.alertDue = true ↔ l.alertWanted := by
  unfold LinkState.alertDue LinkState.alertWanted LinkState.oldestWaited
  cases l.queue with
  | nil => simp
  | cons q rest => simp

theorem LinkState.Sound.file {l : LinkState} (h : l.Sound) (n : Notice) : (l.file n).Sound := by
  have bound := l.file_bound n h.queue
  unfold LinkState.file at bound ⊢
  split
  · exact h
  · split
    · exact ⟨h.queue, h.alert⟩
    · rename_i listens room
      rw [if_neg listens, if_neg room] at bound
      exact ⟨bound, rfl⟩

/-- Both links' queues and alert lines are sound. -/
def State.LinksSound (s : State) : Prop := ∀ x, (s.link x).Sound

theorem State.LinksSound.offerAll {s : State} (h : s.LinksSound) (ns : List Notice) :
    (ns.foldl State.offerOne s).LinksSound :=
  List.foldlRecOn (motive := State.LinksSound) ns _ h fun s hs n _ x => by
    rw [State.offerOne_link]
    exact (hs x).file n

theorem State.LinksSound.of_links {s t : State} (h : s.LinksSound) (a : t.linkA = s.linkA) (b : t.linkB = s.linkB) :
    t.LinksSound := by
  intro x
  cases x
  · exact (congrArg LinkState.Sound a).mpr (h .a)
  · exact (congrArg LinkState.Sound b).mpr (h .b)

theorem State.LinksSound.offer {e : Ev} (h : e.st.LinksSound) : e.offer.LinksSound := by
  have all := h.offerAll (offeringOrder e.st.choices e.raised)
  unfold Ev.offer
  dsimp only
  split
  · exact all.of_links rfl rfl
  · exact all

/-! ### The save in progress (R179) -/

/-- Between its two writes of page 0, SAVE IMAGE has left an invalidated header there. -/
def State.SaveMarked (s : State) : Prop :=
  ∀ op p, s.image.op = some op → op.op = .save → op.page = some p → 0 < p ∨ op.finalHeader = true →
    s.flashPage 0 = invalidHeaderPage

theorem State.SaveMarked.of_same {s t : State} (h : s.SaveMarked) (hi : t.image.op = s.image.op)
    (hf : t.flash = s.flash) : t.SaveMarked := by
  intro op p hop hs hp hm
  rw [State.flashPage, hf]
  exact h op p (hi ▸ hop) hs hp hm

/-! ### All ranges but the window parameters' -/

/-- The ranges of `State.RecordsBounded`, but for the window parameters. -/
structure State.RangesKept (s : State) : Prop where
  stores   : s.StoresBounded
  requests : s.RequestsOrdered
  links    : s.LinksSound
  frame    : s.time.frame < 4000
  saving   : s.SaveMarked

/-- The window exponents and the counter are in their ranges (R41, R42). -/
structure RateParams.InRange (r : RateParams) : Prop where
  exponent : 10 ≤ r.k ∧ r.k ≤ 14
  waiting  : ∀ k, r.pendingK = some k → 10 ≤ k ∧ k ≤ 14
  counter  : r.counter < 2 ^ r.k

theorem State.recordsBounded_iff (s : State) : s.RecordsBounded ↔ s.RangesKept ∧ s.rate.InRange := by
  constructor
  · intro h
    refine ⟨⟨h.stores, h.requests, fun x => ⟨h.queues x, ?_⟩, h.frame, h.saving⟩,
      ⟨h.exponent, h.waiting, h.counter⟩⟩
    rw [Bool.eq_iff_iff, LinkState.alertDue_iff]
    exact h.alerts x
  · rintro ⟨h, r⟩
    refine ⟨h.stores, h.requests, fun x => (h.links x).queue, fun x => ?_, h.frame, h.saving, r.exponent, r.waiting,
      r.counter⟩
    rw [← LinkState.alertDue_iff, (h.links x).alert]

/-- A change of other fields keeps the ranges. -/
theorem State.RangesKept.of_same {s t : State} (h : s.RangesKept) (hs : t.stores = s.stores) (hg : t.groups = s.groups)
    (ha : t.linkA = s.linkA) (hb : t.linkB = s.linkB) (ht : t.time.frame = s.time.frame)
    (hi : t.image.op = s.image.op) (hf : t.flash = s.flash) : t.RangesKept where
  stores := h.stores.of_stores hs
  requests g := by
    have := h.requests g
    simpa only [State.group, hg] using this
  links := h.links.of_links ha hb
  frame := ht ▸ h.frame
  saving := h.saving.of_same hi hf

theorem State.RangesKept.of_quiet {e e' : Ev} (h : e.st.RangesKept) (q : e.Quiet e') : e'.st.RangesKept where
  stores := h.stores.of_stores q.stores
  requests := q.ordered h.requests
  links := h.links.of_links q.linkA q.linkB
  frame := by rw [q.time]; exact h.frame
  saving := h.saving.of_same (by rw [q.image]) q.flash

theorem State.RangesKept.withStores {s t : State} (h : s.RangesKept) (hs : t.StoresBounded) (hg : t.groups = s.groups)
    (ha : t.linkA = s.linkA) (hb : t.linkB = s.linkB) (ht : t.time.frame = s.time.frame)
    (hi : t.image.op = s.image.op) (hf : t.flash = s.flash) : t.RangesKept :=
  have rest : ({ t with stores := s.stores } : State).RangesKept := h.of_same rfl hg ha hb ht hi hf
  ⟨hs, rest.requests, rest.links, rest.frame, rest.saving⟩

theorem Ev.settleRaw_ranges {e : Ev} (h : e.st.RangesKept) (touched : List Nat) :
    (e.settleRaw touched).st.RangesKept := by
  have rest := State.storeRaw_rest (e.st.rawChanges touched) e.st
  exact State.RangesKept.of_quiet (e := e.modify (·.storeRaw (e.st.rawChanges touched)))
    (h.of_same (congrArg State.stores rest :) (congrArg State.groups rest :) (congrArg State.linkA rest :)
      (congrArg State.linkB rest :) (congrArg (·.time.frame) rest :) (congrArg (·.image.op) rest :)
      (congrArg State.flash rest :)) (Ev.settleRaw_quiet touched e)

theorem State.RangesKept.offer {e : Ev} (h : e.st.RangesKept) : e.offer.RangesKept where
  stores := h.stores.of_stores e.offer_stores
  requests g := by
    have := h.requests g
    simpa only [State.group, Ev.offer_groups] using this
  links := h.links.offer
  frame := by rw [Ev.offer_time]; exact h.frame
  saving := h.saving.of_same (by rw [Ev.offer_image]) e.offer_flash

theorem State.RangesKept.beginBoundary {s : State} (h : s.RangesKept) : s.beginBoundary.RangesKept where
  stores := h.stores
  requests := h.requests
  links x := by
    cases x
    · have bound : s.linkA.queue.length ≤ 32 := (h.links .a).queue
      exact LinkState.evalAlert_sound (by simpa using bound)
    · have bound : s.linkB.queue.length ≤ 32 := (h.links .b).queue
      exact LinkState.evalAlert_sound (by simpa using bound)
  frame := by
    have := h.frame
    show s.time.tick.frame < 4000
    unfold Timebase.tick
    split
    · exact this
    · split
      · assumption
      · exact (by decide : 0 < 4000)
  saving := h.saving

theorem State.RangesKept.applyExponent {s : State} (h : s.RangesKept) : s.applyExponent.RangesKept := by
  unfold State.applyExponent
  split
  · refine h.withStores (fun n => ?_) rfl rfl rfl rfl rfl rfl
    rw [State.restartWindows_store]
    have := h.stores n
    exact ⟨this.fill, this.low, this.high, this.rest, this.idle, this.slips⟩
  · exact h

theorem State.RangesKept.adopted {s : State} (h : s.RangesKept) (p : PendingActivation) : (s.adopted p).RangesKept := by
  have rest := s.adopted_besideAdoption p
  refine h.withStores (fun n => ?_) (congrArg State.groups rest :) (congrArg State.linkA rest :)
    (congrArg State.linkB rest :) (congrArg (·.time.frame) rest :) (congrArg (·.image.op) rest :)
    (congrArg State.flash rest :)
  rw [State.adopted_store]
  exact Store.obey_bounded (h.stores n) _ _

theorem State.RangesKept.finishStartUp {s : State} (h : s.RangesKept) : s.finishStartUp.RangesKept := by
  have finished : ({ s with image := { s.image with op := none, finished := true, outcome := s.image.toReport } } :
      State).RangesKept :=
    ⟨h.stores, h.requests, h.links, h.frame, fun op p hop => (nomatch hop)⟩
  unfold State.finishStartUp
  dsimp only
  split
  · exact ⟨finished.stores, finished.requests, fun x => by
      rw [State.offerOne_link]
      exact (finished.links x).file _, finished.frame, finished.saving⟩
  · exact finished

theorem State.RangesKept.decideStores {s : State} (h : s.RangesKept) : s.decideStores.RangesKept := by
  have rest := s.decideStores_rest
  exact h.withStores h.stores.decideStores (congrArg State.groups rest :) (congrArg State.linkA rest :)
    (congrArg State.linkB rest :) (congrArg (·.time.frame) rest :) (congrArg (·.image.op) rest :)
    (congrArg State.flash rest :)

theorem Ev.endWindowOf_ranges {e : Ev} (h : e.st.RangesKept) (n : Nat) : (e.endWindowOf n).st.RangesKept := by
  have store := h.stores n
  have judged : (e.st.windowJudged n).RangesKept :=
    h.withStores ((h.stores.setStore (n := n) (st := (e.st.store n).endWindow)
      ⟨store.fill, store.low, store.high, store.rest, store.idle, store.slips⟩).of_stores rfl) rfl rfl rfl rfl rfl rfl
  exact Ev.settleRaw_ranges (e := e.modify (State.windowJudged n)) judged [n]

theorem rangesKept_boundaryInvariant : BoundaryInvariant State.RangesKept where
  timed _ _ _ ht h := h.of_same rfl rfl rfl rfl ht rfl rfl
  begins _ h := h.beginBoundary
  exponent _ h := h.applyExponent
  adopts p _ h := h.adopted p
  finishes _ h := h.finishStartUp
  quiet _ _ q h := h.of_quiet q
  decides _ h := h.decideStores
  frames _ _ h := h.of_same rfl rfl rfl rfl rfl rfl rfl
  ends n _ h := Ev.endWindowOf_ranges h n
  counted _ _ h := h.of_same rfl rfl rfl rfl rfl rfl rfl
  offered _ h := h.offer
  chosen _ _ h := h.of_same rfl rfl rfl rfl rfl rfl rfl

/-! ### The window parameters (R41, R42) -/

theorem RateParams.InRange.store {r : RateParams} (h : r.InRange) (j k l n : Nat) :
    (r.store j (clampTo 10 14 k) l n).InRange where
  exponent := h.exponent
  waiting k' hk := by
    unfold RateParams.store at hk
    dsimp only at hk
    split at hk
    · cases hk
    · cases hk
      unfold clampTo
      omega
  counter := h.counter

/-- A boundary keeps the window parameters in range: the counter returns to 0 at the window end (R42). -/
theorem State.boundary_rate_inRange {s : State} (h : s.rate.InRange) (c : BoundaryCause) : (s.boundary c).rate.InRange := by
  by_cases hm : s.makesBoundary c
  · rw [State.boundary_rate_eq hm]
    split
    · rename_i k hk
      have range := h.waiting k hk
      refine ⟨range, fun _ hn => (nomatch hn), ?_⟩
      show 0 + 1 < 2 ^ k
      exact Nat.one_lt_two_pow (by omega)
    · refine ⟨h.exponent, h.waiting, ?_⟩
      have positive : 0 < 2 ^ s.rate.k := Nat.two_pow_pos _
      have below := h.counter
      show (if s.rate.counter + 1 = 2 ^ s.rate.k then 0 else s.rate.counter + 1) < 2 ^ s.rate.k
      split <;> omega
  · rwa [State.boundary_of_none hm]

/-! ### Every command -/

theorem State.RecordsBounded.of_rate {s t : State} (h : s.RecordsBounded) (k : s.RangesKept → t.RangesKept)
    (r : t.rate = s.rate) : t.RecordsBounded := by
  rw [State.recordsBounded_iff] at h ⊢
  exact ⟨k h.1, r ▸ h.2⟩

theorem recordsBounded_deviceInvariant : DeviceInvariant State.RecordsBounded where
  waiting _ _ h := h.of_rate (fun k => k.of_same rfl rfl rfl rfl rfl rfl rfl) rfl
  offered e h := h.of_rate (·.offer) e.offer_rate
  quiet _ _ q h := h.of_rate (·.of_quiet q) q.rate
  timed _ _ ht h := h.of_rate (fun k => k.of_same rfl rfl rfl rfl ht rfl rfl) rfl
  boundary c s h := by
    rw [State.recordsBounded_iff] at h ⊢
    exact ⟨rangesKept_boundaryInvariant.boundary c s h.1, State.boundary_rate_inRange h.2 c⟩
  banks _ _ hb h := h.of_rate (fun k => k.of_same (congrArg State.stores hb :) (congrArg State.groups hb :)
    (congrArg State.linkA hb :) (congrArg State.linkB hb :) (congrArg (·.time.frame) hb :)
    (congrArg (·.image.op) hb :) (congrArg State.flash hb :)) (congrArg State.rate hb :)
  link s x l hl h := by
    refine h.of_rate (fun k => ⟨k.stores.of_stores (State.setLink_stores ..), fun g => by simpa using k.requests g,
      fun y => ?_, by simpa using k.frame, k.saving.of_same (by simp) (by simp)⟩) (State.setLink_rate ..)
    rw [State.setLink_link]
    split
    · exact hl (k.links x)
    · exact k.links y
  operated s o ho h := by
    refine h.of_rate (fun k => ⟨k.stores, k.requests, k.links, k.frame, ?_⟩) rfl
    rintro op p hop hs hp hm
    obtain ⟨page, header⟩ := ho op hop hs
    rw [page] at hp
    cases hp
    rcases hm with hm | hm
    · exact absurd hm (Nat.lt_irrefl 0)
    · rw [header] at hm; cases hm
  rate s j k l n h := by
    rw [State.recordsBounded_iff] at h ⊢
    exact ⟨h.1.of_same rfl rfl rfl rfl rfl rfl rfl, h.2.store j k l n⟩

/-- A LIF's change, and slots', keep every range. -/
theorem State.RecordsBounded.lines {s t : State} (h : s.RecordsBounded)
    (k : { t with lifs := s.lifs, slots := s.slots } = s) : t.RecordsBounded :=
  h.of_rate (fun r => r.of_same (congrArg State.stores k :) (congrArg State.groups k :) (congrArg State.linkA k :)
    (congrArg State.linkB k :) (congrArg (·.time.frame) k :) (congrArg (·.image.op) k :) (congrArg State.flash k :))
    (congrArg State.rate k :)

theorem Ev.settleRaw_recordsBounded {e : Ev} (h : e.st.RecordsBounded) (touched : List Nat) :
    (e.settleRaw touched).st.RecordsBounded :=
  h.of_rate (fun k => Ev.settleRaw_ranges k touched) (congrArg State.rate (Ev.settleRaw_rest touched e) :)

theorem Ev.lineReport_recordsBounded {e : Ev} (h : e.st.RecordsBounded) (l : Nat) (f : LineDefects → LineDefects) :
    (e.lineReport l f).st.RecordsBounded :=
  Ev.settleRaw_recordsBounded (e := e.modify fun s => s.setLineDefect l (f (s.lineDefect l)))
    (h.of_rate (fun k => k.of_same rfl rfl rfl rfl rfl rfl rfl) rfl) _

theorem Ev.sourceReport_recordsBounded {e : Ev} (h : e.st.RecordsBounded) (n : Nat) (f : DefectRec → DefectRec) :
    (e.sourceReport n f).st.RecordsBounded := by
  unfold Ev.sourceReport
  split
  · exact Ev.settleRaw_recordsBounded (e := e.modify fun s => s.setDefect n (f (s.defect n)))
      (h.of_rate (fun k => k.of_same rfl rfl rfl rfl rfl rfl rfl) rfl) _
  · exact h

theorem signalAbsent_recordsBounded (l : LineNo) : Keeps State.RecordsBounded (.signalAbsent l) := by
  intro s t h ht
  change execSignalAbsent l s = _ at ht
  unfold execSignalAbsent at ht
  dsimp only at ht
  split at ht <;> cases ht
  · exact h
  · refine recordsBounded_deviceInvariant.offered _ ?_
    have first := Ev.lineReport_recordsBounded (e := (Ev.start s).modify fun u =>
      (u.setLif l { (s.lif l).hunting with signal := false }).breakArrivals l) (h.lines rfl) l
      (fun d => { d with absent := true })
    split
    · exact Ev.lineReport_recordsBounded first l _
    · exact first

theorem signalPresent_recordsBounded (l : LineNo) : Keeps State.RecordsBounded (.signalPresent l) := by
  intro s t h ht
  change execSignalPresent l s = _ at ht
  unfold execSignalPresent at ht
  dsimp only at ht
  split at ht <;> cases ht
  · exact h
  · exact recordsBounded_deviceInvariant.offered _ (Ev.lineReport_recordsBounded (h.lines rfl) l _)

theorem alignmentFind_recordsBounded (l : LineNo) (p : Nat) (w : Word) :
    Keeps State.RecordsBounded (.alignmentFind l p w) := by
  intro s t h ht
  change execAlignmentFind l p w s = _ at ht
  unfold execAlignmentFind at ht
  dsimp only at ht
  split at ht <;> cases ht
  · exact h.lines rfl
  · exact h

theorem confirmWord_recordsBounded (l : LineNo) (w : Word) : Keeps State.RecordsBounded (.confirmWord l w) := by
  intro s t h ht
  change execConfirmWord l w s = _ at ht
  unfold execConfirmWord at ht
  dsimp only at ht
  split at ht
  · split at ht
    · split at ht <;> cases ht
      · exact recordsBounded_deviceInvariant.offered _ (Ev.lineReport_recordsBounded (h.lines rfl) l _)
      · exact h.lines rfl
    · cases ht; exact h.lines rfl
  · cases ht; exact h

theorem lockedWord_recordsBounded (l : LineNo) (w : Word) : Keeps State.RecordsBounded (.lockedWord l w) := by
  intro s t h ht
  change execLockedWord l w s = _ at ht
  unfold execLockedWord at ht
  dsimp only at ht
  split at ht
  · split at ht
    · cases ht; exact h.lines rfl
    · split at ht <;> cases ht
      · exact h.lines rfl
      · exact recordsBounded_deviceInvariant.offered _ (Ev.lineReport_recordsBounded (h.lines rfl) l _)
  · cases ht; exact h

theorem State.RecordsBounded.arriveStore {s : State} (h : s.RecordsBounded) (n : Nat) (bytes : List Byte)
    (errored : Bool) : (s.arriveStore n bytes errored).RecordsBounded := by
  have stored : (s.setStore n ((s.store n).arrive bytes).1).RecordsBounded :=
    h.of_rate (fun k => k.withStores (k.stores.setStore (Store.arrive_bounded (k.stores n) bytes))
      rfl rfl rfl rfl rfl rfl) rfl
  have event : ∀ {u : State}, u.RecordsBounded → (u.erroredEvent n).RecordsBounded := fun {u} hu =>
    have rest := u.erroredEvent_rest n
    hu.of_rate (fun k => k.of_same (congrArg State.stores rest :) (congrArg State.groups rest :)
      (congrArg State.linkA rest :) (congrArg State.linkB rest :) (congrArg (·.time.frame) rest :)
      (congrArg (·.image.op) rest :) (congrArg State.flash rest :)) (congrArg State.rate rest :)
  unfold State.arriveStore
  dsimp only
  (repeat' split)
  · exact event (event stored)
  · exact event stored
  · exact event stored
  · exact stored

theorem Ev.headArrival_recordsBounded (base : Nat) (slots : List RxSlot) (n : Nat) (p : Profile) (e : Ev)
    (h : e.st.RecordsBounded) : (e.headArrival base slots n p).st.RecordsBounded := by
  have marker : ∀ (e : Ev) bit, e.st.RecordsBounded → (e.markerArrival n bit).st.RecordsBounded := by
    intro e bit he
    unfold Ev.markerArrival
    dsimp only
    split
    · exact Ev.sourceReport_recordsBounded (e := e.modify (·.setSlot n _)) (he.lines rfl) n _
    · exact he.lines rfl
  have tag : ∀ (e : Ev) x b, e.st.RecordsBounded → (e.tagArrival n x b).st.RecordsBounded := by
    intro e x b he
    unfold Ev.tagArrival
    dsimp only
    split
    · exact Ev.sourceReport_recordsBounded (e := e.modify (·.setSlot n _)) (he.lines rfl) n _
    · exact he.lines rfl
  have arrived : ∀ bytes bad, ((e.st.arriveStore n bytes bad).pushParity n p.width base slots).RecordsBounded :=
    fun bytes bad => (h.arriveStore n bytes bad).lines rfl
  unfold Ev.headArrival
  dsimp only
  split
  · exact marker _ _ (arrived _ _)
  · exact tag _ _ _ (marker _ _ (arrived _ _))

theorem ingressArrival_recordsBounded (l : LineNo) (r : List RxSlot) :
    Keeps State.RecordsBounded (.ingressArrival l r) := by
  intro s t h ht
  change execIngressArrival l r s = _ at ht
  unfold execIngressArrival at ht
  split at ht
  · cases ht
  · split at ht <;> cases ht
    · exact recordsBounded_deviceInvariant.offered _ (Ev.arrivals_keeps Ev.headArrival_recordsBounded l r h)
    · exact h

theorem resetLine_recordsBounded (a b : Bool) : Keeps State.RecordsBounded (.resetLine a b) := by
  intro s t _ ht
  have fresh : ∀ u : State, u.stores = .empty → u.groups = .empty → u.linkA = LinkState.afterReset a →
      u.linkB = LinkState.afterReset b → u.time = Timebase.reset → u.image = ImageCtl.reset →
      u.rate = RateParams.reset → u.RecordsBounded := by
    intro u hs hg ha hb ht hi hr
    refine (State.recordsBounded_iff u).mpr ⟨⟨fun n => ?_, fun g => ?_, fun x => ?_, ?_, fun op p hop hs => ?_⟩, ?_⟩
    · simp only [State.store, hs]; exact Store.reset_bounded
    · simp only [State.group, hg]; exact requestsOrdered_nil
    · cases x
      · exact (congrArg LinkState.Sound ha).mpr ⟨Nat.zero_le _, rfl⟩
      · exact (congrArg LinkState.Sound hb).mpr ⟨Nat.zero_le _, rfl⟩
    · rw [ht]; decide
    · rw [hi] at hop; cases hop; cases hs
    · rw [hr]; exact ⟨by decide, fun _ h => (nomatch h), by decide⟩
  change execResetLine a b s = _ at ht
  unfold execResetLine at ht
  dsimp only at ht
  split at ht <;> cases ht <;> exact fresh _ rfl rfl rfl rfl rfl rfl rfl

/-- A page write of SAVE IMAGE leaves what R179 says in page 0. -/
theorem pageWriteCompletion_recordsBounded : Keeps State.RecordsBounded .pageWriteCompletion := by
  intro s t h ht
  change execPageWriteCompletion s = _ at ht
  unfold execPageWriteCompletion at ht
  split at ht
  · cases ht; exact h
  · rename_i op hop
    split at ht
    · rename_i p hs hp
      dsimp only at ht
      have ranges := ((State.recordsBounded_iff s).mp h).1
      have marked : op.finalHeader = false → (s.setFlashPage p (s.savePage op p)).flashPage 0 = invalidHeaderPage := by
        intro header
        rw [State.setFlashPage_flashPage]
        split
        · rename_i zero
          subst zero
          simp [State.savePage, header]
        · exact h.saving op p hop hs hp (.inl (by omega))
      have moved : ∀ o : Option ImageOp, (∀ op', o = some op' → op.finalHeader = false) →
          ({ s.setFlashPage p (s.savePage op p) with image := { s.image with op := o } } : State).RecordsBounded :=
        fun o ho => h.of_rate (fun k => ⟨k.stores, k.requests, k.links, k.frame,
          fun op' _ hop' _ _ _ => marked (ho op' hop')⟩) rfl
      split at ht
      · cases ht
        refine recordsBounded_deviceInvariant.offered _ ?_
        rw [Ev.raise_st]
        exact recordsBounded_deviceInvariant.banks _ _ (by rfl) (moved none (fun _ h => (nomatch h)))
      · rename_i header
        have notFinal : op.finalHeader = false := by simpa using header
        split at ht <;> cases ht
        · exact moved _ (fun _ _ => notFinal)
        · exact moved _ (fun _ _ => notFinal)
    · cases ht; exact h

/-- Settles O59: the parts of a boundary, the line events, arrivals, page writes and takes each keep the ranges. -/
theorem everyStepKeepsRecordsBounded : Obligations.EveryStepKeepsRecordsBounded := by
  intro s t
  exact recordsBounded_deviceInvariant.step_keeps (recordsBounded_deviceInvariant.exec_keeps resetLine_recordsBounded
    signalAbsent_recordsBounded signalPresent_recordsBounded alignmentFind_recordsBounded confirmWord_recordsBounded
    lockedWord_recordsBounded ingressArrival_recordsBounded pageWriteCompletion_recordsBounded)

end Sys2Proof.Machine
end

section
/-! SUPPORT. What an event of the Defect Monitor brings about at groups, watches and pattern sets (R113, R118 to R121, R125,
R137 to R139), as `Settled.event` says it. -/

namespace Sys2Proof.Machine

/-! ### What such an event reads -/

/-- The site time, heads, entries and listed groups that an event of the Defect Monitor reads. -/
structure State.SameEntries (s t : State) : Prop where
  time     : t.time = s.time
  image    : t.image = s.image
  heads    : ∀ n, t.isHead n = s.isHead n
  watches  : ∀ n, (t.watch n).besideLatch = (s.watch n).besideLatch
  patterns : ∀ p, (t.pattern p).besideLatch = (s.pattern p).besideLatch
  listed   : t.groups.keys = s.groups.keys

namespace State.SameEntries

theorem refl (s : State) : s.SameEntries s := ⟨rfl, rfl, fun _ => rfl, fun _ => rfl, fun _ => rfl, rfl⟩

theorem trans {s t u : State} (h : s.SameEntries t) (k : t.SameEntries u) : s.SameEntries u :=
  ⟨k.time.trans h.time, k.image.trans h.image, fun n => (k.heads n).trans (h.heads n),
    fun n => (k.watches n).trans (h.watches n), fun p => (k.patterns p).trans (h.patterns p), k.listed.trans h.listed⟩

theorem of_monitor {s t : State} (h : s.SameButMonitor t) (k : t.groups.keys = s.groups.keys) : s.SameEntries t where
  time := h.time
  image := h.image
  heads n := by simp only [State.isHead, State.activeBank, State.bank, h.active, h.banks]
  watches := h.watches
  patterns := h.patterns
  listed := k

end State.SameEntries

/-- The members of a pattern set are the watched heads whose entry names it (R125). -/
theorem State.mem_patternMembers {s : State} {p n : Nat} :
    n ∈ s.patternMembers p ↔ s.isHead n = true ∧ (s.watch n).pattern = some p := by
  unfold State.patternMembers
  rw [List.mem_filter, Bool.and_eq_true, beq_iff_eq]
  refine and_iff_right_of_imp fun h => Table.mem_keys_of_get_ne Watch.reset _ _ fun reset => ?_
  rw [State.watch, reset] at h
  cases h.2

/-- The condition of a pattern set, said of its members (R125). -/
theorem State.patternHoldsIn_iff {s : State} {raw : Nat → Cond} {p : Nat} : s.patternHoldsIn raw p = true
    ↔ (∃ n, n ∈ s.patternMembers p)
      ∧ ∀ n ∈ s.patternMembers p, (s.watch n).level.value (raw n) = (s.watch n).polarity := by
  simp [State.patternHoldsIn, List.eq_nil_iff_forall_not_mem]

/-- The model's evaluation of a pattern set reads the raw conditions held. -/
theorem State.patternHolds_eq (s : State) (p : Nat) :
    s.patternHolds p = s.patternHoldsIn (fun n => (s.defect n).raw) p := by
  have member : ∀ n ∈ s.patternMembers p,
      s.watchHolds n = ((s.watch n).level.value (s.defect n).raw == (s.watch n).polarity) := fun n hn => by
    simp [State.watchHolds, (State.mem_patternMembers.mp hn).1]
  rw [Bool.eq_iff_iff]
  simp only [State.patternHolds, State.patternHoldsIn, Bool.and_eq_true, List.all_eq_true]
  exact and_congr_right fun _ => forall₂_congr fun n hn => by rw [member n hn]

/-- What a change of the raw conditions of some sources settles (R113). -/
def Settled.taken (t : State) (changed : List Nat) (raw : Nat → Cond) (v : Settled) : Settled :=
  let w : Settled := { v with
    raw := raw
    group := fun g => ((v.group g).meets g t.time.seconds t.time.frame v.raw raw).1
    watch := fun n => v.watch n || (decide (n ∈ changed) && t.watchFires (v.raw n) (raw n) n)
    pattern := fun p => v.pattern p || t.patternFires raw p }
  { w with
    monitor := v.monitor ++ t.latchNotices v w changed
    protection := v.protection ++ t.groups.keys.flatMap
      (fun g => ((v.group g).meets g t.time.seconds t.time.frame v.raw raw).2) }

/-- An event settles what its changes settle, if there is one (R113). -/
theorem Settled.event_eq (t : State) {sources changed : List Nat} {after raw : Nat → Cond} {v : Settled}
    (hc : sources.filter (fun n => v.raw n != after n) = changed)
    (hr : (fun n => if n ∈ changed then after n else v.raw n) = raw) :
    v.event t sources after = if changed = [] then v else v.taken t changed raw := by
  subst hc hr
  rfl

section Congruence

variable {s t : State} (h : s.SameEntries t)
include h

theorem State.SameEntries.watch_fields (n : Nat) : (t.watch n).enabled = (s.watch n).enabled
    ∧ (t.watch n).type = (s.watch n).type ∧ (t.watch n).level = (s.watch n).level
    ∧ (t.watch n).polarity = (s.watch n).polarity ∧ (t.watch n).cls = (s.watch n).cls
    ∧ (t.watch n).pattern = (s.watch n).pattern :=
  have w := h.watches n
  ⟨(congrArg Watch.enabled w :), (congrArg Watch.type w :), (congrArg Watch.level w :), (congrArg Watch.polarity w :),
    (congrArg Watch.cls w :), (congrArg Watch.pattern w :)⟩

theorem State.SameEntries.watchFires : t.watchFires = s.watchFires := by
  funext before after n
  obtain ⟨enabled, type, level, polarity, -, -⟩ := h.watch_fields n
  simp only [State.watchFires, enabled, type, level, polarity, h.heads n]

theorem State.SameEntries.patternHoldsIn : t.patternHoldsIn = s.patternHoldsIn := by
  funext raw p
  have members : ∀ n, n ∈ t.patternMembers p ↔ n ∈ s.patternMembers p := fun n => by
    obtain ⟨-, -, -, -, -, pattern⟩ := h.watch_fields n
    rw [State.mem_patternMembers, State.mem_patternMembers, h.heads n, pattern]
  have levels : ∀ n, ((t.watch n).level.value (raw n) = (t.watch n).polarity)
      ↔ ((s.watch n).level.value (raw n) = (s.watch n).polarity) := fun n => by
    obtain ⟨-, -, level, polarity, -, -⟩ := h.watch_fields n
    rw [level, polarity]
  rw [Bool.eq_iff_iff, State.patternHoldsIn_iff, State.patternHoldsIn_iff]
  simp only [members, levels]

theorem State.SameEntries.pattern_enabled (p : Nat) : (t.pattern p).enabled = (s.pattern p).enabled :=
  (congrArg Pattern.enabled (h.patterns p) :)

theorem State.SameEntries.pattern_cls (p : Nat) : (t.pattern p).cls = (s.pattern p).cls :=
  (congrArg Pattern.cls (h.patterns p) :)

theorem State.SameEntries.patternFires : t.patternFires = s.patternFires := by
  funext raw p
  simp only [State.patternFires, h.pattern_enabled p, h.patternHoldsIn]

theorem State.SameEntries.latchNotices : t.latchNotices = s.latchNotices := by
  funext v w sources
  have watches : ∀ n, NoticeBody.watch n (t.watch n).cls ((t.watch n).level.value (w.raw n))
      = .watch n (s.watch n).cls ((s.watch n).level.value (w.raw n)) := fun n => by
    obtain ⟨-, -, level, -, cls, -⟩ := h.watch_fields n
    rw [level, cls]
  simp only [State.latchNotices, watches, h.pattern_cls]

/-- An event settles alike from the entries of any such state. -/
theorem Settled.event_congr (sources : List Nat) (after : Nat → Cond) (v : Settled) :
    v.event t sources after = v.event s sources after := by
  unfold Settled.event
  rw [h.watchFires, h.patternFires, h.latchNotices, h.time, h.listed]

end Congruence

/-- Sources whose raw condition stays need not be named. -/
theorem Settled.event_filter (t : State) {sources : List Nat} {after : Nat → Cond} {v : Settled} (p : Nat → Bool)
    (h : ∀ n ∈ sources, p n = false → v.raw n = after n) :
    v.event t (sources.filter p) after = v.event t sources after := by
  have same : (sources.filter p).filter (fun n => v.raw n != after n) = sources.filter (fun n => v.raw n != after n) := by
    rw [List.filter_filter]
    refine List.filter_congr fun n hn => ?_
    cases hp : p n
    · simp [h n hn hp]
    · simp
  rw [Settled.event_eq t same rfl, Settled.event_eq t rfl rfl]

/-- The raw conditions an event gives count at its sources only. -/
theorem Settled.event_after_congr (t : State) {sources : List Nat} {after after' : Nat → Cond} {v : Settled}
    (h : ∀ n ∈ sources, after n = after' n) : v.event t sources after = v.event t sources after' := by
  have same : sources.filter (fun n => v.raw n != after n) = sources.filter (fun n => v.raw n != after' n) :=
    List.filter_congr fun n hn => by rw [h n hn]
  have raw : (fun n => if n ∈ sources.filter (fun n => v.raw n != after' n) then after n else v.raw n)
      = fun n => if n ∈ sources.filter (fun n => v.raw n != after' n) then after' n else v.raw n := by
    funext n
    split
    · rename_i hn
      exact h n (List.mem_of_mem_filter hn)
    · rfl
  rw [Settled.event_eq t same raw, Settled.event_eq t rfl rfl]

/-! ### The changes of an event -/

/-- The raw condition changes of an event: of the touched sources, those whose raw condition is not the derived one. -/
theorem State.rawChanges_eq (s : State) (touched : List Nat) : s.rawChanges touched
    = (touched.filter (fun n => (s.defect n).raw != s.derivedRaw n)).map
        (fun n => ⟨n, (s.defect n).raw, s.derivedRaw n⟩) := by
  unfold State.rawChanges
  induction touched with
  | nil => rfl
  | cons n rest ih =>
    rw [List.filterMap_cons, List.filter_cons, ih]
    by_cases same : (s.defect n).raw = s.derivedRaw n <;> simp [same]

/-- The new raw condition of a source, if it is among the changes. -/
theorem newRaw_map (before after : Nat → Cond) (changed : List Nat) (n : Nat) :
    newRaw (changed.map (fun m => ⟨m, before m, after m⟩)) n = if n ∈ changed then some (after n) else none := by
  unfold newRaw
  induction changed with
  | nil => rfl
  | cons m rest ih =>
    rw [List.map_cons, List.find?_cons]
    by_cases hm : m = n
    · subst hm; simp
    · simpa [hm, Ne.symm hm] using ih

section Meets

variable {before after : Nat → Cond} {changed : List Nat} (hc : ∀ n, n ∈ changed ↔ before n ≠ after n)
include hc

/-- A side takes the changes of an event as it meets the raw condition of its source (R138, R139). -/
theorem SideRec.take_eq_meets (source holdOff : Nat) (sd : SideRec) :
    sd.take (changed.map (fun m => ⟨m, before m, after m⟩)) source holdOff
      = sd.meets holdOff (before source) (after source) := by
  unfold SideRec.take SideRec.meets
  rw [newRaw_map]
  by_cases same : before source = after source
  · rw [if_neg (fun h => (hc source).mp h same), if_pos same]
  · rw [if_pos ((hc source).mpr same), if_neg same]
    unfold SideRec.change holdOffFrames
    by_cases worse : sd.eff.severity < (after source).severity <;> by_cases none : holdOff = 0 <;>
      simp [worse, none, Nat.pos_of_ne_zero]
    split <;> rfl

/-- A group meets the changes of an event as the model lets it take them (R137). -/
theorem GroupRec.meets_eq (g : Nat) (sec : Word) (fr : Nat) (r : GroupRec) :
    r.meets g sec fr before after =
      if r.touchedBy (changed.map (fun m => ⟨m, before m, after m⟩)) then
        (r.takeChanges (changed.map (fun m => ⟨m, before m, after m⟩))).evaluate g sec fr
      else (r, []) := by
  have isSome : ∀ n, (newRaw (changed.map (fun m => ⟨m, before m, after m⟩)) n).isSome = (before n != after n) := by
    intro n
    rw [newRaw_map, Bool.eq_iff_iff]
    by_cases hn : n ∈ changed <;> simp [hn, ← hc]
  unfold GroupRec.meets GroupRec.touchedBy GroupRec.takeChanges
  cases hs : r.settings with
  | none => simp
  | some d =>
    simp only [isSome, SideRec.take_eq_meets hc]
    by_cases hw : before d.working = after d.working <;> by_cases hp : before d.protect = after d.protect <;>
      simp [hw, hp]

end Meets

end Sys2Proof.Machine
end

section
/-! SUPPORT. An event in progress has brought the Defect Monitor and the Protection Engine to what is settled, and what it
offers is what they have raised (R113, R168). -/

namespace Sys2Proof.Machine

/-! ### Raised notices -/

/-- What a block raises in a state: nothing before start-up has finished (R168). -/
def State.notes (s : State) (b : Block) (ns : List NoticeBody) : List (Block × Notice) :=
  if s.image.finished then ns.map (fun n => (b, ⟨n, s.time.seconds, s.time.frame⟩)) else []

theorem Ev.raiseAll_notes (e : Ev) (b : Block) (ns : List NoticeBody) :
    (e.raiseAll b ns).raised = e.raised ++ e.st.notes b ns := Ev.raiseAll_raised e b ns

theorem Ev.raise_notes (e : Ev) (b : Block) (n : NoticeBody) :
    (e.raise b n).raised = e.raised ++ e.st.notes b [n] := Ev.raise_raised e b n

@[simp] theorem State.notes_nil (s : State) (b : Block) : s.notes b [] = [] := by simp [State.notes]

theorem State.notes_append (s : State) (b : Block) (ns ms : List NoticeBody) :
    s.notes b (ns ++ ms) = s.notes b ns ++ s.notes b ms := by
  unfold State.notes; split <;> simp

theorem State.notes_congr {s t : State} (ht : t.time = s.time) (hi : t.image = s.image) (b : Block)
    (ns : List NoticeBody) : t.notes b ns = s.notes b ns := by simp only [State.notes, ht, hi]

theorem noticesOf_append (b : Block) (ps qs : List (Block × Notice)) :
    noticesOf b (ps ++ qs) = noticesOf b ps ++ noticesOf b qs := List.filterMap_append

/-- The bodies of the notices that one block raised, of those that blocks raise in a state. -/
theorem State.noticesOf_notes (s : State) (b c : Block) (ns : List NoticeBody) (h : s.image.finished = true) :
    (noticesOf b (s.notes c ns)).map (·.body) = if c = b then ns else [] := by
  unfold State.notes noticesOf
  rw [if_pos h, List.filterMap_map]
  by_cases hb : c = b <;> induction ns <;> simp_all

/-! ### Groups -/

/-- One group takes the changes of an event, if it names a changed source (R137). -/
def Ev.deliverTo (changes : List RawChange) (e : Ev) (g : Nat) : Ev :=
  if (e.st.group g).touchedBy changes then e.evaluateGroup g ((e.st.group g).takeChanges changes) else e

theorem Ev.deliverChanges_eq (changes : List RawChange) (e : Ev) :
    e.deliverChanges changes = e.st.groups.keys.foldl (Ev.deliverTo changes) e := rfl

/-- Taking changes touches the groups' table alone, and what it lists stays. -/
theorem Ev.deliverTo_rest (changes : List RawChange) (g : Nat) (e : Ev) :
    { (e.deliverTo changes g).st with groups := e.st.groups } = e.st
      ∧ (e.st.groups.wf GroupRec.reset = true → (e.deliverTo changes g).st.groups.wf GroupRec.reset = true
        ∧ (e.deliverTo changes g).st.groups.keys = e.st.groups.keys) := by
  unfold Ev.deliverTo
  split
  · rename_i touched
    have defined : (e.st.group g).settings ≠ none := by
      intro none
      simp [GroupRec.touchedBy, none] at touched
    rw [Ev.evaluateGroup_st]
    refine ⟨rfl, fun wf => ⟨Table.wf_set _ _ _ _ wf,
      Table.keys_set wf (iff_of_false (fun h => defined ?_) fun h => defined ?_)⟩⟩
    · have : (e.st.group g).settings = GroupRec.reset.settings := by simpa using congrArg GroupRec.settings h
      exact this
    · exact (congrArg GroupRec.settings h :)
  · exact ⟨rfl, fun wf => ⟨wf, rfl⟩⟩

theorem Ev.foldl_deliverTo_rest (changes : List RawChange) (gs : List Nat) (e : Ev) :
    { (gs.foldl (Ev.deliverTo changes) e).st with groups := e.st.groups } = e.st
      ∧ (e.st.groups.wf GroupRec.reset = true →
        (gs.foldl (Ev.deliverTo changes) e).st.groups.wf GroupRec.reset = true
        ∧ (gs.foldl (Ev.deliverTo changes) e).st.groups.keys = e.st.groups.keys) := by
  refine List.foldlRecOn (motive := fun e' : Ev => { e'.st with groups := e.st.groups } = e.st
    ∧ (e.st.groups.wf GroupRec.reset = true → e'.st.groups.wf GroupRec.reset = true
      ∧ e'.st.groups.keys = e.st.groups.keys)) gs _ ⟨rfl, fun wf => ⟨wf, rfl⟩⟩ (fun e' he' g _ => ?_)
  have step := Ev.deliverTo_rest changes g e'
  refine ⟨?_, fun wf => ?_⟩
  · rw [← he'.1]
    exact (congrArg (fun u : State => { u with groups := e.st.groups }) step.1 :)
  · obtain ⟨wf', keys⟩ := he'.2 wf
    exact ⟨(step.2 wf').1, (step.2 wf').2.trans keys⟩

section Deliver

variable {before after : Nat → Cond} {changed : List Nat} (hc : ∀ n, n ∈ changed ↔ before n ≠ after n)
include hc

/-- One group's record and notices when the changes have reached it (R137 to R139). -/
theorem Ev.deliverTo_meets (g : Nat) (e : Ev) :
    let e' := e.deliverTo (changed.map (fun m => ⟨m, before m, after m⟩)) g
    let met := (e.st.group g).meets g e.st.time.seconds e.st.time.frame before after
    (∀ k, e'.st.group k = if k = g then met.1 else e.st.group k)
      ∧ e'.raised = e.raised ++ e.st.notes .protection met.2 := by
  dsimp only
  rw [GroupRec.meets_eq hc]
  unfold Ev.deliverTo
  split
  · rw [Ev.evaluateGroup_st]
    exact ⟨fun k => State.setGroup_group .., Ev.raiseAll_notes ..⟩
  · refine ⟨fun k => ?_, by simp⟩
    split
    · rename_i hk; rw [hk]
    · rfl

/-- Every group's record and notices when the changes have reached some groups, one after the other. -/
theorem Ev.foldl_deliverTo_meets (gs : List Nat) (nodup : gs.Nodup) (e : Ev) :
    let e' := gs.foldl (Ev.deliverTo (changed.map (fun m => ⟨m, before m, after m⟩))) e
    let met := fun g => (e.st.group g).meets g e.st.time.seconds e.st.time.frame before after
    (∀ k, e'.st.group k = if k ∈ gs then (met k).1 else e.st.group k)
      ∧ e'.raised = e.raised ++ e.st.notes .protection (gs.flatMap (fun g => (met g).2)) := by
  induction gs generalizing e with
  | nil => simp
  | cons g rest ih =>
    obtain ⟨outside, nodup⟩ := List.nodup_cons.mp nodup
    have first := Ev.deliverTo_meets hc g e
    have kept := (Ev.deliverTo_rest (changed.map (fun m => ⟨m, before m, after m⟩)) g e).1
    have time : (e.deliverTo (changed.map (fun m => ⟨m, before m, after m⟩)) g).st.time = e.st.time :=
      (congrArg State.time kept :)
    have image : (e.deliverTo (changed.map (fun m => ⟨m, before m, after m⟩)) g).st.image = e.st.image :=
      (congrArg State.image kept :)
    have later := ih nodup (e.deliverTo (changed.map (fun m => ⟨m, before m, after m⟩)) g)
    dsimp only at first later ⊢
    rw [List.foldl_cons, later.2, first.2, State.notes_congr time image]
    have same : ∀ k ∈ rest, (e.deliverTo (changed.map (fun m => ⟨m, before m, after m⟩)) g).st.group k
        = e.st.group k := fun k hk => (first.1 k).trans (if_neg fun (h : k = g) => outside (h ▸ hk))
    refine ⟨fun k => ?_, ?_⟩
    · rw [later.1, first.1]
      by_cases hk : k = g
      · subst k; simp [outside]
      · simp [hk, time]
    · rw [List.flatMap_cons, State.notes_append, List.append_assoc]
      refine congrArg _ (congrArg _ (congrArg _ ?_))
      exact List.flatMap_congr fun k hk => by rw [same k hk, time]

end Deliver

/-! ### Latches -/

/-- Evaluations one after the other, each of which latches its own entry and raises a notice where a condition holds that no
other evaluation touches (R119 to R121, R125). -/
theorem Ev.foldl_latches {inv : State → Prop} {latch : State → Nat → Bool} {fires : Nat → Bool}
    {note : Nat → NoticeBody} {step : Ev → Nat → Ev} {s : State}
    (hs : ∀ u, inv u → u.time = s.time ∧ u.image = s.image)
    (hstep : ∀ e n, inv e.st → inv (step e n).st
      ∧ (∀ m, latch (step e n).st m = (latch e.st m || (decide (m = n) && fires n)))
      ∧ (step e n).raised = e.raised ++ e.st.notes .monitor (if !latch e.st n && fires n then [note n] else []))
    (l : List Nat) (nodup : l.Nodup) (e : Ev) (h : inv e.st) :
    inv (l.foldl step e).st
      ∧ (∀ m, latch (l.foldl step e).st m = (latch e.st m || (decide (m ∈ l) && fires m)))
      ∧ (l.foldl step e).raised
        = e.raised ++ s.notes .monitor ((l.filter (fun n => !latch e.st n && fires n)).map note) := by
  induction l generalizing e with
  | nil => exact ⟨h, by simp, by simp⟩
  | cons n rest ih =>
    obtain ⟨outside, nodup⟩ := List.nodup_cons.mp nodup
    obtain ⟨inv', latched, raised⟩ := hstep e n h
    obtain ⟨inv'', latched', raised'⟩ := ih nodup (step e n) inv'
    obtain ⟨time, image⟩ := hs _ h
    refine ⟨inv'', fun m => ?_, ?_⟩
    · rw [List.foldl_cons, latched', latched]
      by_cases hm : m = n
      · subst m; simp [outside]
      · simp [hm]
    · have same : rest.filter (fun k => !latch (step e n).st k && fires k)
          = rest.filter (fun k => !latch e.st k && fires k) :=
        List.filter_congr fun k hk => by
          rw [latched, decide_eq_false (fun (hkn : k = n) => outside (hkn ▸ hk)), Bool.false_and, Bool.or_false]
      rw [List.foldl_cons, raised', raised, same, State.notes_congr time image, List.append_assoc, ← State.notes_append,
        List.filter_cons]
      split <;> rfl

/-- The same entries and the same raw conditions. -/
def State.SameMonitor (s t : State) : Prop := s.SameEntries t ∧ ∀ n, (t.defect n).raw = (s.defect n).raw

theorem State.SameMonitor.setWatch {s t : State} (h : s.SameMonitor t) {n : Nat} {w : Watch}
    (hw : w.besideLatch = (t.watch n).besideLatch) : s.SameMonitor (t.setWatch n w) :=
  ⟨h.1.trans (.of_monitor (State.setWatch_same t n w hw) rfl), h.2⟩

theorem State.SameMonitor.setPattern {s t : State} (h : s.SameMonitor t) {p : Nat} {w : Pattern}
    (hw : w.besideLatch = (t.pattern p).besideLatch) : s.SameMonitor (t.setPattern p w) :=
  ⟨h.1.trans (.of_monitor (State.setPattern_same t p w hw) rfl), h.2⟩

/-- A watch at a raw condition change of its source latches where it fires (R119, R120). -/
theorem Ev.evalWatchAtChange_eq (e : Ev) (n : Nat) (old : Cond) :
    e.evalWatchAtChange ⟨n, old, (e.st.defect n).raw⟩
      = if e.st.watchFires old (e.st.defect n).raw n then e.latchWatch n else e := by
  have off : (e.st.watch n).enabled = false → e.latchWatch n = e := fun off => by simp [Ev.latchWatch, off]
  unfold Ev.evalWatchAtChange Ev.evalLevelWatch State.watchHolds State.isTransition State.watchFires
  cases on : (e.st.watch n).enabled <;> cases type : (e.st.watch n).type <;> simp [type, on, off]

/-- What a watch that latches leaves and raises (R121). -/
theorem Ev.latchWatch_latches {s : State} {e : Ev} (h : s.SameMonitor e.st) (n : Nat)
    (enabled : (e.st.watch n).enabled = true) :
    s.SameMonitor (e.latchWatch n).st
      ∧ (∀ m, ((e.latchWatch n).st.watch m).latch = ((e.st.watch m).latch || decide (m = n)))
      ∧ (e.latchWatch n).raised = e.raised ++ e.st.notes .monitor (if !(e.st.watch n).latch then
          [.watch n (s.watch n).cls ((s.watch n).level.value (s.defect n).raw)] else []) := by
  obtain ⟨-, -, level, -, cls, -⟩ := h.1.watch_fields n
  cases latched : (e.st.watch n).latch
  · have latches : e.latchWatch n = (e.modify (·.setWatch n { e.st.watch n with latch := true })).raise .monitor
        (.watch n (s.watch n).cls ((s.watch n).level.value (s.defect n).raw)) := by
      rw [← level, ← cls, ← h.2 n]
      exact if_pos (by simp [enabled, latched])
    rw [latches, Ev.raise_st]
    refine ⟨h.setWatch rfl, fun m => ?_, Ev.raise_notes ..⟩
    rw [Ev.modify_st, State.setWatch_watch]
    by_cases hm : m = n <;> simp [hm]
  · have stays : e.latchWatch n = e := if_neg (by simp [latched])
    rw [stays]
    refine ⟨h, fun m => ?_, by simp⟩
    by_cases hm : m = n
    · simp [hm, latched]
    · simp [hm]

/-- The watches of the changed sources latch where they fire (R119 to R121). -/
theorem Ev.evalWatches_latches {before after : Nat → Cond} {s : State} (raw : ∀ n, (s.defect n).raw = after n)
    (changed : List Nat) (nodup : changed.Nodup) (e : Ev) (h : s.SameMonitor e.st) :
    let e' := (changed.map (fun n => (⟨n, before n, after n⟩ : RawChange))).foldl (fun e c => e.evalWatchAtChange c) e
    s.SameMonitor e'.st
      ∧ (∀ n, (e'.st.watch n).latch
        = ((e.st.watch n).latch || (decide (n ∈ changed) && s.watchFires (before n) (after n) n)))
      ∧ e'.raised = e.raised ++ s.notes .monitor
        ((changed.filter (fun n => !(e.st.watch n).latch && s.watchFires (before n) (after n) n)).map
          (fun n => .watch n (s.watch n).cls ((s.watch n).level.value (after n)))) := by
  dsimp only
  rw [List.foldl_map]
  refine Ev.foldl_latches (inv := s.SameMonitor) (latch := fun u n => (u.watch n).latch) (s := s)
    (fun u hu => ⟨hu.1.time, hu.1.image⟩) (fun e n he => ?_) changed nodup e h
  have held : (e.st.defect n).raw = after n := (he.2 n).trans (raw n)
  have step := Ev.evalWatchAtChange_eq e n (before n)
  rw [held, he.1.watchFires] at step
  rw [step]
  cases fires : s.watchFires (before n) (after n) n
  · exact ⟨he, by simp, by simp⟩
  · have enabled : (e.st.watch n).enabled = true := by
      rw [(he.1.watch_fields n).1]
      simp only [State.watchFires, Bool.and_eq_true] at fires
      exact fires.1.1
    obtain ⟨kept, latched, raised⟩ := Ev.latchWatch_latches he n enabled
    exact ⟨kept, by simpa using latched, by simpa [raw n] using raised⟩

/-- The pattern sets latch where they fire (R125). -/
theorem Ev.evalPatterns_latches {after : Nat → Cond} {s : State} (raw : ∀ n, (s.defect n).raw = after n) (e : Ev)
    (h : s.SameMonitor e.st) :
    s.SameMonitor e.evalPatterns.st
      ∧ (∀ p, (e.evalPatterns.st.pattern p).latch = ((e.st.pattern p).latch || s.patternFires after p))
      ∧ e.evalPatterns.raised = e.raised ++ s.notes .monitor
        (((List.range 8).filter (fun p => !(e.st.pattern p).latch && s.patternFires after p)).map
          (fun p => .pattern p (s.pattern p).cls)) := by
  have folded := Ev.foldl_latches (inv := s.SameMonitor) (latch := fun u p => (u.pattern p).latch)
    (fires := fun p => (s.pattern p).enabled && s.patternHoldsIn after p) (note := fun p => .pattern p (s.pattern p).cls)
    (step := fun e p => e.evalPattern p) (s := s) (fun u hu => ⟨hu.1.time, hu.1.image⟩) (fun e p he => ?_)
    (List.range 8) List.nodup_range e h
  · have fires : ∀ p, s.patternFires after p
        = (decide (p ∈ List.range 8) && ((s.pattern p).enabled && s.patternHoldsIn after p)) := fun p => by
      simp [State.patternFires, Bool.and_assoc]
    refine ⟨folded.1, fun p => by rw [fires]; exact folded.2.1 p, folded.2.2.trans ?_⟩
    refine congrArg _ (congrArg _ (congrArg (List.map _) (List.filter_congr fun p hp => ?_)))
    rw [fires, decide_eq_true hp, Bool.true_and]
  · have held : (fun n => (e.st.defect n).raw) = after := funext fun n => (he.2 n).trans (raw n)
    have holds : e.st.patternHolds p = s.patternHoldsIn after p := by
      rw [State.patternHolds_eq, held, he.1.patternHoldsIn]
    by_cases fires : ((s.pattern p).enabled && !(e.st.pattern p).latch && s.patternHoldsIn after p) = true
    · have latches : e.evalPattern p = (e.modify (·.setPattern p { e.st.pattern p with latch := true })).raise .monitor
          (.pattern p (s.pattern p).cls) := by
        rw [← he.1.pattern_cls]
        exact if_pos (by rwa [he.1.pattern_enabled, holds])
      obtain ⟨⟨on, clear⟩, now⟩ : ((s.pattern p).enabled = true ∧ (e.st.pattern p).latch = false)
          ∧ s.patternHoldsIn after p = true := by simpa using fires
      rw [latches, Ev.raise_st]
      refine ⟨he.setPattern rfl, fun m => ?_, ?_⟩
      · rw [Ev.modify_st, State.setPattern_pattern]
        by_cases hm : m = p <;> simp [hm, on, now]
      · rw [Ev.raise_notes, on, clear, now]
        rfl
    · have stays : e.evalPattern p = e := if_neg (by rwa [he.1.pattern_enabled, holds])
      rw [stays]
      refine ⟨he, fun m => ?_, ?_⟩
      · by_cases hm : m = p
        · subst m
          cases latched : (e.st.pattern p).latch <;> simp_all
        · simp [hm]
      · rw [if_neg (fun h => fires (by simpa [and_assoc, and_left_comm] using h)), State.notes_nil, List.append_nil]

end Sys2Proof.Machine
end

section
/-! SUPPORT. Events of the Defect Monitor, one after the other, bring the state to what `Settled.event` says, and offer what
was raised (R113, R168). -/

namespace Sys2Proof.Machine

theorem State.of_mem_notes {s : State} {b : Block} {ns : List NoticeBody} {q : Block × Notice} (h : q ∈ s.notes b ns) :
    q.1 = b ∧ q.2.seconds = s.time.seconds ∧ q.2.frame = s.time.frame := by
  unfold State.notes at h
  split at h
  · obtain ⟨n, -, rfl⟩ := List.mem_map.mp h
    exact ⟨rfl, rfl, rfl⟩
  · cases h

/-! ### What evaluations of latches leave -/

theorem Ev.latchWatch_rest (n : Nat) (e : Ev) : { (e.latchWatch n).st with watches := e.st.watches } = e.st := by
  unfold Ev.latchWatch
  dsimp only
  split
  · rw [Ev.raise_st]; rfl
  · rfl

theorem Ev.evalWatchAtChange_rest (c : RawChange) (e : Ev) :
    { (e.evalWatchAtChange c).st with watches := e.st.watches } = e.st := by
  unfold Ev.evalWatchAtChange Ev.evalLevelWatch
  split <;> split
  · exact Ev.latchWatch_rest _ _
  · rfl
  · exact Ev.latchWatch_rest _ _
  · rfl

theorem Ev.evalPattern_rest (p : Nat) (e : Ev) : { (e.evalPattern p).st with patterns := e.st.patterns } = e.st := by
  unfold Ev.evalPattern
  dsimp only
  split
  · rw [Ev.raise_st]; rfl
  · rfl

theorem Ev.foldl_evalWatchAtChange_rest (cs : List RawChange) (e : Ev) :
    { (cs.foldl (fun e c => e.evalWatchAtChange c) e).st with watches := e.st.watches } = e.st := by
  refine List.foldlRecOn (motive := fun e' : Ev => { e'.st with watches := e.st.watches } = e.st) cs _ rfl
    (fun e' he' c _ => ?_)
  rw [← he']
  exact (congrArg (fun u : State => { u with watches := e.st.watches }) (Ev.evalWatchAtChange_rest c e') :)

theorem Ev.foldl_evalPattern_rest (ps : List Nat) (e : Ev) :
    { (ps.foldl (fun e p => e.evalPattern p) e).st with patterns := e.st.patterns } = e.st := by
  refine List.foldlRecOn (motive := fun e' : Ev => { e'.st with patterns := e.st.patterns } = e.st) ps _ rfl
    (fun e' he' p _ => ?_)
  rw [← he']
  exact (congrArg (fun u : State => { u with patterns := e.st.patterns }) (Ev.evalPattern_rest p e') :)

theorem Ev.evalPatterns_rest (e : Ev) : { e.evalPatterns.st with patterns := e.st.patterns } = e.st := by
  unfold Ev.evalPatterns
  exact Ev.foldl_evalPattern_rest _ e

/-! ### What an event in progress has raised -/

/-- The Defect Monitor and the Protection Engine have raised these notices in an event, and no other block has raised any. -/
structure Ev.HasRaised (e : Ev) (ms ps : List NoticeBody) : Prop where
  stamped         : e.Stamped
  silent          : e.st.image.finished = false → e.raised = []
  blocks          : ∀ q ∈ e.raised, q.1 = .monitor ∨ q.1 = .protection
  monitor         : e.st.image.finished = true → (noticesOf .monitor e.raised).map (·.body) = ms
  protection      : e.st.image.finished = true → (noticesOf .protection e.raised).map (·.body) = ps
  monitorKinds    : ∀ b ∈ ms, b.kindCode ≤ 1
  protectionKinds : ∀ b ∈ ps, b.kindCode = 2 ∨ b.kindCode = 3

namespace Ev.HasRaised

theorem start (s : State) : (Ev.start s).HasRaised [] [] :=
  ⟨fun _ h => (nomatch h), fun _ => rfl, fun _ h => (nomatch h), fun _ => rfl, fun _ => rfl, fun _ h => (nomatch h),
    fun _ h => (nomatch h)⟩

variable {e e' : Ev} {ms ps ls gs : List NoticeBody} (h : e.HasRaised ms ps)
include h

/-- More notices of the two blocks follow those raised. -/
theorem append (time : e'.st.time = e.st.time) (image : e'.st.image = e.st.image)
    (raised : e'.raised = e.raised ++ (e.st.notes .protection gs ++ e.st.notes .monitor ls))
    (lsKinds : ∀ b ∈ ls, b.kindCode ≤ 1) (gsKinds : ∀ b ∈ gs, b.kindCode = 2 ∨ b.kindCode = 3) :
    e'.HasRaised (ms ++ ls) (ps ++ gs) := by
  refine ⟨fun q hq => ?_, fun hf => ?_, fun q hq => ?_, fun hf => ?_, fun hf => ?_, fun b hb => ?_, fun b hb => ?_⟩
  · rw [raised, List.mem_append, List.mem_append] at hq
    rw [time]
    rcases hq with hq | hq | hq
    · exact h.stamped q hq
    · exact (State.of_mem_notes hq).2
    · exact (State.of_mem_notes hq).2
  · rw [image] at hf
    rw [raised, h.silent hf]
    simp [State.notes, hf]
  · rw [raised, List.mem_append, List.mem_append] at hq
    rcases hq with hq | hq | hq
    · exact h.blocks q hq
    · exact .inr (State.of_mem_notes hq).1
    · exact .inl (State.of_mem_notes hq).1
  · rw [image] at hf
    rw [raised, noticesOf_append, noticesOf_append]
    simp [State.noticesOf_notes _ _ _ _ hf, h.monitor hf]
  · rw [image] at hf
    rw [raised, noticesOf_append, noticesOf_append]
    simp [State.noticesOf_notes _ _ _ _ hf, h.protection hf]
  · exact (List.mem_append.mp hb).elim (h.monitorKinds b) (lsKinds b)
  · exact (List.mem_append.mp hb).elim (h.protectionKinds b) (gsKinds b)

theorem modify {f : State → State} (time : (f e.st).time = e.st.time) (image : (f e.st).image = e.st.image) :
    (e.modify f).HasRaised ms ps := by
  have more := h.append (e' := e.modify f) (ls := []) (gs := []) time image (by simp) (fun _ h => (nomatch h))
    fun _ h => (nomatch h)
  rwa [List.append_nil, List.append_nil] at more

theorem monitor_body {q : Block × Notice} (hf : e.st.image.finished = true) (hq : q ∈ e.raised) (hb : q.1 = .monitor) :
    q.2.body.kindCode ≤ 1 := by
  refine h.monitorKinds _ ?_
  rw [← h.monitor hf]
  exact List.mem_map_of_mem (mem_noticesOf.mpr (hb ▸ hq))

theorem protection_body {q : Block × Notice} (hf : e.st.image.finished = true) (hq : q ∈ e.raised)
    (hb : q.1 = .protection) : q.2.body.kindCode = 2 ∨ q.2.body.kindCode = 3 := by
  refine h.protectionKinds _ ?_
  rw [← h.protection hf]
  exact List.mem_map_of_mem (mem_noticesOf.mpr (hb ▸ hq))

/-- The two blocks' notices tell one another apart by their kinds. -/
theorem kinds_apart : ps.filter (fun b => decide (b.kindCode ≤ 1)) = []
    ∧ ms.filter (fun b => decide (b.kindCode = 2 ∨ b.kindCode = 3)) = []
    ∧ (ms ++ ps).filter (fun b => decide (4 ≤ b.kindCode)) = [] := by
  simp only [List.filter_eq_nil_iff, decide_eq_true_eq, List.mem_append]
  refine ⟨fun b hb => ?_, fun b hb => ?_, fun b hb => ?_⟩
  · have := h.protectionKinds b hb; omega
  · have := h.monitorKinds b hb; omega
  · rcases hb with hb | hb
    · have := h.monitorKinds b hb; omega
    · have := h.protectionKinds b hb; omega

theorem kinds_own : ms.filter (fun b => decide (b.kindCode ≤ 1)) = ms
    ∧ ps.filter (fun b => decide (b.kindCode = 2 ∨ b.kindCode = 3)) = ps :=
  ⟨List.filter_eq_self.mpr fun b hb => decide_eq_true (h.monitorKinds b hb),
    List.filter_eq_self.mpr fun b hb => decide_eq_true (h.protectionKinds b hb)⟩

variable {before : State} (links : ∀ x, e.st.link x = before.link x)
include links

/-- Before start-up has finished nothing is offered, so any order will do (R168). -/
theorem offered_of_not_finished {v : Settled} (hm : v.monitor = ms) (hp : v.protection = ps)
    (image : e.st.image = before.image) (hf : e.st.image.finished = false) : before.Offered e.offer v [] := by
  obtain ⟨otherP, otherM, others⟩ := h.kinds_apart
  obtain ⟨ownM, ownP⟩ := h.kinds_own
  have start : e = Ev.start e.st := by
    have := h.silent hf
    cases e
    exact congrArg (Ev.mk _) this
  refine ⟨ms ++ ps, ?_, ?_, by rw [others], fun x => ?_⟩
  · rw [List.filter_append, ownM, otherP, List.append_nil, hm]
  · rw [List.filter_append, ownP, otherM, List.nil_append, hp]
  · rw [start, Ev.offer_start, foldl_notify_of_not_finished _ (by rw [← image]; exact hf)]
    exact links x

/-- Once start-up has finished the notices are offered, each block's in its order (R168). -/
theorem offered_of_finished {v : Settled} (hm : v.monitor = ms) (hp : v.protection = ps)
    (time : e.st.time = before.time) (image : e.st.image = before.image) (hf : e.st.image.finished = true) :
    before.Offered e.offer v [] := by
  obtain ⟨ownM, ownP⟩ := h.kinds_own
  have picked : ∀ (p : NoticeBody → Bool) (b : Block), (∀ q ∈ e.raised, p q.2.body = true → q.1 = b) →
      ((offeringOrder e.st.choices e.raised).map (·.body)).filter p
        = ((noticesOf b e.raised).map (·.body)).filter p := fun p b hb => by
    rw [List.filter_map, List.filter_map]
    exact congrArg _ (filter_offeringOrder _ hb)
  refine ⟨(offeringOrder e.st.choices e.raised).map (·.body), ?_, ?_, ?_, fun x => ?_⟩
  · rw [picked _ .monitor, h.monitor hf, ownM, hm]
    intro q hq hk
    refine (h.blocks q hq).resolve_right fun hb => ?_
    have := h.protection_body hf hq hb
    have := of_decide_eq_true hk
    omega
  · rw [picked _ .protection, h.protection hf, ownP, hp]
    intro q hq hk
    refine (h.blocks q hq).resolve_left fun hb => ?_
    have := h.monitor_body hf hq hb
    have := of_decide_eq_true hk
    omega
  · rw [List.filter_eq_nil_iff.mpr]
    intro b hb
    obtain ⟨n, hn, rfl⟩ := List.mem_map.mp hb
    obtain ⟨q, hq, rfl⟩ := List.mem_map.mp ((offeringOrder_perm _ _).mem_iff.mp hn)
    rcases h.blocks q hq with hb | hb
    · have := h.monitor_body hf hq hb; simp; omega
    · have := h.protection_body hf hq hb; simp; omega
  · rw [Ev.offer_link h.stamped hf]
    exact foldl_notify_link_congr _ (links x) time (by rw [image])

end Ev.HasRaised

/-! ### Events in progress -/

/-- An event in progress has brought the Defect Monitor and the Protection Engine to what is settled, and those two alone
have raised notices. -/
structure Ev.Tracks (e : Ev) (v : Settled) : Prop where
  raw     : ∀ n, (e.st.defect n).raw = v.raw n
  group   : ∀ g, e.st.group g = v.group g
  watch   : ∀ n, (e.st.watch n).latch = v.watch n
  pattern : ∀ p, (e.st.pattern p).latch = v.pattern p
  raised  : e.HasRaised v.monitor v.protection

namespace Ev.Tracks

theorem start (s : State) : (Ev.start s).Tracks s.settled :=
  ⟨fun _ => rfl, fun _ => rfl, fun _ => rfl, fun _ => rfl, .start s⟩

variable {e : Ev} {v : Settled} (h : e.Tracks v)
include h

/-- Other fields may change within the event. -/
theorem modify {f : State → State} (hd : ∀ n, ((f e.st).defect n).raw = (e.st.defect n).raw)
    (hg : (f e.st).groups = e.st.groups) (hw : (f e.st).watches = e.st.watches) (hp : (f e.st).patterns = e.st.patterns)
    (ht : (f e.st).time = e.st.time) (hi : (f e.st).image = e.st.image) : (e.modify f).Tracks v where
  raw n := (hd n).trans (h.raw n)
  group g := (congrArg (fun u => Table.get GroupRec.reset u g) hg).trans (h.group g)
  watch n := (congrArg (fun u => (Table.get Watch.reset u n).latch) hw).trans (h.watch n)
  pattern p := (congrArg (fun u => (Table.get Pattern.reset u p).latch) hp).trans (h.pattern p)
  raised := h.raised.modify ht hi

/-- The end of such an event is what R168 says of its notices, in a state whose links, time and start-up are the event's. -/
theorem reaches {before : State} (links : ∀ x, e.st.link x = before.link x) (time : e.st.time = before.time)
    (image : e.st.image = before.image) : before.Reaches e.offer v [] where
  groups g := by rw [State.group, Ev.offer_groups]; exact h.group g
  watches n := by rw [State.watch, Ev.offer_watches]; exact h.watch n
  patterns p := by rw [State.pattern, Ev.offer_patterns]; exact h.pattern p
  notices := by
    cases hf : e.st.image.finished
    · exact h.raised.offered_of_not_finished links rfl rfl image hf
    · exact h.raised.offered_of_finished links rfl rfl time image hf

end Ev.Tracks

/-- The notices of a settled event are of the kinds of their blocks. -/
theorem State.latchNotices_kinds (t : State) (v w : Settled) (sources : List Nat) :
    ∀ b ∈ t.latchNotices v w sources, b.kindCode ≤ 1 := by
  intro b hb
  rcases List.mem_append.mp hb with hb | hb
  · obtain ⟨n, -, rfl⟩ := List.mem_map.mp hb
    exact Nat.zero_le _
  · obtain ⟨p, -, rfl⟩ := List.mem_map.mp hb
    exact Nat.le_refl _

theorem GroupRec.meets_kinds (g : Nat) (sec : Word) (fr : Nat) (before after : Nat → Cond) (r : GroupRec) :
    ∀ b ∈ (r.meets g sec fr before after).2, b.kindCode = 2 ∨ b.kindCode = 3 := by
  unfold GroupRec.meets
  split
  · exact fun _ h => nomatch h
  · split
    · exact fun _ h => nomatch h
    · exact GroupRec.evaluate_notices

/-- An event of the Defect Monitor keeps the groups listed, and the entries. -/
theorem Ev.settleRaw_groups {e : Ev} (wf : e.st.groups.wf GroupRec.reset = true) (touched : List Nat) :
    (e.settleRaw touched).st.groups.wf GroupRec.reset = true
      ∧ (e.settleRaw touched).st.groups.keys = e.st.groups.keys := by
  unfold Ev.settleRaw
  dsimp only
  split
  · exact ⟨wf, rfl⟩
  · have stored : (e.st.storeRaw (e.st.rawChanges touched)).groups = e.st.groups :=
      (congrArg State.groups (State.storeRaw_rest _ _) :)
    rw [(congrArg State.groups (Ev.evalPatterns_rest _) :), (congrArg State.groups (Ev.foldl_evalWatchAtChange_rest _ _) :)]
    have delivered := (Ev.foldl_deliverTo_rest (e.st.rawChanges touched)
      (e.st.storeRaw (e.st.rawChanges touched)).groups.keys
      (e.modify (·.storeRaw (e.st.rawChanges touched)))).2 (by rw [Ev.modify_st, stored]; exact wf)
    rw [Ev.modify_st, stored] at delivered
    rw [Ev.deliverChanges_eq, Ev.modify_st, stored]
    exact delivered

theorem Ev.settleRaw_sameEntries {e : Ev} (wf : e.st.groups.wf GroupRec.reset = true) (touched : List Nat) :
    e.st.SameEntries (e.settleRaw touched).st :=
  .of_monitor (Ev.settleRaw_same touched e) (Ev.settleRaw_groups wf touched).2

section Changes

variable {before after : Nat → Cond} {changed : List Nat} (hc : ∀ n, n ∈ changed ↔ before n ≠ after n)

include hc in
/-- The changes of an event are stored and reach every group (R113, steps 1 and 2). -/
theorem Ev.deliverChanges_meets {e : Ev} (wf : e.st.groups.wf GroupRec.reset = true)
    (raw : ∀ n, (e.st.defect n).raw = before n) :
    let cs : List RawChange := changed.map (fun n => ⟨n, before n, after n⟩)
    let e' := (e.modify (·.storeRaw cs)).deliverChanges cs
    let met := fun g => (e.st.group g).meets g e.st.time.seconds e.st.time.frame before after
    { e'.st with groups := e.st.groups, defects := e.st.defects } = e.st
      ∧ e'.st.groups.keys = e.st.groups.keys
      ∧ (∀ n, (e'.st.defect n).raw = after n)
      ∧ (∀ g, e'.st.group g = (met g).1)
      ∧ e'.raised = e.raised ++ e.st.notes .protection (e.st.groups.keys.flatMap (fun g => (met g).2)) := by
  dsimp only
  obtain ⟨cs, hcs⟩ : ∃ cs : List RawChange, changed.map (fun n => ⟨n, before n, after n⟩) = cs := ⟨_, rfl⟩
  have stored := State.storeRaw_rest cs e.st
  have groups : (e.st.storeRaw cs).groups = e.st.groups := (congrArg State.groups stored :)
  have time : (e.st.storeRaw cs).time = e.st.time := (congrArg State.time stored :)
  have image : (e.st.storeRaw cs).image = e.st.image := (congrArg State.image stored :)
  have group : ∀ g, (e.st.storeRaw cs).group g = e.st.group g := fun g => by rw [State.group, groups]; rfl
  have rest := Ev.foldl_deliverTo_rest cs e.st.groups.keys (e.modify (·.storeRaw cs))
  have meets := Ev.foldl_deliverTo_meets hc e.st.groups.keys (Table.keys_nodup _ _ wf) (e.modify (·.storeRaw cs))
  simp only [hcs, Ev.modify_st, group, time] at meets
  rw [hcs, Ev.deliverChanges_eq, Ev.modify_st, groups]
  refine ⟨?_, ?_, fun n => ?_, fun g => (meets.1 g).trans ?_, meets.2.trans ?_⟩
  · exact (congrArg (fun u : State => { u with groups := e.st.groups, defects := e.st.defects }) rest.1 :).trans
      (congrArg (fun u : State => { u with groups := e.st.groups }) stored :)
  · have kept := (rest.2 (by rw [Ev.modify_st, groups]; exact wf)).2
    rwa [Ev.modify_st, groups] at kept
  · have source : ∀ x ∈ cs, x.new = after x.source := by
      intro x hx
      obtain ⟨m, -, rfl⟩ := List.mem_map.mp (hcs ▸ hx)
      rfl
    have sources : cs.map (·.source) = changed := by rw [← hcs, List.map_map]; exact List.map_id _
    have defects := (congrArg State.defects rest.1 :)
    refine (congrArg (fun u => (Table.get DefectRec.reset u n).raw) defects).trans ?_
    refine (congrArg DefectRec.raw (State.storeRaw_defect cs e.st source n)).trans ?_
    rw [sources]
    split
    · rfl
    · rw [raw, not_not.mp (fun h => ‹n ∉ changed› ((hc n).mpr h))]
  · split
    · rfl
    · have reset : e.st.group g = GroupRec.reset := Table.get_of_not_mem _ _ _ ‹_›
      rw [reset]
      rfl
  · rw [State.notes_congr time image]
    rfl

/-- The watches of the changed sources and then the pattern sets latch where they fire (R113, step 3). -/
theorem Ev.evaluations_latch {e : Ev} (nodup : changed.Nodup) (raw : ∀ n, (e.st.defect n).raw = after n) :
    let cs : List RawChange := changed.map (fun n => ⟨n, before n, after n⟩)
    let e' := (cs.foldl (fun e c => e.evalWatchAtChange c) e).evalPatterns
    { e'.st with watches := e.st.watches, patterns := e.st.patterns } = e.st
      ∧ (∀ n, (e'.st.watch n).latch
        = ((e.st.watch n).latch || (decide (n ∈ changed) && e.st.watchFires (before n) (after n) n)))
      ∧ (∀ p, (e'.st.pattern p).latch = ((e.st.pattern p).latch || e.st.patternFires after p))
      ∧ e'.raised = e.raised ++ e.st.notes .monitor
        ((changed.filter (fun n => !(e.st.watch n).latch && e.st.watchFires (before n) (after n) n)).map
          (fun n => .watch n (e.st.watch n).cls ((e.st.watch n).level.value (after n)))
        ++ ((List.range 8).filter (fun p => !(e.st.pattern p).latch && e.st.patternFires after p)).map
          (fun p => .pattern p (e.st.pattern p).cls)) := by
  dsimp only
  have watches := Ev.evalWatches_latches (before := before) raw changed nodup e ⟨.refl _, fun _ => rfl⟩
  have watchesRest := Ev.foldl_evalWatchAtChange_rest (changed.map (fun n => ⟨n, before n, after n⟩)) e
  dsimp only at watches
  obtain ⟨e2, he2⟩ : ∃ e2, (changed.map (fun n => (⟨n, before n, after n⟩ : RawChange))).foldl
    (fun e c => e.evalWatchAtChange c) e = e2 := ⟨_, rfl⟩
  rw [he2] at watches watchesRest ⊢
  obtain ⟨same, latched, raised⟩ := watches
  have sets := Ev.evalPatterns_latches raw e2 same
  have setsRest := Ev.evalPatterns_rest e2
  obtain ⟨e3, he3⟩ : ∃ e3, e2.evalPatterns = e3 := ⟨_, rfl⟩
  rw [he3] at sets setsRest ⊢
  obtain ⟨-, latchedSets, raisedSets⟩ := sets
  have patterns : e2.st.patterns = e.st.patterns := (congrArg State.patterns watchesRest :)
  have pattern : ∀ p, e2.st.pattern p = e.st.pattern p := fun p => by rw [State.pattern, patterns]; rfl
  refine ⟨?_, fun n => ?_, fun p => ?_, ?_⟩
  · exact (congrArg (fun u : State => { u with watches := e.st.watches, patterns := e.st.patterns }) setsRest :).trans
      (congrArg (fun u : State => { u with patterns := e.st.patterns }) watchesRest :)
  · rw [← latched]
    exact (congrArg (fun u : State => (u.watch n).latch) setsRest :)
  · rw [latchedSets, pattern]
  · rw [raisedSets, raised, State.notes_append, List.append_assoc]
    simp only [pattern]

end Changes

/-- The changes of an event, delivered and evaluated, settle what R113 says of them. -/
theorem Ev.Tracks.taken {e : Ev} {v : Settled} (h : e.Tracks v) (wf : e.st.groups.wf GroupRec.reset = true)
    {after : Nat → Cond} {changed : List Nat} (hc : ∀ n, n ∈ changed ↔ v.raw n ≠ after n) (nodup : changed.Nodup) :
    let cs : List RawChange := changed.map (fun n => ⟨n, v.raw n, after n⟩)
    (((cs.foldl (fun e c => e.evalWatchAtChange c) ((e.modify (·.storeRaw cs)).deliverChanges cs))).evalPatterns).Tracks
      (v.taken e.st changed after) := by
  have delivered := Ev.deliverChanges_meets hc wf h.raw
  dsimp only at delivered ⊢
  obtain ⟨e1, he1⟩ : ∃ e1, (e.modify (·.storeRaw (changed.map (fun n => ⟨n, v.raw n, after n⟩)))).deliverChanges
        (changed.map (fun n => ⟨n, v.raw n, after n⟩)) = e1 := ⟨_, rfl⟩
  rw [he1] at delivered ⊢
  obtain ⟨rest1, keys1, raw1, group1, raised1⟩ := delivered
  have latches := Ev.evaluations_latch (before := v.raw) nodup raw1
  dsimp only at latches
  obtain ⟨e3, he3⟩ : ∃ e3, ((changed.map (fun n => (⟨n, v.raw n, after n⟩ : RawChange))).foldl
      (fun e c => e.evalWatchAtChange c) e1).evalPatterns = e3 := ⟨_, rfl⟩
  rw [he3] at latches ⊢
  obtain ⟨rest3, watch3, pattern3, raised3⟩ := latches
  have watch1 : ∀ n, e1.st.watch n = e.st.watch n := fun n => (congrArg (fun u : State => u.watch n) rest1 :)
  have pattern1 : ∀ p, e1.st.pattern p = e.st.pattern p := fun p => (congrArg (fun u : State => u.pattern p) rest1 :)
  have entries : e.st.SameEntries e1.st :=
    ⟨(congrArg State.time rest1 :), (congrArg State.image rest1 :),
      fun n => (congrArg (fun u : State => u.isHead n) rest1 :), fun n => congrArg Watch.besideLatch (watch1 n), fun p => congrArg Pattern.besideLatch (pattern1 p), keys1⟩
  have groups : e3.st.groups = e1.st.groups := (congrArg State.groups rest3 :)
  have defects : e3.st.defects = e1.st.defects := (congrArg State.defects rest3 :)
  simp only [watch1, h.watch, pattern1, h.pattern, entries.watchFires, entries.patternFires] at watch3 pattern3 raised3
  simp only [h.group] at group1 raised1
  refine ⟨fun n => ?_, fun g => ?_, watch3, pattern3, ?_⟩
  · rw [State.defect, defects]
    exact raw1 n
  · rw [State.group, groups]
    exact group1 g
  · refine h.raised.append ((congrArg State.time rest3 :).trans entries.time)
      ((congrArg State.image rest3 :).trans entries.image) ?_ (State.latchNotices_kinds e.st v _ changed) ?_
    · rw [raised3, raised1, State.notes_congr entries.time entries.image, List.append_assoc]
      refine congrArg _ (congrArg _ (congrArg _ (congrArg₂ _ (congrArg _ (List.filter_congr fun n hn => ?_)) (congrArg _
        (List.filter_congr fun p _ => ?_)))))
      · simp only [decide_eq_true hn, Bool.true_and]
        cases v.watch n <;> simp
      · show (!v.pattern p && e.st.patternFires after p)
          = (!v.pattern p && (v.pattern p || e.st.patternFires after p))
        cases v.pattern p <;> simp
    · intro b hb
      obtain ⟨g, -, hb⟩ := List.mem_flatMap.mp hb
      exact GroupRec.meets_kinds _ _ _ _ _ _ b hb

/-- The end of an event at the Defect Monitor is what R113 settles. -/
theorem Ev.Tracks.settleRaw {e : Ev} {v : Settled} (h : e.Tracks v) (wf : e.st.groups.wf GroupRec.reset = true)
    {touched : List Nat} (nodup : touched.Nodup) :
    (e.settleRaw touched).Tracks (v.event e.st touched e.st.derivedRaw) := by
  obtain ⟨changed, hchanged⟩ : ∃ c, touched.filter (fun n => v.raw n != e.st.derivedRaw n) = c := ⟨_, rfl⟩
  obtain ⟨after, hafter⟩ : ∃ a : Nat → Cond, (fun n => if n ∈ changed then e.st.derivedRaw n else v.raw n) = a :=
    ⟨_, rfl⟩
  have hc : ∀ n, n ∈ changed ↔ v.raw n ≠ after n := by
    intro n
    rw [← hafter]
    by_cases hn : n ∈ changed
    · have differs := (List.mem_filter.mp (hchanged ▸ hn)).2
      simpa [hn] using differs
    · simp [hn]
  have changes : e.st.rawChanges touched = changed.map (fun n => ⟨n, v.raw n, after n⟩) := by
    rw [State.rawChanges_eq, ← hchanged]
    simp only [h.raw]
    refine List.map_congr_left fun n hn => ?_
    rw [← hafter]
    exact congrArg _ (if_pos (hchanged ▸ hn)).symm
  rw [Settled.event_eq e.st hchanged hafter]
  by_cases none : changed = []
  · have idle : e.settleRaw touched = e := by simp [Ev.settleRaw, changes, none]
    rw [if_pos none, idle]
    exact h
  · have unfolded : e.settleRaw touched = ((changed.map (fun n => (⟨n, v.raw n, after n⟩ : RawChange))).foldl
        (fun e c => e.evalWatchAtChange c) ((e.modify (·.storeRaw (changed.map
          (fun n => ⟨n, v.raw n, after n⟩)))).deliverChanges (changed.map (fun n => ⟨n, v.raw n, after n⟩)))).evalPatterns := by
      unfold Ev.settleRaw
      simp [changes, none]
    rw [if_neg none, unfolded]
    exact h.taken wf hc (hchanged ▸ nodup.filter _)

end Sys2Proof.Machine
end

section
/-! SUPPORT. What the signal detector and the alignment words of a line bring about (R2 to R5, R113). -/

namespace Sys2Proof.Machine

/-! ### Line reports -/

/-- A line report derives the raw condition of the line's sources that are not IDLE, and touches no other (R111, R112). -/
theorem Ev.lineReport_raw (l : Nat) (f : LineDefects → LineDefects) (e : Ev) (n : Nat) :
    ((e.lineReport l f).st.defect n).raw
      = if lineOfSlot n = l ∧ (e.st.store n).state ≠ .idle then rawCondition (f (e.st.lineDefect l)) (e.st.defect n)
        else (e.st.defect n).raw := by
  unfold Ev.lineReport
  rw [Ev.settleRaw_defect]
  simp only [State.mem_sourcesOnLine, Ev.modify_st, State.setLineDefect_defect]
  split
  · rename_i on
    simp [State.derivedRaw, on.1, on.2]
  · rfl

theorem Ev.lineReport_besideRaw (l : Nat) (f : LineDefects → LineDefects) (e : Ev) (n : Nat) :
    ((e.lineReport l f).st.defect n).besideRaw = (e.st.defect n).besideRaw :=
  Ev.settleRaw_besideRaw _ _ n

theorem Ev.lineReport_stores (l : Nat) (f : LineDefects → LineDefects) (e : Ev) :
    (e.lineReport l f).st.stores = e.st.stores := Ev.settleRaw_stores _ _

theorem Ev.lineReport_slots (l : Nat) (f : LineDefects → LineDefects) (e : Ev) :
    (e.lineReport l f).st.slots = e.st.slots := Ev.settleRaw_slots _ _

theorem Ev.lineReport_same (l : Nat) (f : LineDefects → LineDefects) (e : Ev) :
    (e.st.setLineDefect l (f (e.st.lineDefect l))).SameButMonitor (e.lineReport l f).st :=
  Ev.settleRaw_same _ (e.modify fun s => s.setLineDefect l (f (s.lineDefect l)))

/-- The levels of a line, set again after an event of the Defect Monitor. -/
theorem State.SameButMonitor.setLineDefect {s t : State} {l : Nat} {d d' : LineDefects}
    (h : (s.setLineDefect l d).SameButMonitor t) : (s.setLineDefect l d').SameButMonitor (t.setLineDefect l d') :=
  { h with
    lineDefects := (congrArg (fun u => Table.set LineDefects.reset u l d') h.lineDefects).trans (Table.set_set _ _ _ _ _)
    links := fun x => by cases x <;> [exact h.links .a; exact h.links .b] }

theorem Ev.lineReport_sameEntries {e : Ev} (wf : e.st.groups.wf GroupRec.reset = true) (l : Nat)
    (f : LineDefects → LineDefects) : e.st.SameEntries (e.lineReport l f).st :=
  have level : e.st.SameEntries (e.st.setLineDefect l (f (e.st.lineDefect l))) :=
    ⟨rfl, rfl, fun _ => rfl, fun _ => rfl, fun _ => rfl, rfl⟩
  level.trans (Ev.settleRaw_sameEntries (e := e.modify fun s => s.setLineDefect l (f (s.lineDefect l))) wf
    (e.st.sourcesOnLine l))

/-- What a line report settles, said of every source with a store. -/
theorem Ev.Tracks.lineReport {e : Ev} {v : Settled} (h : e.Tracks v) (wf : e.st.groups.wf GroupRec.reset = true)
    (nodup : e.st.stores.keys.Nodup) (l : Nat) (f : LineDefects → LineDefects) :
    (e.lineReport l f).Tracks
      (v.event e.st e.st.stores.keys (fun n => ((e.lineReport l f).st.defect n).raw)) := by
  obtain ⟨e', he'⟩ : ∃ e', e.modify (fun s => s.setLineDefect l (f (s.lineDefect l))) = e' := ⟨_, rfl⟩
  have start : e'.Tracks v := he' ▸ h.modify (fun _ => rfl) rfl rfl rfl rfl rfl
  have entries : e.st.SameEntries e'.st := he' ▸ ⟨rfl, rfl, fun _ => rfl, fun _ => rfl, fun _ => rfl, rfl⟩
  have settled := start.settleRaw (by rw [← he']; exact wf) (touched := e.st.sourcesOnLine l) (nodup.filter _)
  have report : e.lineReport l f = e'.settleRaw (e.st.sourcesOnLine l) := by rw [← he']; rfl
  have after : ∀ n ∈ e.st.sourcesOnLine l, e'.st.derivedRaw n = ((e.lineReport l f).st.defect n).raw := fun n hn => by
    rw [report, Ev.settleRaw_defect, if_pos hn]
  rw [Settled.event_congr entries, Settled.event_after_congr _ after, ← report] at settled
  refine (congrArg (Ev.Tracks _) (Settled.event_filter e.st _ fun n _ hn => ?_)).mp settled
  rw [Ev.lineReport_raw, if_neg, h.raw]
  rintro ⟨on, busy⟩
  simp [State.referencedNow_iff.mpr busy, on] at hn

/-- A line's event, begun with changes of the LIF and the slots alone, reaches what R113 settles. -/
theorem lineEvent_tracks {s u : State} (hu : { u with lifs := s.lifs, slots := s.slots } = s) (hs : s.Canonical) (l : Nat)
    (f : LineDefects → LineDefects) :
    ((Ev.start u).lineReport l f).Tracks
        (s.settled.event s s.stores.keys (fun n => (((Ev.start u).lineReport l f).st.defect n).raw))
      ∧ s.SameEntries ((Ev.start u).lineReport l f).st := by
  have groups : u.groups = s.groups := (congrArg State.groups hu :)
  have stores : u.stores = s.stores := (congrArg State.stores hu :)
  have start : (Ev.start u).Tracks s.settled :=
    (Ev.Tracks.start s).modify (f := fun _ => u) (fun n => (congrArg (fun u : State => (u.defect n).raw) hu :)) groups
      (congrArg State.watches hu :) (congrArg State.patterns hu :) (congrArg State.time hu :) (congrArg State.image hu :)
  have entries : s.SameEntries u :=
    ⟨(congrArg State.time hu :), (congrArg State.image hu :), fun n => (congrArg (fun u : State => u.isHead n) hu :),
      fun n => (congrArg (fun u : State => (u.watch n).besideLatch) hu :),
      fun p => (congrArg (fun u : State => (u.pattern p).besideLatch) hu :), congrArg Table.keys groups⟩
  have wf : (Ev.start u).st.groups.wf GroupRec.reset = true := by rw [Ev.start_st, groups]; exact hs.groups
  have tracks := start.lineReport wf (by rw [Ev.start_st, stores]; exact Table.keys_nodup _ _ hs.stores) l f
  rw [Ev.start_st, Settled.event_congr entries, stores] at tracks
  exact ⟨tracks, entries.trans (Ev.lineReport_sameEntries wf l f)⟩

/-- Where an event in progress has settled the raw conditions it holds, its end lets the changes reach all (R113). -/
theorem Ev.Tracks.changesReach {s : State} {e : Ev}
    (h : e.Tracks (s.settled.event s s.stores.keys (fun n => (e.st.defect n).raw))) (entries : s.SameEntries e.st)
    (links : ∀ x, e.st.link x = s.link x) : s.ChangesReach e.offer := by
  have offered : e.st.SameEntries e.offer :=
    ⟨by simp, by simp, fun n => by simp [State.isHead, State.activeBank, State.bank],
      fun n => by simp [State.watch], fun p => by simp [State.pattern], by simp⟩
  have raw : (fun n => (e.offer.defect n).raw) = fun n => (e.st.defect n).raw := by
    funext n
    rw [State.defect, Ev.offer_defects]
    rfl
  unfold State.ChangesReach
  rw [Settled.event_congr (entries.trans offered), raw]
  exact h.reaches links entries.time entries.image

theorem Ev.lineReport_link (l : Nat) (f : LineDefects → LineDefects) (e : Ev) (x : Link) :
    (e.lineReport l f).st.link x = e.st.link x := by
  have rest := Ev.settleRaw_rest (e.st.sourcesOnLine l) (e.modify fun s => s.setLineDefect l (f (s.lineDefect l)))
  cases x
  · exact (congrArg State.linkA rest :)
  · exact (congrArg State.linkB rest :)

section LineEvent

variable {s u : State} (hu : { u with lifs := s.lifs, slots := s.slots } = s) (l : LineNo) (f : LineDefects → LineDefects)
include hu

/-- A line's event: what it leaves alone, the raw conditions, and what it reaches (R111 to R113). -/
theorem lineEvent_settles : (u.setLineDefect l (f (s.lineDefect l))).SameButMonitor ((Ev.start u).lineReport l f).offer
    ∧ (∀ n, (((Ev.start u).lineReport l f).offer.defect n).raw
      = if lineOfSlot n = l ∧ (s.store n).state ≠ .idle then
          rawCondition (((Ev.start u).lineReport l f).offer.lineDefect l) (s.defect n) else (s.defect n).raw)
    ∧ (s.Canonical → s.ChangesReach ((Ev.start u).lineReport l f).offer) := by
  have level : u.lineDefect l = s.lineDefect l := (congrArg (fun u : State => u.lineDefect l) hu :)
  have defect : ∀ n, u.defect n = s.defect n := fun n => (congrArg (fun u : State => u.defect n) hu :)
  have store : ∀ n, u.store n = s.store n := fun n => (congrArg (fun u : State => u.store n) hu :)
  have same : (u.setLineDefect l (f (s.lineDefect l))).SameButMonitor ((Ev.start u).lineReport l f).offer := by
    rw [← level]
    exact (Ev.lineReport_same l f (Ev.start u)).trans (Ev.offer_sameButMonitor _)
  refine ⟨same, fun n => ?_, fun hs => ?_⟩
  · have after : ((Ev.start u).lineReport l f).offer.lineDefect l = f (s.lineDefect l) := by
      rw [State.lineDefect, same.lineDefects]
      exact State.setLineDefect_lineDefect_self ..
    rw [after, State.defect, Ev.offer_defects]
    refine (Ev.lineReport_raw l f (Ev.start u) n).trans ?_
    rw [Ev.start_st, level, defect, store]
  · obtain ⟨tracks, entries⟩ := lineEvent_tracks hu hs l f
    refine tracks.changesReach entries fun x => (Ev.lineReport_link l f _ x).trans ?_
    exact (congrArg (fun u : State => u.link x) hu :)

end LineEvent

/-! ### The signal detector (R2) -/

/-- R2: what a broken sequence of arrivals leaves of a slot. -/
theorem State.breakArrivals_slot (l : Nat) (s : State) (n : Nat) : (s.breakArrivals l).slot n
    = if lineOfSlot n = l then { s.slot n with markerRun := 0, mismatchRun := 0, parity := SlotParity.reset }
      else s.slot n := by
  refine Table.get_mapAll Slot.reset s.slots (fun n sl => if lineOfSlot n = l then
    { sl with markerRun := 0, mismatchRun := 0, parity := SlotParity.reset } else sl) (fun k => ?_) n
  split <;> rfl

/-- A second report of the line, LINE_ABSENT being present, changes no raw condition (R112). -/
theorem Ev.lineReport_raw_absent {l : Nat} {f g : LineDefects → LineDefects} {e : Ev}
    (hf : (f (e.st.lineDefect l)).absent = true) (hg : (g (f (e.st.lineDefect l))).absent = true) (n : Nat) :
    (((e.lineReport l f).lineReport l g).st.defect n).raw = ((e.lineReport l f).st.defect n).raw := by
  have read : (e.lineReport l f).st.lineDefect l = f (e.st.lineDefect l) := by
    rw [State.lineDefect, Ev.lineReport_lineDefects]
    exact State.setLineDefect_lineDefect_self ..
  have store : (e.lineReport l f).st.store n = e.st.store n := by rw [State.store, Ev.lineReport_stores]; rfl
  rw [Ev.lineReport_raw, read, store, Ev.lineReport_raw]
  split
  · simp [rawCondition, hf, hg]
  · rfl

/-- The two reports of a lock lost with its signal (R2) settle as the first does. -/
theorem absentLocked_settles {s u : State} (hu : { u with lifs := s.lifs, slots := s.slots } = s) (l : LineNo) :
    let e := ((Ev.start u).lineReport l (fun d => { d with absent := true })).lineReport l (fun d => { d with lost := true })
    (u.setLineDefect l ⟨true, true⟩).SameButMonitor e.offer
      ∧ (∀ n, (e.offer.defect n).raw = if lineOfSlot n = l ∧ (s.store n).state ≠ .idle then
          rawCondition (e.offer.lineDefect l) (s.defect n) else (s.defect n).raw)
      ∧ (s.Canonical → s.ChangesReach e.offer) := by
  dsimp only
  obtain ⟨e1, he1⟩ : ∃ e1, (Ev.start u).lineReport l (fun d => { d with absent := true }) = e1 := ⟨_, rfl⟩
  have defect : ∀ n, u.defect n = s.defect n := fun n => (congrArg (fun u : State => u.defect n) hu :)
  have store : ∀ n, u.store n = s.store n := fun n => (congrArg (fun u : State => u.store n) hu :)
  have read : e1.st.lineDefect l = { u.lineDefect l with absent := true } := by
    rw [← he1, State.lineDefect, Ev.lineReport_lineDefects]
    exact State.setLineDefect_lineDefect_self ..
  have kept : ∀ n, ((e1.lineReport l (fun d => { d with lost := true })).st.defect n).raw = (e1.st.defect n).raw := by
    rw [← he1]
    exact Ev.lineReport_raw_absent rfl rfl
  have same : (u.setLineDefect l ⟨true, true⟩).SameButMonitor
      (e1.lineReport l (fun d => { d with lost := true })).offer := by
    have first := Ev.lineReport_same l (fun d => { d with absent := true }) (Ev.start u)
    have second := Ev.lineReport_same l (fun d => { d with lost := true }) e1
    rw [he1] at first
    rw [read] at second
    exact (first.setLineDefect.trans second).trans (Ev.offer_sameButMonitor _)
  rw [he1]
  refine ⟨same, fun n => ?_, fun hs => ?_⟩
  · have after : (e1.lineReport l (fun d => { d with lost := true })).offer.lineDefect l = ⟨true, true⟩ := by
      rw [State.lineDefect, same.lineDefects]
      exact State.setLineDefect_lineDefect_self ..
    rw [after, State.defect, Ev.offer_defects]
    refine (kept n).trans ?_
    rw [← he1, Ev.lineReport_raw, Ev.start_st, defect, store]
    split
    · simp [rawCondition]
    · rfl
  · obtain ⟨tracks, entries⟩ := lineEvent_tracks hu hs l (fun d => { d with absent := true })
    rw [he1] at tracks entries
    have stores : e1.st.stores = s.stores := by
      rw [← he1, Ev.lineReport_stores]
      exact (congrArg State.stores hu :)
    have wf : e1.st.groups.wf GroupRec.reset = true := by
      rw [← he1]
      refine (Ev.settleRaw_groups ?_ _).1
      rw [Ev.modify_st, State.setLineDefect_groups, Ev.start_st, (congrArg State.groups hu :)]
      exact hs.groups
    have again := tracks.lineReport wf (by rw [stores]; exact Table.keys_nodup _ _ hs.stores) l
      (fun d => { d with lost := true })
    rw [Settled.event_of_unchanged] at again
    · simp only [← kept] at again
      refine again.changesReach (entries.trans (Ev.lineReport_sameEntries wf l _)) fun x => ?_
      rw [Ev.lineReport_link, ← he1, Ev.lineReport_link]
      exact (congrArg (fun u : State => u.link x) hu :)
    · intro n _
      rw [kept, tracks.raw n]

/-- Settles O33: a detector change is one line report, or two where the lock goes with the signal, and the second changes no
raw condition. -/
theorem signalDetectorChanges : Obligations.SignalDetectorChanges := by
  intro s l
  dsimp only
  refine ⟨fun present => ?_, fun absent => ?_, fun absent => ?_, fun present => ?_⟩
  · have slots : ∀ (t : State) n, t.slots = (State.breakArrivals l (s.setLif l
        { s.lif l with signal := false, align := .hunt, confirm := 0, miss := 0, expected := none })).slots →
        t.slot n = if lineOfSlot n = l then
          { s.slot n with markerRun := 0, mismatchRun := 0, parity := SlotParity.reset } else s.slot n := fun t n ht => by
      rw [State.slot, ht]
      exact State.breakArrivals_slot l _ n
    by_cases locked : (s.lif l).align = .locked
    · obtain ⟨same, raw, reach⟩ := absentLocked_settles (s := s) (u := State.breakArrivals l (s.setLif l
        { s.lif l with signal := false, align := .hunt, confirm := 0, miss := 0, expected := none })) rfl l
      refine ⟨_, ?_, ?_, fun n => slots _ n same.slots, raw, reach⟩
      · change execSignalAbsent l s = _
        unfold execSignalAbsent
        simp only [present, locked]
        rfl
      · rw [if_pos locked]; exact same
    · obtain ⟨same, raw, reach⟩ := lineEvent_settles (s := s) (u := State.breakArrivals l (s.setLif l
        { s.lif l with signal := false, align := .hunt, confirm := 0, miss := 0, expected := none })) rfl l
        (fun d => { d with absent := true })
      refine ⟨_, ?_, ?_, fun n => slots _ n same.slots, raw, reach⟩
      · change execSignalAbsent l s = _
        unfold execSignalAbsent
        simp only [present, locked, if_false]
        rfl
      · rw [if_neg locked]; exact same
  · obtain ⟨same, raw, reach⟩ := lineEvent_settles (s := s) (u := s.setLif l { s.lif l with signal := true }) rfl l
      (fun d => { d with absent := false })
    refine ⟨_, ?_, same, raw, reach⟩
    change execSignalPresent l s = _
    unfold execSignalPresent
    simp only [absent]
    rfl
  · change execSignalAbsent l s = _
    simp [execSignalAbsent, absent]
  · change execSignalPresent l s = _
    simp [execSignalPresent, present]

end Sys2Proof.Machine
end

section
/-! SUPPORT. How the alignment words move a LIF (R3 to R5). -/

namespace Sys2Proof.Machine

theorem execAlignmentFind_hit {s : State} {l : LineNo} (p : Nat) (hunt : (s.lif l).align = .hunt)
    (present : (s.lif l).signal = true) : execAlignmentFind l p 0x4E971DC2#32 s = .next (s.setLif l
      { s.lif l with align := .confirm, confirm := 0, miss := 0, expected := some (p + frameLength l) }) :=
  if_pos ⟨hunt, present, rfl⟩

section Confirm

variable {s : State} {l : LineNo} (confirm : (s.lif l).align = .confirm)
include confirm

theorem execConfirmWord_first (none : (s.lif l).confirm = 0) : execConfirmWord l 0x4E971DC2#32 s
    = .next (s.setLif l { s.lif l with confirm := 1, expected := (s.lif l).expected.map (· + frameLength l) }) := by
  unfold execConfirmWord
  dsimp only
  rw [if_pos confirm, if_pos (show (0x4E971DC2#32 : Word) = alignmentWord from rfl), none, if_neg (by decide)]
  rfl

theorem execConfirmWord_second (one : (s.lif l).confirm = 1) : execConfirmWord l 0x4E971DC2#32 s
    = ((Ev.start (s.setLif l { s.lif l with
        align := .locked, confirm := 2, miss := 0, expected := (s.lif l).expected.map (· + frameLength l) })).lineReport l
          (fun d => { d with lost := false })).done := by
  unfold execConfirmWord
  dsimp only
  rw [if_pos confirm, if_pos (show (0x4E971DC2#32 : Word) = alignmentWord from rfl), one, if_pos (by decide)]
  rfl

theorem execConfirmWord_miss {v : Word} (miss : v ≠ 0x4E971DC2#32) :
    execConfirmWord l v s = .next (s.setLif l (s.lif l).hunting) := by
  unfold execConfirmWord
  dsimp only
  rw [if_pos confirm, if_neg (show ¬v = alignmentWord from miss)]

end Confirm

section Locked

variable {s : State} {l : LineNo} (locked : (s.lif l).align = .locked)
include locked

theorem execLockedWord_hit : execLockedWord l 0x4E971DC2#32 s
    = .next (s.setLif l { s.lif l with miss := 0, expected := (s.lif l).expected.map (· + frameLength l) }) := by
  unfold execLockedWord
  dsimp only
  rw [if_pos locked, if_pos (show (0x4E971DC2#32 : Word) = alignmentWord from rfl)]
  rfl

theorem execLockedWord_miss {v : Word} (miss : v ≠ 0x4E971DC2#32) (few : (s.lif l).miss < 3) : execLockedWord l v s
    = .next (s.setLif l { s.lif l with
        miss := (s.lif l).miss + 1, expected := (s.lif l).expected.map (· + frameLength l) }) := by
  unfold execLockedWord
  dsimp only
  rw [if_pos locked, if_neg (show ¬v = alignmentWord from miss), if_pos (by omega)]
  rfl

theorem execLockedWord_lost {v : Word} (miss : v ≠ 0x4E971DC2#32) (fourth : 3 ≤ (s.lif l).miss) : execLockedWord l v s
    = ((Ev.start ((s.setLif l (s.lif l).hunting).breakArrivals l)).lineReport l
      (fun d => { d with lost := true })).done := by
  unfold execLockedWord
  dsimp only
  rw [if_pos locked, if_neg (show ¬v = alignmentWord from miss), if_neg (by omega)]
  rfl

end Locked

/-- Settles O34: each word moves the LIF as its equation says, and the lock and its loss are one line report each. -/
theorem alignmentWordsMoveTheLif : Obligations.AlignmentWordsMoveTheLif := by
  intro s l p v
  dsimp only
  rw [← frameLength_eq l]
  refine ⟨execAlignmentFind_hit p, fun confirm => ⟨execConfirmWord_first confirm, fun one => ?_,
    execConfirmWord_miss confirm⟩, fun locked => ⟨execLockedWord_hit locked, execLockedWord_miss locked,
    fun miss fourth => ?_⟩⟩
  · obtain ⟨same, raw, reach⟩ := lineEvent_settles (s := s) (u := s.setLif l { s.lif l with
      align := .locked, confirm := 2, miss := 0, expected := (s.lif l).expected.map (· + frameLength l) }) rfl l
      (fun d => { d with lost := false })
    exact ⟨_, execConfirmWord_second confirm one, same, raw, reach⟩
  · obtain ⟨same, raw, reach⟩ := lineEvent_settles (s := s) (u := (s.setLif l (s.lif l).hunting).breakArrivals l) rfl l
      (fun d => { d with lost := true })
    exact ⟨_, execLockedWord_lost locked miss fourth, same, raw, reach⟩

end Sys2Proof.Machine
end

section
/-! SUPPORT. What an arrival leaves at one source head (R6 to R11, R114): its store, its defect record and the slots it
covers. -/

namespace Sys2Proof.Machine

/-! ### Reports against a source (R111, R112) -/

/-- A report against a source touches its defect record alone, and derives its raw condition, unless its store is IDLE. -/
theorem Ev.sourceReport_defect (n : Nat) (f : DefectRec → DefectRec) (e : Ev) (k : Nat) :
    (e.sourceReport n f).st.defect k
      = if k = n ∧ (e.st.store n).state ≠ .idle then
          { f (e.st.defect n) with raw := rawCondition (e.st.lineDefect (lineOfSlot n)) (f (e.st.defect n)) }
        else e.st.defect k := by
  unfold Ev.sourceReport
  by_cases idle : (e.st.store n).state = .idle
  · simp [State.referencedNow, idle]
  · rw [if_pos (State.referencedNow_iff.mpr idle), Ev.settleRaw_defect, Ev.modify_st, State.setDefect_defect]
    by_cases hk : k = n
    · subst k
      simp [State.derivedRaw, idle]
    · simp [hk]

theorem Ev.sourceReport_stores (n : Nat) (f : DefectRec → DefectRec) (e : Ev) :
    (e.sourceReport n f).st.stores = e.st.stores := by
  unfold Ev.sourceReport
  split
  · exact Ev.settleRaw_stores _ _
  · rfl

theorem Ev.sourceReport_slots (n : Nat) (f : DefectRec → DefectRec) (e : Ev) :
    (e.sourceReport n f).st.slots = e.st.slots := by
  unfold Ev.sourceReport
  split
  · exact Ev.settleRaw_slots _ _
  · rfl

/-! ### Bytes and errored events (R7, R8, R114) -/

/-- The payload bytes that an arrival brings to a head (R7). -/
def arrivalBytes (base : Nat) (slots : List RxSlot) (n : Nat) (w : Width) : List Byte :=
  ((coveredSlots n w).flatMap (fun m => (rxSlot slots (m - base)).payload)).take
    (codeCount (codeTaken (rxSlot slots (n - base)).control).1 w)

/-- Whether an arrival at a head is errored, by its code or by its parity (R7, R8). -/
def State.arrivalBad (base : Nat) (slots : List RxSlot) (n : Nat) (w : Width) (s : State) : Bool :=
  (codeTaken (rxSlot slots (n - base)).control).2
    || parityError ((rxSlot slots (n - base)).control.getLsbD 0) (rxSlot slots (n - base)).overhead
      ((coveredSlots n w).map (fun m => (s.slot m).parity))

/-- The errored events of an arrival: its overflow, and its frame (R114). -/
def arrivalErrors (overflow bad : Bool) : Nat := (if overflow then 1 else 0) + (if bad then 1 else 0)

theorem State.erroredEvent_defect (s : State) (n k : Nat) : (s.erroredEvent n).defect k
    = if k = n ∧ (s.store n).state ≠ .idle then (s.defect n).countError else s.defect k := by
  unfold State.erroredEvent
  by_cases idle : (s.store n).state = .idle
  · simp [State.referencedNow, idle]
  · rw [if_pos (State.referencedNow_iff.mpr idle), State.setDefect_defect]
    by_cases hk : k = n <;> simp [hk, idle]

theorem State.erroredEvent_stores (s : State) (n : Nat) : (s.erroredEvent n).stores = s.stores :=
  (congrArg State.stores (s.erroredEvent_rest n) :)

theorem State.erroredEvent_slots (s : State) (n : Nat) : (s.erroredEvent n).slots = s.slots :=
  (congrArg State.slots (s.erroredEvent_rest n) :)

theorem State.arriveStore_stores (n : Nat) (bytes : List Byte) (bad : Bool) (s : State) :
    (s.arriveStore n bytes bad).stores = (s.setStore n ((s.store n).arrive bytes).1).stores := by
  unfold State.arriveStore
  dsimp only
  (repeat' split) <;> simp only [State.erroredEvent_stores]

theorem State.arriveStore_slots (n : Nat) (bytes : List Byte) (bad : Bool) (s : State) :
    (s.arriveStore n bytes bad).slots = s.slots := by
  unfold State.arriveStore
  dsimp only
  (repeat' split) <;> simp only [State.erroredEvent_slots, State.setStore_slots]

/-- The defect record of a source to whose store an arrival has come (R114). -/
theorem State.arriveStore_defect (n : Nat) (bytes : List Byte) (bad : Bool) (s : State) (k : Nat) :
    (s.arriveStore n bytes bad).defect k = if k = n then { s.defect n with
        errored := if (s.store n).state = .idle ∨ arrivalErrors ((s.store n).arrive bytes).2 bad = 0 then (s.defect n).errored
          else min ((s.defect n).errored + arrivalErrors ((s.store n).arrive bytes).2 bad) 65535 }
      else s.defect k := by
  have state : ((s.store n).arrive bytes).1.state = (s.store n).state := ((s.store n).arrive_keeps bytes).1
  have store : ∀ u : State, (u.erroredEvent n).store n = u.store n := fun u => by
    rw [State.store, State.erroredEvent_stores]; rfl
  unfold State.arriveStore arrivalErrors
  dsimp only
  by_cases hk : k = n
  · subst k
    by_cases idle : (s.store n).state = .idle <;> cases ((s.store n).arrive bytes).2 <;> cases bad <;>
      simp [State.erroredEvent_defect, store, state, idle, DefectRec.countError]
    omega
  · cases ((s.store n).arrive bytes).2 <;> cases bad <;> simp [State.erroredEvent_defect, hk]

/-! ### Slots (R8 to R11) -/

/-- A slot's history takes the current arrival (R8). -/
def Slot.pushed (rx : RxSlot) (sl : Slot) : Slot := { sl with parity := sl.parity.push (xorBytes rx.payload) }

/-- A head's slot after an arrival: MARKER, and on a phase-0 frame the tag (R9 to R11). -/
def Slot.arrived (rx : RxSlot) (expected : Option Byte) (sl : Slot) : Slot :=
  if rx.control.getLsbD 0 then (sl.markerStep (rx.control.getLsbD 1)).1
  else (((sl.markerStep (rx.control.getLsbD 1)).1.tagStep rx.overhead).mismatchStep expected rx.overhead).1

theorem State.pushParity_slot (n : Nat) (w : Width) (base : Nat) (slots : List RxSlot) (s : State) (k : Nat) :
    (s.pushParity n w base slots).slot k
      = if k ∈ coveredSlots n w then (s.slot k).pushed (rxSlot slots (k - base)) else s.slot k :=
  Table.get_update _ _ _ _ _

/-- MARKER changes exactly where a report says so (R9). -/
theorem Slot.markerStep_changed (bit : Bool) (sl : Slot) :
    (sl.markerStep bit).2 = true ↔ (sl.markerStep bit).1.marker ≠ sl.marker := by
  unfold Slot.markerStep
  by_cases same : bit = sl.marker
  · simp [same]
  · by_cases third : 3 ≤ sl.markerRun + 1 <;> simp [same, third]

/-- TAG_MISMATCH changes exactly where a report says so (R11). -/
theorem Slot.mismatchStep_changed (x : Option Byte) (tag : Byte) (sl : Slot) :
    (sl.mismatchStep x tag).2 = true ↔ (sl.mismatchStep x tag).1.mismatch ≠ sl.mismatch := by
  unfold Slot.mismatchStep
  cases x with
  | none => simp
  | some x =>
    by_cases same : (tag != x) = sl.mismatch
    · simp [same]
    · by_cases fifth : 5 ≤ sl.mismatchRun + 1 <;> simp [same, fifth]

@[simp] theorem Slot.markerStep_mismatch (bit : Bool) (sl : Slot) : (sl.markerStep bit).1.mismatch = sl.mismatch := by
  unfold Slot.markerStep; split <;> [rfl; (split <;> rfl)]

@[simp] theorem Slot.tagStep_mismatch (tag : Byte) (sl : Slot) : (sl.tagStep tag).mismatch = sl.mismatch := rfl

@[simp] theorem Slot.tagStep_marker (tag : Byte) (sl : Slot) : (sl.tagStep tag).marker = sl.marker := rfl

@[simp] theorem Slot.mismatchStep_marker (x : Option Byte) (tag : Byte) (sl : Slot) :
    (sl.mismatchStep x tag).1.marker = sl.marker := by
  unfold Slot.mismatchStep
  split
  · rfl
  · split <;> [rfl; (split <;> rfl)]

/-- The MARKER level of a head is the marker's alone. -/
theorem Slot.arrived_marker (rx : RxSlot) (x : Option Byte) (sl : Slot) :
    (sl.arrived rx x).marker = (sl.markerStep (rx.control.getLsbD 1)).1.marker := by
  unfold Slot.arrived; split <;> simp

/-! ### Levels and raw conditions -/

section Arrivals

variable (n : Nat) (e : Ev) (k : Nat)

theorem Ev.markerArrival_slot (bit : Bool) : (e.markerArrival n bit).st.slot k
    = if k = n then ((e.st.slot n).markerStep bit).1 else e.st.slot k := by
  unfold Ev.markerArrival
  dsimp only
  split
  · rw [State.slot, Ev.sourceReport_slots]
    exact State.setSlot_slot ..
  · exact State.setSlot_slot ..

theorem Ev.tagArrival_slot (x : Option Byte) (tag : Byte) : (e.tagArrival n x tag).st.slot k
    = if k = n then (((e.st.slot n).tagStep tag).mismatchStep x tag).1 else e.st.slot k := by
  unfold Ev.tagArrival
  dsimp only
  split
  · rw [State.slot, Ev.sourceReport_slots]
    exact State.setSlot_slot ..
  · exact State.setSlot_slot ..

theorem Ev.markerArrival_stores (bit : Bool) : (e.markerArrival n bit).st.stores = e.st.stores := by
  unfold Ev.markerArrival
  dsimp only
  split
  · exact Ev.sourceReport_stores ..
  · rfl

theorem Ev.tagArrival_stores (x : Option Byte) (tag : Byte) : (e.tagArrival n x tag).st.stores = e.st.stores := by
  unfold Ev.tagArrival
  dsimp only
  split
  · exact Ev.sourceReport_stores ..
  · rfl

/-- A marker's arrival reaches the defect record where the level changes and the store is not IDLE (R9, R111). -/
theorem Ev.markerArrival_defect (bit : Bool) : (e.markerArrival n bit).st.defect k
    = if k = n ∧ (e.st.store n).state ≠ .idle ∧ ((e.st.slot n).markerStep bit).1.marker ≠ (e.st.slot n).marker then
        { e.st.defect n with
          marker := ((e.st.slot n).markerStep bit).1.marker
          raw := rawCondition (e.st.lineDefect (lineOfSlot n))
            { e.st.defect n with marker := ((e.st.slot n).markerStep bit).1.marker } }
      else e.st.defect k := by
  have iff := Slot.markerStep_changed bit (e.st.slot n)
  unfold Ev.markerArrival
  dsimp only
  split
  · rename_i changed
    rw [Ev.sourceReport_defect]
    exact if_congr (by simp [iff.mp changed]) rfl rfl
  · rename_i same
    simp [not_not.mp (fun h => same (iff.mpr h))]

/-- A tag's arrival reaches the defect record where TAG_MISMATCH changes and the store is not IDLE (R11, R111). -/
theorem Ev.tagArrival_defect (x : Option Byte) (tag : Byte) : (e.tagArrival n x tag).st.defect k
    = if k = n ∧ (e.st.store n).state ≠ .idle
          ∧ (((e.st.slot n).tagStep tag).mismatchStep x tag).1.mismatch ≠ (e.st.slot n).mismatch then
        { e.st.defect n with
          mismatch := (((e.st.slot n).tagStep tag).mismatchStep x tag).1.mismatch
          raw := rawCondition (e.st.lineDefect (lineOfSlot n))
            { e.st.defect n with mismatch := (((e.st.slot n).tagStep tag).mismatchStep x tag).1.mismatch } }
      else e.st.defect k := by
  have iff := Slot.mismatchStep_changed x tag ((e.st.slot n).tagStep tag)
  rw [Slot.tagStep_mismatch] at iff
  unfold Ev.tagArrival
  dsimp only
  split
  · rename_i changed
    rw [Ev.sourceReport_defect]
    exact if_congr (by simp [iff.mp changed]) rfl rfl
  · rename_i same
    simp [not_not.mp (fun h => same (iff.mpr h))]

end Arrivals

/-! ### One head -/

section Head

variable (base : Nat) (slots : List RxSlot) (n : Nat) (p : Profile) (s : State)

/-- The store of a head after an arrival (R7). -/
def State.headStore : Store := ((s.store n).arrive (arrivalBytes base slots n p.width)).1

/-- A covered slot of a head after an arrival: its history, and at the head the levels and tags (R8 to R11). -/
def State.headSlot (m : Nat) : Slot :=
  if m = n then ((s.slot n).pushed (rxSlot slots (n - base))).arrived (rxSlot slots (n - base)) p.expectedTag
  else (s.slot m).pushed (rxSlot slots (m - base))

/-- The errored events of an arrival at a head (R114). -/
def State.headErrors : Nat :=
  arrivalErrors ((s.store n).arrive (arrivalBytes base slots n p.width)).2 (s.arrivalBad base slots n p.width)

/-- The raw condition of a head once the marker has arrived (R9, R112). -/
def State.headMarked : Cond :=
  if (s.store n).state = .idle ∨ (s.headSlot base slots n p n).marker = (s.slot n).marker then (s.defect n).raw
  else rawCondition (s.lineDefect (lineOfSlot n)) { s.defect n with marker := (s.headSlot base slots n p n).marker }

/-- The defect record of a head after an arrival (R9, R11, R112, R114). -/
def State.headDefect : DefectRec :=
  let new := s.headSlot base slots n p n
  let old := s.slot n
  let idle := (s.store n).state = .idle
  let d : DefectRec := { s.defect n with
    errored := if idle ∨ s.headErrors base slots n p = 0 then (s.defect n).errored
      else min ((s.defect n).errored + s.headErrors base slots n p) 65535
    marker := if idle ∨ new.marker = old.marker then (s.defect n).marker else new.marker
    mismatch := if idle ∨ new.mismatch = old.mismatch then (s.defect n).mismatch else new.mismatch }
  { d with raw := if idle ∨ new.marker = old.marker ∧ new.mismatch = old.mismatch then (s.defect n).raw
      else rawCondition (s.lineDefect (lineOfSlot n)) d }

/-- The bytes and the parity of an arrival at a head (R7, R8). -/
def State.headStored : State :=
  (s.arriveStore n (arrivalBytes base slots n p.width) (s.arrivalBad base slots n p.width)).pushParity n p.width base slots

/-- The work at a head up to the marker (R7 to R9). -/
def Ev.headMarked (e : Ev) : Ev :=
  (e.modify (State.headStored base slots n p)).markerArrival n ((rxSlot slots (n - base)).control.getLsbD 1)

variable (e : Ev)

theorem Ev.headArrival_eq : e.headArrival base slots n p
    = if (rxSlot slots (n - base)).control.getLsbD 0 then e.headMarked base slots n p
      else (e.headMarked base slots n p).tagArrival n p.expectedTag (rxSlot slots (n - base)).overhead := rfl

theorem State.headStored_slot (k : Nat) : (s.headStored base slots n p).slot k
    = if k ∈ coveredSlots n p.width then (s.slot k).pushed (rxSlot slots (k - base)) else s.slot k := by
  unfold State.headStored
  rw [State.pushParity_slot]
  simp only [State.slot, State.arriveStore_slots]

theorem head_mem_coveredSlots (w : Width) : n ∈ coveredSlots n w :=
  mem_coveredSlots.mpr ⟨le_rfl, by have := w.toNat_pos; omega⟩

theorem State.headStored_store (k : Nat) : (s.headStored base slots n p).store k
    = if k = n then s.headStore base slots n p else s.store k := by
  have stores : (s.headStored base slots n p).stores
      = (s.setStore n ((s.store n).arrive (arrivalBytes base slots n p.width)).1).stores :=
    State.arriveStore_stores n _ _ s
  rw [State.store, stores]
  exact State.setStore_store ..

theorem State.headStored_idle : ((s.headStored base slots n p).store n).state = (s.store n).state := by
  rw [State.headStored_store, if_pos rfl]
  exact ((s.store n).arrive_keeps _).1

theorem State.headStored_defect (k : Nat) : (s.headStored base slots n p).defect k
    = if k = n then { s.defect n with
        errored := if (s.store n).state = .idle ∨ s.headErrors base slots n p = 0 then (s.defect n).errored
          else min ((s.defect n).errored + s.headErrors base slots n p) 65535 }
      else s.defect k :=
  State.arriveStore_defect n _ _ s k

theorem State.headStored_lineDefect (l : Nat) : (s.headStored base slots n p).lineDefect l = s.lineDefect l :=
  (congrArg (fun u : State => u.lineDefect l) (State.arriveStore_besideSources n (arrivalBytes base slots n p.width)
    (s.arrivalBad base slots n p.width) s) :)

/-- The stores after an arrival at a head. -/
theorem Ev.headArrival_store (k : Nat) : (e.headArrival base slots n p).st.store k
    = if k = n then e.st.headStore base slots n p else e.st.store k := by
  have marked : (e.headMarked base slots n p).st.stores = (e.st.headStored base slots n p).stores :=
    Ev.markerArrival_stores ..
  rw [← State.headStored_store, Ev.headArrival_eq]
  split
  · rw [State.store, marked]; rfl
  · rw [State.store, Ev.tagArrival_stores, marked]; rfl

/-- The slots after an arrival at a head. -/
theorem Ev.headArrival_slot (k : Nat) : (e.headArrival base slots n p).st.slot k
    = if k ∈ coveredSlots n p.width then e.st.headSlot base slots n p k else e.st.slot k := by
  have marked : ∀ k, (e.headMarked base slots n p).st.slot k = if k = n then
      ((e.st.headStored base slots n p).slot n |>.markerStep ((rxSlot slots (n - base)).control.getLsbD 1)).1
      else (e.st.headStored base slots n p).slot k := fun k => Ev.markerArrival_slot ..
  have own := head_mem_coveredSlots n p.width
  rw [Ev.headArrival_eq]
  unfold State.headSlot Slot.arrived
  by_cases hk : k = n
  · subst k
    split
    · simp [marked, State.headStored_slot, own]
    · simp [Ev.tagArrival_slot, marked, State.headStored_slot, own]
  · split
    · simp [marked, State.headStored_slot, hk]
    · simp [Ev.tagArrival_slot, marked, State.headStored_slot, hk]

/-- The defect records once the marker of an arrival at a head has come. -/
theorem Ev.headMarked_defect (k : Nat) : (e.headMarked base slots n p).st.defect k
    = if k = n then { (e.st.headStored base slots n p).defect n with
        marker := if (e.st.store n).state = .idle ∨ (e.st.headSlot base slots n p n).marker = (e.st.slot n).marker then
          (e.st.defect n).marker else (e.st.headSlot base slots n p n).marker
        raw := e.st.headMarked base slots n p }
      else e.st.defect k := by
  have marker : ((e.st.headStored base slots n p).slot n |>.markerStep ((rxSlot slots (n - base)).control.getLsbD 1)).1.marker
      = (e.st.headSlot base slots n p n).marker := by
    rw [State.headStored_slot, if_pos (head_mem_coveredSlots n p.width), State.headSlot, if_pos rfl, Slot.arrived_marker]
  have before : ((e.st.headStored base slots n p).slot n).marker = (e.st.slot n).marker := by
    rw [State.headStored_slot, if_pos (head_mem_coveredSlots n p.width)]; rfl
  have stored := State.headStored_defect base slots n p e.st
  have raw : rawCondition (e.st.lineDefect (lineOfSlot n))
      { (e.st.headStored base slots n p).defect n with marker := (e.st.headSlot base slots n p n).marker }
      = rawCondition (e.st.lineDefect (lineOfSlot n))
        { e.st.defect n with marker := (e.st.headSlot base slots n p n).marker } := by
    rw [stored, if_pos rfl]; exact rawCondition_congr _ rfl rfl rfl rfl
  refine (Ev.markerArrival_defect n (e.modify (State.headStored base slots n p)) k _).trans ?_
  simp only [Ev.modify_st, marker, before, State.headStored_idle, State.headStored_lineDefect, raw]
  unfold State.headMarked
  by_cases hk : k = n
  · subst k
    by_cases idle : (e.st.store n).state = .idle
    · simp [idle, stored]
    · by_cases same : (e.st.headSlot base slots n p n).marker = (e.st.slot n).marker
      · simp [same, stored]
      · simp [idle, same]
  · simp [hk, stored]

/-- The defect records after an arrival at a head. -/
theorem Ev.headArrival_defect (k : Nat) : (e.headArrival base slots n p).st.defect k
    = if k = n then e.st.headDefect base slots n p else e.st.defect k := by
  have stored := State.headStored_defect base slots n p e.st n
  rw [if_pos rfl] at stored
  have marked := Ev.headMarked_defect base slots n p e
  have slot : (e.headMarked base slots n p).st.slot n
      = (((e.st.slot n).pushed (rxSlot slots (n - base))).markerStep ((rxSlot slots (n - base)).control.getLsbD 1)).1 := by
    refine (Ev.markerArrival_slot n (e.modify (State.headStored base slots n p)) n _).trans ?_
    rw [if_pos rfl, Ev.modify_st, State.headStored_slot, if_pos (head_mem_coveredSlots n p.width)]
  have before : ((e.headMarked base slots n p).st.slot n).mismatch = (e.st.slot n).mismatch := by
    rw [slot, Slot.markerStep_mismatch]; rfl
  have idle : ((e.headMarked base slots n p).st.store n).state = (e.st.store n).state := by
    rw [State.store, Ev.headMarked, Ev.markerArrival_stores]
    exact State.headStored_idle base slots n p e.st
  have line : (e.headMarked base slots n p).st.lineDefect (lineOfSlot n) = e.st.lineDefect (lineOfSlot n) :=
    (congrArg (fun u : State => u.lineDefect (lineOfSlot n)) (Ev.markerArrival_besideSources n _
      (e.modify (State.headStored base slots n p))) :).trans (State.headStored_lineDefect base slots n p e.st _)
  rw [Ev.headArrival_eq]
  by_cases phase : (rxSlot slots (n - base)).control.getLsbD 0 = true
  · have kept : (e.st.headSlot base slots n p n).mismatch = (e.st.slot n).mismatch := by
      simp [State.headSlot, Slot.arrived, phase, Slot.pushed]
    rw [if_pos phase, marked, stored]
    by_cases hk : k = n
    · subst k
      unfold State.headDefect State.headMarked
      by_cases asleep : (e.st.store n).state = .idle
      · simp [asleep]
      · by_cases same : (e.st.headSlot base slots n p n).marker = (e.st.slot n).marker
        · simp [same, kept]
        · simp [asleep, same, kept, rawCondition]
    · simp [hk]
  · have after : ((((e.headMarked base slots n p).st.slot n).tagStep (rxSlot slots (n - base)).overhead).mismatchStep
        p.expectedTag (rxSlot slots (n - base)).overhead).1.mismatch = (e.st.headSlot base slots n p n).mismatch := by
      rw [slot, State.headSlot, if_pos rfl, Slot.arrived, if_neg phase]
    rw [if_neg phase, Ev.tagArrival_defect, after, before, idle, line, marked, marked, stored, if_pos rfl]
    by_cases hk : k = n
    · subst k
      unfold State.headDefect State.headMarked
      by_cases asleep : (e.st.store n).state = .idle
      · simp [asleep]
      · by_cases same : (e.st.headSlot base slots n p n).marker = (e.st.slot n).marker <;>
          by_cases kept : (e.st.headSlot base slots n p n).mismatch = (e.st.slot n).mismatch <;>
          simp [asleep, same, kept, rawCondition]
    · simp [hk]

end Head

end Sys2Proof.Machine
end

section
/-! SUPPORT. An arrival at every source head of a line, head after head (R6 to R11, R113). -/

namespace Sys2Proof.Machine

/-! ### What the work at a head reads -/

/-- Two states agree on what an arrival at a head reads. -/
structure State.SameAt (n : Nat) (w : Width) (s t : State) : Prop where
  store  : t.store n = s.store n
  defect : t.defect n = s.defect n
  slots  : ∀ m ∈ coveredSlots n w, t.slot m = s.slot m
  line   : t.lineDefect (lineOfSlot n) = s.lineDefect (lineOfSlot n)

namespace State.SameAt

variable {n : Nat} {p : Profile} {s t : State} (h : s.SameAt n p.width t) (base : Nat) (slots : List RxSlot)
include h

theorem own : t.slot n = s.slot n := h.slots n (head_mem_coveredSlots n p.width)

theorem headStore : t.headStore base slots n p = s.headStore base slots n p := by
  unfold State.headStore; rw [h.store]

theorem headSlot {m : Nat} (hm : m ∈ coveredSlots n p.width) :
    t.headSlot base slots n p m = s.headSlot base slots n p m := by
  unfold State.headSlot; rw [h.slots m hm, h.own]

theorem headErrors : t.headErrors base slots n p = s.headErrors base slots n p := by
  have histories : (coveredSlots n p.width).map (fun m => (t.slot m).parity)
      = (coveredSlots n p.width).map (fun m => (s.slot m).parity) :=
    List.map_congr_left fun m hm => by rw [h.slots m hm]
  unfold State.headErrors State.arrivalBad
  rw [h.store, histories]

theorem headMarked : t.headMarked base slots n p = s.headMarked base slots n p := by
  unfold State.headMarked
  rw [h.store, h.defect, h.line, h.own, h.headSlot base slots (head_mem_coveredSlots n p.width)]

theorem headDefect : t.headDefect base slots n p = s.headDefect base slots n p := by
  unfold State.headDefect
  rw [h.store, h.defect, h.line, h.own, h.headErrors, h.headSlot base slots (head_mem_coveredSlots n p.width)]

end State.SameAt

/-! ### Heads apart (R71) -/

/-- Under C1 no slot is covered by two heads. -/
theorem coveredSlots_apart {b : Bank}
    (c1 : ∀ h p, b.profile h = some p → ∀ j, 0 < j → j < p.width.toNat → b.profile (h + j) = none) {n m k : Nat}
    {p q : Profile} (hn : b.profile n = some p) (hm : b.profile m = some q) (kn : k ∈ coveredSlots n p.width)
    (km : k ∈ coveredSlots m q.width) : n = m := by
  rw [mem_coveredSlots] at kn km
  have below : ∀ {a c : Nat} {r u : Profile}, b.profile a = some r → b.profile c = some u → c < a + r.width.toNat →
      ¬a < c := fun {a c r u} ha hc reach less => by
    have none := c1 a r ha (c - a) (by omega) (by omega)
    rw [show a + (c - a) = c by omega, hc] at none
    cases none
  have := below hn hm (by omega)
  have := below hm hn (by omega)
  omega

/-- The work of an arrival at one listed head. -/
def Ev.headStep (base : Nat) (slots : List RxSlot) (e : Ev) (n : Nat) : Ev :=
  match e.st.activeBank.profile n with
  | some p => e.headArrival base slots n p
  | none => e

theorem Ev.arrivals_eq (l : Nat) (slots : List RxSlot) (e : Ev) :
    e.arrivals l slots = (e.st.headsOnLine l).foldl (Ev.headStep (firstSlot l) slots) e := rfl

theorem Ev.headStep_eq {base : Nat} {slots : List RxSlot} {e : Ev} {n : Nat} {p : Profile}
    (h : e.st.activeBank.profile n = some p) : e.headStep base slots n = e.headArrival base slots n p := by
  simp [Ev.headStep, h]

theorem Ev.headArrival_activeBank (base : Nat) (slots : List RxSlot) (n : Nat) (p : Profile) (e : Ev) :
    (e.headArrival base slots n p).st.activeBank = e.st.activeBank :=
  (congrArg State.activeBank (Ev.headArrival_besideSources base slots n p e) :)

theorem State.mem_headsOnLine {s : State} {l n : Nat} :
    n ∈ s.headsOnLine l ↔ (∃ p, s.activeBank.profile n = some p) ∧ lineOfSlot n = l := by
  unfold State.headsOnLine State.isHead
  rw [List.mem_filter, Bool.and_eq_true, Option.isSome_iff_exists, beq_iff_eq]
  refine and_iff_right_of_imp fun h => Table.mem_keys_of_get_ne none _ _ fun none => ?_
  obtain ⟨⟨p, hp⟩, -⟩ := h
  rw [Bank.profile, none] at hp
  cases hp

/-! ### Head after head -/

section Heads

variable {b : Bank} (c1 : ∀ h p, b.profile h = some p → ∀ j, 0 < j → j < p.width.toNat → b.profile (h + j) = none)
  (base : Nat) (slots : List RxSlot)
include c1

/-- The work at one head touches nothing that the work at another reads. -/
theorem Ev.headArrival_sameAt {n m : Nat} {p q : Profile} (hn : b.profile n = some p) (hm : b.profile m = some q)
    (other : m ≠ n) (e : Ev) : e.st.SameAt m q.width (e.headArrival base slots n p).st where
  store := (Ev.headArrival_store base slots n p e m).trans (if_neg other)
  defect := (Ev.headArrival_defect base slots n p e m).trans (if_neg other)
  slots k hk := (Ev.headArrival_slot base slots n p e k).trans
    (if_neg fun kn => other (coveredSlots_apart c1 hm hn hk kn))
  line := (congrArg (fun u : State => u.lineDefect (lineOfSlot m)) (Ev.headArrival_besideSources base slots n p e) :)

/-- What the work at some heads leaves: at each its own, and elsewhere nothing. -/
theorem Ev.foldl_headStep (heads : List Nat) (nodup : heads.Nodup) (defined : ∀ n ∈ heads, ∃ p, b.profile n = some p)
    (e : Ev) (bank : e.st.activeBank = b) :
    let t := (heads.foldl (Ev.headStep base slots) e).st
    (∀ n p, n ∈ heads → b.profile n = some p → t.store n = e.st.headStore base slots n p
        ∧ t.defect n = e.st.headDefect base slots n p
        ∧ ∀ m ∈ coveredSlots n p.width, t.slot m = e.st.headSlot base slots n p m)
      ∧ (∀ n, n ∉ heads → t.store n = e.st.store n ∧ t.defect n = e.st.defect n)
      ∧ (∀ m, (∀ n p, n ∈ heads → b.profile n = some p → m ∉ coveredSlots n p.width) → t.slot m = e.st.slot m) := by
  induction heads generalizing e with
  | nil => exact ⟨fun _ _ h => (nomatch h), fun _ _ => ⟨rfl, rfl⟩, fun _ _ => rfl⟩
  | cons n rest ih =>
    obtain ⟨outside, nodup⟩ := List.nodup_cons.mp nodup
    obtain ⟨p, hp⟩ := defined n (List.mem_cons_self ..)
    have store := Ev.headArrival_store base slots n p e
    have defect := Ev.headArrival_defect base slots n p e
    have slot := Ev.headArrival_slot base slots n p e
    obtain ⟨own, stay, uncovered⟩ := ih nodup (fun m hm => defined m (List.mem_cons_of_mem _ hm))
      (e.headArrival base slots n p) ((Ev.headArrival_activeBank base slots n p e).trans bank)
    dsimp only
    rw [List.foldl_cons, Ev.headStep_eq (by rw [bank]; exact hp)]
    refine ⟨fun m q hm hq => ?_, fun m hm => ?_, fun m hm => ?_⟩
    · rcases List.mem_cons.mp hm with rfl | hm
      · obtain rfl : q = p := Option.some.inj (hq.symm.trans hp)
        obtain ⟨storeStays, defectStays⟩ := stay m outside
        refine ⟨by rw [storeStays, store, if_pos rfl], by rw [defectStays, defect, if_pos rfl], fun k hk => ?_⟩
        rw [uncovered k fun n' p' hn' hp' hk' => outside (coveredSlots_apart c1 hq hp' hk hk' ▸ hn'), slot, if_pos hk]
      · have same := Ev.headArrival_sameAt c1 base slots hp hq (fun h => outside (h ▸ hm)) e
        obtain ⟨storeOwn, defectOwn, slotsOwn⟩ := own m q hm hq
        exact ⟨storeOwn.trans (same.headStore base slots), defectOwn.trans (same.headDefect base slots),
          fun k hk => (slotsOwn k hk).trans (same.headSlot base slots hk)⟩
    · obtain ⟨notHead, notRest⟩ := not_or.mp (fun h => hm (List.mem_cons.mpr h))
      obtain ⟨storeStays, defectStays⟩ := stay m notRest
      exact ⟨by rw [storeStays, store, if_neg notHead], by rw [defectStays, defect, if_neg notHead]⟩
    · rw [uncovered m fun n' p' hn' hp' => hm n' p' (List.mem_cons_of_mem _ hn') hp', slot,
        if_neg (hm n p (List.mem_cons_self ..) hp)]

end Heads

/-! ### What the level changes reach (R113) -/

/-- Part of an event that changes the raw condition of one source at most, and lets the change reach all (R113). -/
structure Ev.Reports (n : Nat) (e e' : Ev) : Prop where
  tracks  : ∀ v, e.Tracks v → e'.Tracks (v.event e.st [n] (fun k => (e'.st.defect k).raw))
  wf      : e'.st.groups.wf GroupRec.reset = true
  entries : e.st.SameEntries e'.st

theorem Ev.Tracks.unchanged {e : Ev} {v : Settled} (h : e.Tracks v) (t : State) (sources : List Nat) :
    e.Tracks (v.event t sources (fun k => (e.st.defect k).raw)) := by
  rw [Settled.event_of_unchanged t fun n _ => (h.raw n).symm]
  exact h

section Reports

variable {e : Ev} (wf : e.st.groups.wf GroupRec.reset = true)
include wf

theorem Ev.sourceReport_reports (n : Nat) (f : DefectRec → DefectRec) (hf : ∀ d, (f d).raw = d.raw) :
    e.Reports n (e.sourceReport n f) := by
  unfold Ev.sourceReport
  split
  · obtain ⟨e', he'⟩ : ∃ e', e.modify (fun s => s.setDefect n (f (s.defect n))) = e' := ⟨_, rfl⟩
    have entries : e.st.SameEntries e'.st := he' ▸ ⟨rfl, rfl, fun _ => rfl, fun _ => rfl, fun _ => rfl, rfl⟩
    have wf' : e'.st.groups.wf GroupRec.reset = true := he' ▸ wf
    rw [he']
    refine ⟨fun v h => ?_, (Ev.settleRaw_groups wf' [n]).1, entries.trans (Ev.settleRaw_sameEntries wf' [n])⟩
    have start : e'.Tracks v := by
      rw [← he']
      refine h.modify (fun k => ?_) rfl rfl rfl rfl rfl
      rw [State.setDefect_defect]
      split
      · rename_i hk; rw [hf, hk]
      · rfl
    have settled := start.settleRaw wf' (touched := [n]) (List.nodup_singleton n)
    rw [Settled.event_congr entries, Settled.event_after_congr e.st
      (after' := fun k => ((e'.settleRaw [n]).st.defect k).raw)] at settled
    · exact settled
    · intro k hk
      rw [Ev.settleRaw_defect, if_pos hk]
  · exact ⟨fun v h => h.unchanged _ _, wf, .refl _⟩

/-- A head's slot changes first, and then its level is reported if it has changed. -/
theorem Ev.slotReport_reports (n : Nat) (sl : Slot) (changed : Bool) (f : DefectRec → DefectRec)
    (hf : ∀ d, (f d).raw = d.raw) :
    e.Reports n (if changed then (e.modify (·.setSlot n sl)).sourceReport n f else e.modify (·.setSlot n sl)) := by
  have start : ∀ v, e.Tracks v → (e.modify (·.setSlot n sl)).Tracks v := fun v h =>
    h.modify (fun _ => rfl) rfl rfl rfl rfl rfl
  have entries : e.st.SameEntries (e.modify (·.setSlot n sl)).st :=
    ⟨rfl, rfl, fun _ => rfl, fun _ => rfl, fun _ => rfl, rfl⟩
  split
  · obtain ⟨tracks, wf', reported⟩ := Ev.sourceReport_reports (e := e.modify (·.setSlot n sl)) wf n f hf
    refine ⟨fun v h => ?_, wf', entries.trans reported⟩
    rw [← Settled.event_congr entries]
    exact tracks v (start v h)
  · exact ⟨fun v h => (start v h).unchanged _ _, wf, entries⟩

theorem Ev.markerArrival_reports (n : Nat) (bit : Bool) : e.Reports n (e.markerArrival n bit) :=
  Ev.slotReport_reports wf n _ _ _ fun _ => rfl

theorem Ev.tagArrival_reports (n : Nat) (x : Option Byte) (tag : Byte) : e.Reports n (e.tagArrival n x tag) :=
  Ev.slotReport_reports wf n _ _ _ fun _ => rfl

end Reports

/-- An arrival's bytes touch the stores and the defect records alone. -/
theorem State.arriveStore_rest (n : Nat) (bytes : List Byte) (bad : Bool) (s : State) :
    { s.arriveStore n bytes bad with stores := s.stores, defects := s.defects } = s := by
  have event : ∀ u : State, { u with stores := s.stores, defects := s.defects } = s →
      { u.erroredEvent n with stores := s.stores, defects := s.defects } = s := fun u hu =>
    (congrArg (fun u : State => { u with stores := s.stores, defects := s.defects }) (u.erroredEvent_rest n) :).trans hu
  have stored : { s.setStore n ((s.store n).arrive bytes).1 with stores := s.stores, defects := s.defects } = s := rfl
  unfold State.arriveStore
  dsimp only
  (repeat' split)
  · exact event _ (event _ stored)
  · exact event _ stored
  · exact event _ stored
  · exact stored

/-- What the work at one head settles: the marker's event, and then the tag's (R9, R11, R113). -/
theorem Ev.Tracks.headArrival {e : Ev} {v : Settled} (h : e.Tracks v) (wf : e.st.groups.wf GroupRec.reset = true)
    (base : Nat) (slots : List RxSlot) (n : Nat) (p : Profile) :
    (e.headArrival base slots n p).Tracks
        ((v.event e.st [n] (fun _ => e.st.headMarked base slots n p)).event e.st [n]
          (fun _ => (e.st.headDefect base slots n p).raw))
      ∧ (e.headArrival base slots n p).st.groups.wf GroupRec.reset = true
      ∧ e.st.SameEntries (e.headArrival base slots n p).st := by
  have rest : { e.st.headStored base slots n p with stores := e.st.stores, defects := e.st.defects, slots := e.st.slots }
      = e.st :=
    (congrArg (fun u : State => { u with slots := e.st.slots }) (State.arriveStore_rest n
      (arrivalBytes base slots n p.width) (e.st.arrivalBad base slots n p.width) e.st) :)
  have stored : (e.modify (State.headStored base slots n p)).Tracks v :=
    h.modify (fun k => by rw [State.headStored_defect]; split <;> [(rename_i hk; rw [hk]); rfl])
      (congrArg State.groups rest :) (congrArg State.watches rest :) (congrArg State.patterns rest :)
      (congrArg State.time rest :) (congrArg State.image rest :)
  have entries : e.st.SameEntries (e.modify (State.headStored base slots n p)).st :=
    ⟨(congrArg State.time rest :), (congrArg State.image rest :), fun n => (congrArg (fun u : State => u.isHead n) rest :),
      fun n => (congrArg (fun u : State => (u.watch n).besideLatch) rest :),
      fun n => (congrArg (fun u : State => (u.pattern n).besideLatch) rest :),
      (congrArg (fun u : State => u.groups.keys) rest :)⟩
  have wf0 : (e.modify (State.headStored base slots n p)).st.groups.wf GroupRec.reset = true :=
    (congrArg (fun u : State => u.groups.wf GroupRec.reset) rest :).trans wf
  have marking := Ev.markerArrival_reports wf0 n ((rxSlot slots (n - base)).control.getLsbD 1)
  have marked : (e.headMarked base slots n p).Tracks (v.event e.st [n] (fun _ => e.st.headMarked base slots n p)) := by
    have tracks := marking.tracks v stored
    rw [Settled.event_congr entries, Settled.event_after_congr e.st (after' := fun _ => e.st.headMarked base slots n p)]
      at tracks
    · exact tracks
    · intro k hk
      rw [List.mem_singleton.mp hk]
      refine (congrArg DefectRec.raw (Ev.headMarked_defect base slots n p e n)).trans ?_
      rw [if_pos rfl]
  have final : ∀ k ∈ [n], ((e.headArrival base slots n p).st.defect k).raw = (e.st.headDefect base slots n p).raw := by
    intro k hk
    rw [List.mem_singleton.mp hk, Ev.headArrival_defect, if_pos rfl]
  rw [← Settled.event_after_congr e.st final]
  have between : e.st.SameEntries (e.headMarked base slots n p).st := entries.trans marking.entries
  rw [Ev.headArrival_eq]
  split
  · exact ⟨marked.unchanged _ _, marking.wf, between⟩
  · have tagging := Ev.tagArrival_reports (e := e.headMarked base slots n p) marking.wf n p.expectedTag
      (rxSlot slots (n - base)).overhead
    refine ⟨?_, tagging.wf, between.trans tagging.entries⟩
    rw [← Settled.event_congr between]
    exact tagging.tracks _ marked

end Sys2Proof.Machine
end

section
/-! SUPPORT. INGRESS_ARRIVAL, said of every head of the line (R6 to R11, R113, R114). -/

namespace Sys2Proof.Machine

/-! ### The fields of a head's slot (R8 to R11) -/

section SlotFields

variable (rx : RxSlot) (x : Option Byte) (old : Slot)

theorem Slot.mismatchStep_rest (tag : Byte) (sl : Slot) :
    { (sl.mismatchStep x tag).1 with mismatch := sl.mismatch, mismatchRun := sl.mismatchRun } = sl := by
  unfold Slot.mismatchStep
  split
  · rfl
  · split <;> [rfl; (split <;> rfl)]

theorem Slot.markerStep_rest (bit : Bool) (sl : Slot) :
    { (sl.markerStep bit).1 with marker := sl.marker, markerRun := sl.markerRun } = sl := by
  unfold Slot.markerStep; split <;> [rfl; (split <;> rfl)]

/-- What the marker's arrival makes of level and run (R9). -/
theorem Slot.markerStep_marks (bit : Bool) (sl : Slot) : ((sl.markerStep bit).1.marker, (sl.markerStep bit).1.markerRun)
    = if bit = sl.marker then (sl.marker, 0)
      else if 3 ≤ sl.markerRun + 1 then (bit, 0) else (sl.marker, sl.markerRun + 1) := by
  unfold Slot.markerStep; split <;> [rfl; (split <;> rfl)]

theorem Slot.arrived_marks : ((old.arrived rx x).marker, (old.arrived rx x).markerRun)
    = ((old.markerStep (rx.control.getLsbD 1)).1.marker, (old.markerStep (rx.control.getLsbD 1)).1.markerRun) := by
  have run : (((old.markerStep (rx.control.getLsbD 1)).1.tagStep rx.overhead).mismatchStep x rx.overhead).1.markerRun
      = (old.markerStep (rx.control.getLsbD 1)).1.markerRun :=
    (congrArg Slot.markerRun (Slot.mismatchStep_rest x rx.overhead
      ((old.markerStep (rx.control.getLsbD 1)).1.tagStep rx.overhead)) :)
  rw [Slot.arrived_marker]
  unfold Slot.arrived
  split
  · rfl
  · rw [run]

theorem Slot.arrived_parity : (old.arrived rx x).parity = old.parity := by
  have marked : (old.markerStep (rx.control.getLsbD 1)).1.parity = old.parity :=
    (congrArg Slot.parity (Slot.markerStep_rest (rx.control.getLsbD 1) old) :)
  unfold Slot.arrived
  split
  · exact marked
  · exact (congrArg Slot.parity (Slot.mismatchStep_rest x rx.overhead
      ((old.markerStep (rx.control.getLsbD 1)).1.tagStep rx.overhead)) :).trans marked

/-- A phase-1 frame carries no tag (R10). -/
theorem Slot.arrived_phase1 (phase : rx.control.getLsbD 0 = true) : (old.arrived rx x).candidate = old.candidate
    ∧ (old.arrived rx x).accepted = old.accepted ∧ (old.arrived rx x).mismatch = old.mismatch
    ∧ (old.arrived rx x).mismatchRun = old.mismatchRun := by
  have kept := Slot.markerStep_rest (rx.control.getLsbD 1) old
  rw [Slot.arrived, if_pos phase]
  exact ⟨(congrArg Slot.candidate kept :), (congrArg Slot.accepted kept :), (congrArg Slot.mismatch kept :),
    (congrArg Slot.mismatchRun kept :)⟩

/-- A phase-0 frame's tag against candidate and accepted tag (R10), and against the expected tag (R11). -/
theorem Slot.arrived_phase0 (phase : rx.control.getLsbD 0 = false) :
    let c := candidateAfter rx.overhead old.candidate
    (old.arrived rx x).candidate = some c
      ∧ (old.arrived rx x).accepted = (if 5 ≤ c.run then some rx.overhead else old.accepted)
      ∧ (x = none → (old.arrived rx x).mismatch = old.mismatch ∧ (old.arrived rx x).mismatchRun = old.mismatchRun)
      ∧ ∀ e, x = some e → ((old.arrived rx x).mismatch, (old.arrived rx x).mismatchRun)
        = (if decide (rx.overhead ≠ e) = old.mismatch then (old.mismatch, 0)
          else if 5 ≤ old.mismatchRun + 1 then (decide (rx.overhead ≠ e), 0)
          else (old.mismatch, old.mismatchRun + 1)) := by
  have kept := Slot.markerStep_rest (rx.control.getLsbD 1) old
  have candidate : (old.markerStep (rx.control.getLsbD 1)).1.candidate = old.candidate := (congrArg Slot.candidate kept :)
  have accepted : (old.markerStep (rx.control.getLsbD 1)).1.accepted = old.accepted := (congrArg Slot.accepted kept :)
  have mismatch : (old.markerStep (rx.control.getLsbD 1)).1.mismatch = old.mismatch := (congrArg Slot.mismatch kept :)
  have run : (old.markerStep (rx.control.getLsbD 1)).1.mismatchRun = old.mismatchRun :=
    (congrArg Slot.mismatchRun kept :)
  obtain ⟨m, hm⟩ : ∃ m, (old.markerStep (rx.control.getLsbD 1)).1 = m := ⟨_, rfl⟩
  rw [hm] at candidate accepted mismatch run
  have arrived : old.arrived rx x = ((m.tagStep rx.overhead).mismatchStep x rx.overhead).1 := by
    rw [Slot.arrived, if_neg (by rw [phase]; exact Bool.false_ne_true), hm]
  have rest := Slot.mismatchStep_rest x rx.overhead (m.tagStep rx.overhead)
  rw [arrived]
  refine ⟨?_, ?_, fun none => ?_, fun e some => ?_⟩
  · rw [← candidate]; exact (congrArg Slot.candidate rest :)
  · rw [← candidate, ← accepted]; exact (congrArg Slot.accepted rest :)
  · subst none; exact ⟨mismatch, run⟩
  · subst some
    have differs : (rx.overhead != e) = decide (rx.overhead ≠ e) := by by_cases h : rx.overhead = e <;> simp [h]
    simp only [Slot.mismatchStep, Slot.tagStep, differs, mismatch, run]
    split
    · simp_all
    · rename_i change
      split
      · refine Prod.ext (Bool.eq_not_of_ne ?_).symm rfl
        exact fun h => change h
      · rfl

end SlotFields

/-- R8: when a frame is in parity error. -/
theorem parityError_iff (phase : Bool) (overhead : Byte) (histories : List SlotParity) :
    parityError phase overhead histories = true ↔ phase = true ∧ (∀ q ∈ histories, q.held = 2)
      ∧ overhead ≠ xorBytes (histories.flatMap (fun q => [q.newer, q.older])) := by
  simp [parityError, and_assoc]

/-! ### What the heads settle, one after the other (R113) -/

/-- The events of the heads' level changes, MARKER before TAG_MISMATCH at each (log entry 7). -/
theorem Ev.foldl_headStep_tracks {b : Bank}
    (c1 : ∀ h p, b.profile h = some p → ∀ j, 0 < j → j < p.width.toNat → b.profile (h + j) = none) (base : Nat)
    (slots : List RxSlot) (s : State) (marked after : Nat → Cond) (heads : List Nat) (nodup : heads.Nodup)
    (defined : ∀ n ∈ heads, ∃ p, b.profile n = some p) (e : Ev) (v : Settled) (bank : e.st.activeBank = b)
    (h : e.Tracks v) (wf : e.st.groups.wf GroupRec.reset = true) (entries : s.SameEntries e.st)
    (raws : ∀ n p, n ∈ heads → b.profile n = some p →
      marked n = e.st.headMarked base slots n p ∧ after n = (e.st.headDefect base slots n p).raw) :
    (heads.foldl (Ev.headStep base slots) e).Tracks
        (heads.foldl (fun v n => (v.event s [n] marked).event s [n] after) v)
      ∧ s.SameEntries (heads.foldl (Ev.headStep base slots) e).st := by
  induction heads generalizing e v with
  | nil => exact ⟨h, entries⟩
  | cons n rest ih =>
    obtain ⟨outside, nodup⟩ := List.nodup_cons.mp nodup
    obtain ⟨p, hp⟩ := defined n (List.mem_cons_self ..)
    obtain ⟨tracks, wf', kept⟩ := h.headArrival wf base slots n p
    obtain ⟨hmarked, hafter⟩ := raws n p (List.mem_cons_self ..) hp
    rw [List.foldl_cons, List.foldl_cons, Ev.headStep_eq (by rw [bank]; exact hp)]
    refine ih nodup (fun m hm => defined m (List.mem_cons_of_mem _ hm)) _ _
      ((Ev.headArrival_activeBank base slots n p e).trans bank) ?_ wf' (entries.trans kept) fun m q hm hq => ?_
    · rw [Settled.event_congr entries, Settled.event_congr entries] at tracks
      rw [Settled.event_after_congr s (sources := [n]) (after := marked) (after' := fun _ => e.st.headMarked base slots n p)
          fun k hk => by rw [List.mem_singleton.mp hk, hmarked],
        Settled.event_after_congr s (sources := [n]) (after := after)
          (after' := fun _ => (e.st.headDefect base slots n p).raw)
          fun k hk => by rw [List.mem_singleton.mp hk, hafter]]
      exact tracks
    · have same := Ev.headArrival_sameAt c1 base slots hp hq (fun h => outside (h ▸ hm)) e
      rw [same.headMarked, same.headDefect]
      exact raws m q (List.mem_cons_of_mem _ hm) hq

theorem Ev.offer_sameEntries (e : Ev) : e.st.SameEntries e.offer :=
  .of_monitor e.offer_sameButMonitor (by simp)

theorem State.SameEntries.symm {s t : State} (h : s.SameEntries t) : t.SameEntries s :=
  ⟨h.time.symm, h.image.symm, fun n => (h.heads n).symm, fun n => (h.watches n).symm, fun p => (h.patterns p).symm,
    h.listed.symm⟩

/-- The heads of a line, listed by the profiles of the active bank. -/
theorem State.headsOnLine_eq (s : State) (wf : s.activeBank.profiles.wf none = true) (l : Nat) :
    s.headsOnLine l = s.activeBank.profiles.keys.filter (fun n => lineOfSlot n = l) := by
  refine List.filter_congr fun n hn => ?_
  have head : s.isHead n = true := Option.isSome_iff_ne_none.mpr ((Table.mem_keys none _ wf n).mp hn)
  rw [head, Bool.true_and]
  exact beq_eq_decide _ _

/-! ### The event -/

/-- The errored events of a head's arrival, in the terms of R8 and R114. -/
theorem State.headErrors_eq (base : Nat) (slots : List RxSlot) (n : Nat) (p : Profile) (s : State) {bad : Prop}
    [Decidable bad] (h : s.arrivalBad base slots n p.width = true ↔ bad) : s.headErrors base slots n p
      = (if ((s.store n).arrive (arrivalBytes base slots n p.width)).2 then 1 else 0) + (if bad then 1 else 0) := by
  unfold State.headErrors arrivalErrors
  exact congrArg _ (if_congr h rfl rfl)

theorem execIngressArrival_locked {s : State} {l : LineNo} {slots : List RxSlot} (wf : wellFormedFrame l slots = true)
    (locked : (s.lif l).align = .locked) :
    execIngressArrival l slots s = .next ((Ev.start s).arrivals l slots).offer := by
  unfold execIngressArrival
  rw [wf, if_neg (by decide), if_pos locked]
  rfl

/-- What an arrival leaves beside slots, stores and defect records. -/
theorem ingress_besideSources (l : LineNo) (slots : List RxSlot) (s : State) :
    ((Ev.start s).arrivals l slots).st.besideSources = s.besideSources :=
  Ev.arrivals_keeps (P := fun u => u.besideSources = s.besideSources)
    (fun base slots n p e he => (Ev.headArrival_besideSources base slots n p e).trans he) l slots rfl

/-- The payload positions that an arrival brings to a head, slot by slot (R7). -/
theorem arrivalBytes_eq (base : Nat) (slots : List RxSlot) (n : Nat) (w : Width) : arrivalBytes base slots n w
    = ((List.range w.toNat).flatMap (fun j => (slots.getD (n + j - base) ⟨0, 0, []⟩).payload)).take
      (codeCount (codeTaken (slots.getD (n - base) ⟨0, 0, []⟩).control).1 w) := by
  unfold arrivalBytes coveredSlots rxSlot
  rw [List.flatMap_map]

theorem State.arrivalBad_iff (base : Nat) (slots : List RxSlot) (n : Nat) (w : Width) (s : State) :
    s.arrivalBad base slots n w = true
      ↔ (codeTaken (slots.getD (n - base) ⟨0, 0, []⟩).control).2 = true
        ∨ (slots.getD (n - base) ⟨0, 0, []⟩).control.getLsbD 0 = true
          ∧ (∀ q ∈ (List.range w.toNat).map (fun j => (s.slot (n + j)).parity), q.held = 2)
          ∧ (slots.getD (n - base) ⟨0, 0, []⟩).overhead
            ≠ xorBytes (((List.range w.toNat).map (fun j => (s.slot (n + j)).parity)).flatMap
              (fun q => [q.newer, q.older])) := by
  have histories : (coveredSlots n w).map (fun m => (s.slot m).parity)
      = (List.range w.toNat).map (fun j => (s.slot (n + j)).parity) := by
    unfold coveredSlots; rw [List.map_map]; rfl
  unfold State.arrivalBad rxSlot
  rw [Bool.or_eq_true, parityError_iff, histories]

theorem State.headSlot_parity (base : Nat) (slots : List RxSlot) (n : Nat) (p : Profile) (s : State) (m : Nat) :
    (s.headSlot base slots n p m).parity = (s.slot m).parity.push (xorBytes (rxSlot slots (m - base)).payload) := by
  unfold State.headSlot
  split
  · rename_i head
    rw [Slot.arrived_parity, head]
    rfl
  · rfl

theorem candidateAfter_some (tag : Byte) (k : TagCandidate) :
    candidateAfter tag (some k) = ⟨tag, if k.tag = tag then min (k.run + 1) 5 else 1⟩ := by
  unfold candidateAfter
  dsimp only
  split <;> rfl

section Ingress

variable {s : State} (l : LineNo) (slots : List RxSlot) (wf : s.activeBank.profiles.wf none = true)
  (c1 : ∀ h p, s.activeBank.profile h = some p → ∀ j, 0 < j → j < p.width.toNat → s.activeBank.profile (h + j) = none)
include wf

theorem State.headsOnLine_nodup : (s.headsOnLine l).Nodup := by
  rw [s.headsOnLine_eq wf l]
  exact (Table.keys_nodup none _ wf).filter _

include c1

/-- An arrival leaves at every head of the line what the work at that head alone would leave, and elsewhere nothing. -/
theorem ingress_leaves :
    let t := ((Ev.start s).arrivals l slots).offer
    (∀ n p, s.activeBank.profile n = some p → lineOfSlot n = l → t.store n = s.headStore (firstSlot l) slots n p
        ∧ t.defect n = s.headDefect (firstSlot l) slots n p
        ∧ ∀ m ∈ coveredSlots n p.width, t.slot m = s.headSlot (firstSlot l) slots n p m)
      ∧ (∀ n, (s.activeBank.profile n = none ∨ lineOfSlot n ≠ l) → t.store n = s.store n ∧ t.defect n = s.defect n)
      ∧ ∀ m, (∀ n p, s.activeBank.profile n = some p → lineOfSlot n = l → n ≤ m → n + p.width.toNat ≤ m) →
        t.slot m = s.slot m := by
  obtain ⟨own, stay, uncovered⟩ := Ev.foldl_headStep c1 (firstSlot l) slots _ (State.headsOnLine_nodup l wf)
    (fun n hn => (State.mem_headsOnLine.mp hn).1) (Ev.start s) rfl
  have arrivals := Ev.arrivals_eq l slots (Ev.start s)
  rw [Ev.start_st] at arrivals own stay uncovered
  rw [← arrivals] at own stay uncovered
  have store : ∀ e : Ev, e.offer.store = e.st.store := fun e => funext fun n => by simp [State.store]
  have defect : ∀ e : Ev, e.offer.defect = e.st.defect := fun e => funext fun n => by simp [State.defect]
  have slot : ∀ e : Ev, e.offer.slot = e.st.slot := fun e => funext fun n => by simp [State.slot]
  dsimp only
  rw [store, defect, slot]
  refine ⟨fun n p hp line => own n p (State.mem_headsOnLine.mpr ⟨⟨p, hp⟩, line⟩) hp, fun n hn => ?_, fun m hm => ?_⟩
  · refine stay n fun head => ?_
    obtain ⟨⟨p, hp⟩, line⟩ := State.mem_headsOnLine.mp head
    rcases hn with none | other
    · rw [none] at hp; cases hp
    · exact other line
  · refine uncovered m fun n p hn hp covered => ?_
    obtain ⟨-, line⟩ := State.mem_headsOnLine.mp hn
    rw [mem_coveredSlots] at covered
    have := hm n p hp line covered.1
    omega

/-- What the level changes of an arrival reach, head after head, MARKER before TAG_MISMATCH (log entry 7). -/
theorem ingress_reaches (canonical : s.Canonical) {marked : Nat → Cond}
    (hmarked : ∀ n p, s.activeBank.profile n = some p → lineOfSlot n = l →
      marked n = s.headMarked (firstSlot l) slots n p) :
    let t := ((Ev.start s).arrivals l slots).offer
    s.Reaches t ((s.activeBank.profiles.keys.filter (fun n => lineOfSlot n = l)).foldl
      (fun v n => (v.event t [n] marked).event t [n] (fun m => (t.defect m).raw)) s.settled) [] := by
  obtain ⟨own, -, -⟩ := ingress_leaves l slots wf c1
  obtain ⟨tracks, entries⟩ := Ev.foldl_headStep_tracks c1 (firstSlot l) slots s marked
    (fun n => (((Ev.start s).arrivals l slots).offer.defect n).raw) _ (State.headsOnLine_nodup l wf)
    (fun n hn => (State.mem_headsOnLine.mp hn).1) (Ev.start s) s.settled rfl (Ev.Tracks.start s) canonical.groups (.refl s)
    fun n p hn hp => by
      obtain ⟨-, line⟩ := State.mem_headsOnLine.mp hn
      exact ⟨hmarked n p hp line, congrArg DefectRec.raw (own n p hp line).2.1⟩
  have arrivals := Ev.arrivals_eq l slots (Ev.start s)
  rw [Ev.start_st] at arrivals
  rw [← arrivals] at tracks entries
  have rest : ((Ev.start s).arrivals l slots).st.besideSources = s.besideSources := ingress_besideSources l slots s
  have same : ∀ (v : Settled) sources after, v.event ((Ev.start s).arrivals l slots).offer sources after
      = v.event s sources after := fun v _ _ => Settled.event_congr (entries.trans (Ev.offer_sameEntries _)) _ _ v
  dsimp only
  rw [← s.headsOnLine_eq wf l]
  simp only [same]
  refine tracks.reaches (fun x => ?_) entries.time entries.image
  cases x
  · exact (congrArg State.linkA rest :)
  · exact (congrArg State.linkB rest :)

end Ingress

/-- Settles O35: the heads of a line under C1 cover disjoint slots, so the work at each leaves what it would leave alone. -/
theorem ingressArrivalReachesEveryHead : Obligations.IngressArrivalReachesEveryHead := by
  intro s l slots frame locked wf c1
  obtain ⟨heads, others, uncovered⟩ := ingress_leaves l slots wf c1
  have reaches := ingress_reaches l slots wf c1
  have rest := ingress_besideSources l slots s
  obtain ⟨e, he⟩ : ∃ e, (Ev.start s).arrivals l slots = e := ⟨_, rfl⟩
  have step : execIngressArrival l slots s = .next e.offer := he ▸ execIngressArrival_locked frame locked
  rw [he] at heads others uncovered reaches rest
  refine ⟨e.offer, step, others, uncovered, ?_, ?_, ?_, ?_, ?_, fun canonical => ?_, ?_⟩
  · rw [Ev.offer_lifs]; exact (congrArg State.lifs rest :)
  · rw [Ev.offer_banks]; exact (congrArg State.banks rest :)
  · rw [Ev.offer_time]; exact (congrArg State.time rest :)
  · rw [Ev.offer_holds]; exact (congrArg State.holds rest :)
  · rw [Ev.offer_lineDefects]; exact (congrArg State.lineDefects rest :)
  · refine reaches canonical fun n p hp line => ?_
    obtain ⟨-, -, slotsOwn⟩ := heads n p hp line
    dsimp only
    rw [slotsOwn n (head_mem_coveredSlots n p.width), ← line]
    rfl
  · intro n w x d hp line
    obtain ⟨storeOwn, defectOwn, slotsOwn⟩ := heads n ⟨w, x, d⟩ hp line
    have slotOwn := slotsOwn n (head_mem_coveredSlots n w)
    have own : e.offer.slot n = ((s.slot n).pushed (rxSlot slots (n - firstSlot l))).arrived
        (rxSlot slots (n - firstSlot l)) x := slotOwn.trans (if_pos rfl)
    have errors := State.headErrors_eq (firstSlot l) slots n ⟨w, x, d⟩ s
      (State.arrivalBad_iff (firstSlot l) slots n w s)
    unfold State.headStore at storeOwn
    rw [arrivalBytes_eq] at errors storeOwn
    refine ⟨?_, ?_, fun j hj => ?_, ?_, fun phase => ?_, fun phase => ?_, ?_, ?_, ?_, ?_, ?_⟩
    · generalize (codeTaken (slots.getD (n - firstSlot l) ⟨0, 0, []⟩).control).1 = code at storeOwn ⊢
      cases code <;> exact storeOwn
    · generalize (codeTaken (slots.getD (n - firstSlot l) ⟨0, 0, []⟩).control).1 = code at errors ⊢
      cases code
      all_goals exact (congrArg DefectRec.errored defectOwn).trans (congrArg (fun k =>
        if (s.store n).state = .idle ∨ k = 0 then (s.defect n).errored else min ((s.defect n).errored + k) 65535) errors)
    · rw [slotsOwn (n + j) (mem_coveredSlots.mpr ⟨Nat.le_add_right n j, Nat.add_lt_add_left hj n⟩),
        State.headSlot_parity]
      rfl
    · rw [own, Slot.arrived_marks, Slot.markerStep_marks]; rfl
    · rw [own]; exact Slot.arrived_phase1 _ x _ phase
    · obtain ⟨candidate, accepted, unexpected, expected⟩ := Slot.arrived_phase0 (rxSlot slots (n - firstSlot l)) x
        ((s.slot n).pushed (rxSlot slots (n - firstSlot l))) phase
      rw [own]
      refine ⟨candidate.trans ?_, accepted.trans ?_, unexpected, expected⟩
      all_goals
        unfold Slot.pushed
        cases (s.slot n).candidate with
        | none => rfl
        | some k => rw [candidateAfter_some]; rfl
    · rw [defectOwn, slotOwn]; rfl
    · rw [defectOwn, slotOwn]; rfl
    · rw [defectOwn]; rfl
    · rw [defectOwn]; rfl
    · rw [defectOwn, slotOwn, ← line]; rfl

end Sys2Proof.Machine
end

section
/-! SUPPORT. What an arrival and a decision leave of an elastic store, in the terms of R22 to R33. -/

namespace Sys2Proof.Machine

/-! ### Arrivals (R22 to R24) -/

/-- Settles O36: an arrival is one of its three cases, which exclude each other; the bytes that an overflow keeps are the
newer half of a full store. -/
theorem arrivalsFillTheStore : Obligations.ArrivalsFillTheStore := by
  intro st bs
  rcases st.arrive_cases bs with ⟨idle, discarded⟩ | ⟨busy, fits, appended⟩ | ⟨busy, overflows, kept⟩
  · exact ⟨fun _ => discarded, fun h => absurd idle h, fun h => absurd idle h⟩
  · exact ⟨fun h => absurd h busy, fun _ _ => appended, fun _ h => absurd fits (Nat.not_le.mpr h)⟩
  · refine ⟨fun h => absurd h busy, fun _ h => absurd overflows (Nat.not_lt.mpr h), fun _ _ => ?_⟩
    have full : ((st.bytes ++ bs).take (256 * st.w)).length = 256 * st.w := by
      rw [List.length_take, List.length_append]; omega
    refine ⟨_, ?_, ⟨((st.bytes ++ bs).take (256 * st.w)).take (128 * st.w), ?_, List.take_append_drop _ _⟩, kept⟩
    · rw [List.length_drop, full]; omega
    · rw [List.length_take, full]; omega

/-! ### Decisions (R25 to R33) -/

/-- R28: the clamp of the integrator, case by case. -/
theorem clampIntegrator_eq (i : Int) :
    clampIntegrator i = if i < -4095 then -4095 else if 4095 < i then 4095 else i := by
  unfold clampIntegrator
  split
  · omega
  · split <;> omega

/-- The width of a store in base slots. -/
theorem Store.w_of_width {st : Store} {w : Width} (h : st.width = some w) : st.w = w.toNat := by
  unfold Store.w; rw [h]

/-- A store whose decision has been counted (R33). -/
def Store.counted (code : TakeCode) (st : Store) : Store :=
  { st with
    lastCode := code
    advances := st.advances + (if code = .advance then 1 else 0)
    retards := st.retards + (if code = .retard then 1 else 0) }

/-- A RUNNING decision: a take that the fill covers is removed, and after one that it does not cover the store primes
empty, with filler in the take for what was missing (R30 to R32). -/
theorem Store.decideRunning_eq {j : Nat} {st : Store} {d : TakeCode × Int} {t : Nat}
    (hd : justify j st.w st.bytes.length st.integrator = d) (ht : takeCount d.1 st.w = t) :
    st.decideRunning j = if t ≤ st.bytes.length then
        ({ st.counted d.1 with state := .running, integrator := d.2, bytes := st.bytes.drop t },
          ⟨d.1, st.bytes.take t, false⟩, false)
      else
        ({ st.counted d.1 with
            state := .priming, integrator := 0, bytes := [], slips := min (st.slips + 1) 255, complete := false },
          ⟨d.1, st.bytes ++ List.replicate (t - st.bytes.length) 0x00#8, false⟩, true) := by
  have hd : justify j st.w st.fill st.integrator = d := hd
  obtain ⟨code, i⟩ := d
  subst t
  unfold Store.decideRunning
  rw [hd]
  cases code <;> rfl

/-- A PRIMING store below its centre takes nothing (R26). -/
theorem Store.decide_priming {j : Nat} {st : Store} (h : st.state = .priming) (low : st.bytes.length < 128 * st.w) :
    st.decide j = ({ st with lastCode := .nominal }, some ⟨.nominal, [], true⟩, false) := by
  unfold Store.decide
  rw [h]
  exact if_pos low

/-- A store as its RUNNING decision begins: one that leaves PRIMING begins with the integrator at 0 (R26). -/
def Store.begun (st : Store) : Store :=
  { st with state := .running, integrator := if st.state = .running then st.integrator else 0 }

/-- A RUNNING store, and a PRIMING store that has reached its centre, make a RUNNING decision (R25, R26). -/
theorem Store.decide_running {j : Nat} {st : Store}
    (h : st.state = .running ∨ (st.state = .priming ∧ 128 * st.w ≤ st.bytes.length)) :
    st.decide j = ((st.begun.decideRunning j).1, some (st.begun.decideRunning j).2.1, (st.begun.decideRunning j).2.2) := by
  cases st
  rcases h with running | ⟨priming, centre⟩
  · cases running; rfl
  · cases priming; exact if_neg (Nat.not_lt.mpr centre)

/-- Settles O37: a PRIMING store below its centre waits; every other that is not IDLE makes a RUNNING decision, which its
fill covers or does not. -/
theorem storeDecisions : Obligations.StoreDecisions := by
  intro st w j width
  have hw : st.w = w.toNat := Store.w_of_width width
  have begun : st.begun.w = w.toNat := hw
  refine ⟨fun priming low => Store.decide_priming priming (by rwa [hw]), fun runs => ?_⟩
  intro i raw sum d t counted
  have hd : justify j st.begun.w st.begun.bytes.length st.begun.integrator = d := by
    simp only [justify, clampIntegrator_eq, begun]
    rfl
  have ht : takeCount d.1 st.begun.w = t := by
    rw [begun]
    cases h : d.1 <;> simp only [t, h] <;> rfl
  rw [Store.decide_running (by rwa [hw]), Store.decideRunning_eq hd ht]
  refine ⟨fun covered => ?_, fun short => ?_⟩
  · rw [if_pos (by exact covered)]; rfl
  · rw [if_neg (by exact Nat.not_le.mpr short)]; rfl

end Sys2Proof.Machine
end

section
/-! SUPPORT. What the restart of windows and the adoption of a boundary hand the records of every source (R11, R12, R36 to
R38, R43, R49, R91, R116), in the terms of `State.storeNext`, `State.rateNext`, `State.slotNext` and `State.defectNext`. -/

namespace Sys2Proof.Machine

/-! ### Instructions (R90) -/

/-- The instruction that the next boundary's adoption gives a source, in the terms of R90. -/
theorem State.storeOrder_eq (s : State) (n : Nat) :
    storeOrder s.activeBank s.bankNext n = if s.startsAnew n then .startAnew else if s.entersIdle n then .enterIdle
      else if n ∈ s.bankNext.referenced then .keep else .nothing := by
  unfold storeOrder State.startsAnew State.entersIdle
  by_cases old : n ∈ s.activeBank.referenced <;> by_cases new : n ∈ s.bankNext.referenced <;> simp [old, new]

theorem State.storeOrder_startAnew {s : State} {n : Nat} (h : s.startsAnew n) :
    storeOrder s.activeBank s.bankNext n = .startAnew := by
  rw [s.storeOrder_eq, if_pos h]

theorem State.storeOrder_enterIdle {s : State} {n : Nat} (h : s.entersIdle n) :
    storeOrder s.activeBank s.bankNext n = .enterIdle := by
  rw [s.storeOrder_eq, if_neg (fun k => h.1 k.1), if_pos h]

theorem State.storeOrder_kept {s : State} {n : Nat} (a : ¬s.startsAnew n) (i : ¬s.entersIdle n) :
    storeOrder s.activeBank s.bankNext n = if n ∈ s.bankNext.referenced then .keep else .nothing := by
  rw [s.storeOrder_eq, if_neg a, if_neg i]

/-- A source is told to change exactly if it starts anew or enters IDLE. -/
theorem State.storeOrder_changes (s : State) (n : Nat) :
    (storeOrder s.activeBank s.bankNext n).changes = true ↔ s.startsAnew n ∨ s.entersIdle n := by
  by_cases a : s.startsAnew n
  · simpa [State.storeOrder_startAnew a, StoreOrder.changes] using .inl a
  · by_cases i : s.entersIdle n
    · simpa [State.storeOrder_enterIdle i, StoreOrder.changes] using .inr i
    · rw [State.storeOrder_kept a i]
      split <;> simp [a, i, StoreOrder.changes]

theorem State.bankNext_of_some {s : State} {p : PendingActivation} (h : s.pendingAct = some p) :
    s.bankNext = s.bank p.bank := by
  unfold State.bankNext; rw [h]

/-! ### The records after an adoption, where no windows restart -/

section Adoption

variable {s : State} {p : PendingActivation} (pending : s.pendingAct = some p)
include pending

/-- A store that has obeyed its instruction is the one that decides (R36 to R38). -/
theorem State.adopted_storeNext (k : s.rate.pendingK = none) (n : Nat) : (s.adopted p).store n = s.storeNext n := by
  rw [State.adopted_store, ← State.bankNext_of_some pending]
  unfold State.storeNext
  split
  · rename_i anew; rw [State.storeOrder_startAnew anew]; rfl
  · rename_i anew
    split
    · rename_i idle; rw [State.storeOrder_enterIdle idle]; rfl
    · rename_i idle
      exact Store.obey_of_not_changes (by rw [← Bool.not_eq_true, State.storeOrder_changes]; tauto) _ _

/-- The rate record of a source after an adoption: it has obeyed its instruction (R43, R47). -/
theorem State.adopted_rateOf (n : Nat) :
    (s.adopted p).rateOf n = (s.rateOf n).obey (storeOrder s.activeBank s.bankNext n) := by
  have rates : (s.adopted p).rates
      = ((s.makeActive p.bank).adoptSources s.activeBank (s.bank p.bank)).rates :=
    (congrArg State.rates (State.storeRaw_rest _ _) :)
  rw [State.rateOf, rates, State.bankNext_of_some pending]
  refine (Table.get_update RateRec.reset s.rates (adoptionSources s.activeBank (s.bank p.bank)) _ n).trans ?_
  split
  · rfl
  · rename_i h
    rw [storeOrder_of_not_mem h]; rfl

/-- A rate record that has obeyed its instruction is the one that the boundary hands on (R43, R47). -/
theorem State.adopted_rateNext (k : s.rate.pendingK = none) (n : Nat) : (s.adopted p).rateOf n = s.rateNext n := by
  rw [State.adopted_rateOf pending]
  unfold State.rateNext
  split
  · rename_i anew; rw [State.storeOrder_startAnew anew]; rfl
  · rename_i anew
    split
    · rename_i idle; rw [State.storeOrder_enterIdle idle]; rfl
    · rename_i idle
      rw [State.storeOrder_kept anew idle]
      split <;> rfl

/-- The marker and tag state of a slot after an adoption, in the terms of R11 and R12. -/
theorem State.slotNext_of_some (n : Nat) : s.slotNext n = (s.slot n).adopt s.activeBank s.bankNext n := by
  have afresh : headAfresh s.activeBank s.bankNext n = true ↔ s.startsAfresh n := by
    unfold headAfresh State.startsAfresh
    rw [Bool.or_eq_true, State.storeOrder_changes, or_assoc, Bool.and_eq_true, Option.isSome_iff_ne_none, bne_iff_ne]
  unfold State.slotNext Slot.adopt
  rw [if_neg (by rw [pending]; exact Option.some_ne_none _)]
  refine if_congr afresh.symm rfl ?_
  unfold Bank.expectedTag Slot.newExpectation
  cases s.bankNext.profile n with
  | none => rfl
  | some q =>
    refine Eq.trans ?_ (if_pos rfl).symm
    cases h : q.expectedTag <;> simp [h]

end Adoption

/-- An adoption gives every slot its marker and tag state (R11, R12); parity histories are apart. -/
theorem State.adoptSlots_slot (old new : Bank) (s : State) (n : Nat) :
    { (s.adoptSlots old new).slot n with parity := (s.slot n).parity } = (s.slot n).adopt old new n := by
  have outside (h : n ∉ adoptionHeads old new) : (s.slot n).adopt old new n = s.slot n := by
    have sources : n ∉ adoptionSources old new := fun k => h (by simp [adoptionHeads, mem_sortedUnique, k])
    have undefined : new.profile n = none := by
      by_contra k
      exact h (by simp [adoptionHeads, mem_sortedUnique, Table.mem_keys_of_get_ne none new.profiles n k])
    simp [Slot.adopt, headAfresh, storeOrder_of_not_mem sources, StoreOrder.changes, undefined]
  have marked : ((s.slots.update Slot.reset (adoptionHeads old new) (fun n sl => sl.adopt old new n)).get Slot.reset n)
      = (s.slot n).adopt old new n := by
    rw [Table.get_update]
    split
    · rfl
    · exact (outside ‹_›).symm
  have parity : ((s.slot n).adopt old new n).parity = (s.slot n).parity := by
    unfold Slot.adopt Slot.newExpectation
    (repeat' split) <;> rfl
  unfold State.adoptSlots State.slot
  dsimp only
  rw [Table.get_update, marked, ← State.slot, ← parity]
  split <;> rfl

/-! ### Defect records after an adoption, where no windows restart (R91) -/

/-- The next boundary's adoption changes the defect levels of a source: the source starts anew or enters IDLE, or it is kept
and loses a mismatch that its new expected tag ends (R11, R91). -/
def State.adoptionTouches (s : State) (n : Nat) : Prop :=
  s.startsAnew n ∨ s.entersIdle n
    ∨ n ∈ s.bankNext.referenced ∧ (s.slot n).mismatch = true ∧ (s.slotNext n).mismatch = false

/-- The state in which every block has its instructions and no raw condition has been derived yet (R90, R91). -/
def State.instructed (p : PendingActivation) (s : State) : State :=
  (s.makeActive p.bank).adoptSources s.activeBank (s.bank p.bank)

theorem State.adopted_eq (p : PendingActivation) (s : State) : s.adopted p = (s.instructed p).storeRaw
    ((s.instructed p).rawChanges (adoptionTouched s.activeBank (s.bank p.bank) s (s.instructed p))) := rfl

theorem State.instructed_store (p : PendingActivation) (s : State) (n : Nat) :
    (s.instructed p).store n = (s.adopted p).store n := by
  simp only [State.store, State.adopted_eq, State.storeRaw_stores]

/-- The raw condition derived of a source by the levels and the store that its instruction leaves (R112). -/
theorem State.instructed_derivedRaw (p : PendingActivation) (s : State) (n : Nat) : (s.instructed p).derivedRaw n =
    if ((s.adopted p).store n).state = .idle then .ok
    else rawCondition (s.lineDefect (lineOfSlot n)) ((s.instructed p).defect n) := by
  rw [State.derivedRaw, State.instructed_store]
  rfl

section Defects

variable {s : State} {p : PendingActivation} (pending : s.pendingAct = some p)
include pending

/-- The mismatch level of a slot once the LIFs have been told (R11, R12). -/
theorem State.adoptSlots_mismatch (n : Nat) :
    ((s.adoptSlots s.activeBank s.bankNext).slot n).mismatch = (s.slotNext n).mismatch := by
  rw [State.slotNext_of_some pending]
  exact (congrArg Slot.mismatch (State.adoptSlots_slot s.activeBank s.bankNext s n) :)

/-- The defect record of a source is touched by exactly the instructions that `State.adoptionTouches` names (R90, R91). -/
theorem State.mem_adoptionTouched (n : Nat) :
    n ∈ adoptionTouched s.activeBank s.bankNext s (s.adoptSlots s.activeBank s.bankNext) ↔ s.adoptionTouches n := by
  have cleared : mismatchCleared s (s.adoptSlots s.activeBank s.bankNext) n = true
      ↔ (s.slot n).mismatch = true ∧ (s.slotNext n).mismatch = false := by
    rw [mismatchCleared, State.adoptSlots_mismatch pending, Bool.and_eq_true, Bool.not_eq_true']
  unfold State.adoptionTouches
  unfold adoptionTouched
  rw [List.mem_filter, mem_adoptionSources, Bool.or_eq_true, State.storeOrder_changes, Bool.and_eq_true, cleared,
    beq_iff_eq]
  by_cases anew : s.startsAnew n
  · exact iff_of_true ⟨.inr anew.1, .inl (.inl anew)⟩ (.inl anew)
  · by_cases idle : s.entersIdle n
    · exact iff_of_true ⟨.inl idle.2, .inl (.inr idle)⟩ (.inr (.inl idle))
    · rw [State.storeOrder_kept anew idle]
      by_cases kept : n ∈ s.bankNext.referenced
      · rw [if_pos kept]; tauto
      · rw [if_neg kept]; tauto

theorem State.mem_touched_instructed (n : Nat) :
    n ∈ adoptionTouched s.activeBank (s.bank p.bank) s (s.instructed p) ↔ s.adoptionTouches n := by
  rw [← State.mem_adoptionTouched pending, State.bankNext_of_some pending]
  rfl

/-- A touched source has its defect levels set (R91). -/
theorem State.instructed_defect {n : Nat} (h : s.adoptionTouches n) : (s.instructed p).defect n
    = (s.defect n).adopt (storeOrder s.activeBank s.bankNext n) (s.slotNext n).mismatch := by
  rw [← State.mem_adoptionTouched pending] at h
  rw [← State.adoptSlots_mismatch pending]
  rw [State.bankNext_of_some pending] at h ⊢
  exact (Table.get_update DefectRec.reset s.defects _ _ n).trans (if_pos h)

/-- The raw condition of a touched source is derived (R113). -/
theorem State.adopted_defect_of_touched {n : Nat} (h : s.adoptionTouches n) :
    (s.adopted p).defect n = { (s.instructed p).defect n with raw := (s.instructed p).derivedRaw n } := by
  rw [State.adopted_eq, State.storeRaw_rawChanges_defect, if_pos ((State.mem_touched_instructed pending n).mpr h)]

theorem State.adopted_defect_of_untouched {n : Nat} (h : ¬s.adoptionTouches n) :
    (s.adopted p).defect n = s.defect n := by
  rw [State.adopted_eq, State.storeRaw_rawChanges_defect, if_neg (mt (State.mem_touched_instructed pending n).mp h)]
  rw [← State.mem_touched_instructed pending] at h
  exact (Table.get_update DefectRec.reset s.defects _ _ n).trans (if_neg h)

/-- The defect record after an adoption is the one that the decisions find (R91, R112). -/
theorem State.adopted_defectNext (k : s.rate.pendingK = none) (n : Nat) :
    (s.adopted p).defect n = s.defectNext n := by
  unfold State.defectNext
  dsimp only
  by_cases touched : s.adoptionTouches n
  · rw [State.adopted_defect_of_touched pending touched, State.instructed_derivedRaw,
      State.adopted_storeNext pending k, State.instructed_defect pending touched, if_pos k]
    unfold State.storeNext
    by_cases anew : s.startsAnew n
    · rw [State.storeOrder_startAnew anew, if_pos anew, if_pos anew]
      simp [DefectRec.adopt, StoreOrder.changes, rawCondition]
    · by_cases idle : s.entersIdle n
      · rw [State.storeOrder_enterIdle idle, if_neg anew, if_pos idle, if_neg anew, if_pos idle]
        rfl
      · have kept := (touched.resolve_left anew).resolve_left idle
        obtain ⟨referenced, -, cleared⟩ := id kept
        rw [State.storeOrder_kept anew idle, if_pos referenced, if_neg anew, if_neg idle, if_neg anew, if_neg idle,
          if_pos kept, if_pos k, cleared]
        rfl
  · rw [State.adopted_defect_of_untouched pending touched, if_pos k]
    rw [State.adoptionTouches, not_or, not_or] at touched
    obtain ⟨notAnew, notIdle, keepsLevels⟩ := touched
    rw [if_neg notAnew, if_neg notIdle, if_neg keepsLevels]

end Defects

/-! ### A restart of windows before the adoption (R49, R116) -/

theorem State.applyExponent_store (s : State) (n : Nat) :
    s.applyExponent.store n = if s.rate.pendingK = none then s.store n else (s.store n).restartWindow := by
  unfold State.applyExponent
  cases s.rate.pendingK with
  | none => rfl
  | some k => exact State.restartWindows_store k s n

theorem State.applyExponent_rateOf (s : State) (n : Nat) : s.applyExponent.rateOf n
    = if s.rate.pendingK = none then s.rateOf n else { s.rateOf n with newInWindow := false } := by
  unfold State.applyExponent
  cases s.rate.pendingK with
  | none => rfl
  | some k => exact Table.get_mapAll RateRec.reset s.rates (fun _ r => { r with newInWindow := false }) (fun _ => rfl) n

theorem State.applyExponent_defect (s : State) (n : Nat) : s.applyExponent.defect n
    = if s.rate.pendingK = none then s.defect n else { s.defect n with errored := 0 } := by
  unfold State.applyExponent
  cases s.rate.pendingK with
  | none => rfl
  | some k => exact State.restartWindows_defect k s n

theorem State.applyExponent_pendingK (s : State) : s.applyExponent.rate.pendingK = none := by
  unfold State.applyExponent
  split
  · rfl
  · assumption

/-- A restart of windows leaves the banks, the slots and the lines: what an adoption's instructions are read from. -/
theorem State.applyExponent_rest (s : State) : { s.applyExponent with
    rate := s.rate, stores := s.stores, rates := s.rates, defects := s.defects } = s := by
  unfold State.applyExponent
  split <;> rfl

section Exponent

variable (s : State) (n : Nat)

theorem State.applyExponent_pendingAct : s.applyExponent.pendingAct = s.pendingAct :=
  (congrArg State.pendingAct s.applyExponent_rest :)
theorem State.applyExponent_bankNext : s.applyExponent.bankNext = s.bankNext :=
  (congrArg State.bankNext s.applyExponent_rest :)
theorem State.applyExponent_activeBank : s.applyExponent.activeBank = s.activeBank :=
  (congrArg State.activeBank s.applyExponent_rest :)
theorem State.applyExponent_slot : s.applyExponent.slot n = s.slot n :=
  (congrArg (fun u : State => u.slot n) s.applyExponent_rest :)
theorem State.applyExponent_slotNext : s.applyExponent.slotNext n = s.slotNext n :=
  (congrArg (fun u : State => u.slotNext n) s.applyExponent_rest :)
theorem State.applyExponent_lineDefect (l : Nat) : s.applyExponent.lineDefect l = s.lineDefect l :=
  (congrArg (fun u : State => u.lineDefect l) s.applyExponent_rest :)

/-- The restart of windows comes first: what it hands the adoption is already part of what the boundary hands on. -/
theorem State.applyExponent_storeNext : s.applyExponent.storeNext n = s.storeNext n := by
  simp only [State.storeNext, State.startsAnew, State.entersIdle, State.applyExponent_bankNext,
    State.applyExponent_activeBank, State.applyExponent_pendingK, State.applyExponent_store, if_true]
  rfl

theorem State.applyExponent_rateNext : s.applyExponent.rateNext n = s.rateNext n := by
  simp only [State.rateNext, State.startsAnew, State.entersIdle, State.applyExponent_bankNext,
    State.applyExponent_activeBank, State.applyExponent_pendingK, State.applyExponent_rateOf, if_true]

theorem State.applyExponent_defectNext : s.applyExponent.defectNext n = s.defectNext n := by
  have idle : (s.applyExponent.store n).state = (s.store n).state := by
    rw [State.applyExponent_store]; split <;> rfl
  simp only [State.defectNext, State.startsAnew, State.entersIdle, State.applyExponent_bankNext,
    State.applyExponent_activeBank, State.applyExponent_pendingK, State.applyExponent_defect, if_true,
    State.applyExponent_lineDefect, State.applyExponent_slot, State.applyExponent_slotNext, idle]

end Exponent

end Sys2Proof.Machine
end

section
/-! SUPPORT. The decisions of all stores at a boundary (R25, R31), and what a boundary that is no window end leaves of every
source. -/

namespace Sys2Proof.Machine

/-! ### Decisions -/

section Decision

variable (s : State) (k n : Nat)

theorem State.decideStore_rate : (s.decideStore k).rate = s.rate := by
  rcases s.decideStore_eq k with h | h <;> rw [h]
  · rfl
  · exact (congrArg State.rate (State.erroredEvent_rest _ _) :)

theorem State.decideStore_store :
    (s.decideStore k).store n = if n = k then ((s.store n).decide s.rate.j).1 else s.store n := by
  have stores : (s.decideStore k).stores = (s.setStore k ((s.store k).decide s.rate.j).1).stores := by
    rcases s.decideStore_eq k with h | h <;> rw [h]
    exact State.erroredEvent_stores _ _
  rw [State.store, stores]
  refine (State.setStore_store s k _ n).trans ?_
  split
  · subst n; rfl
  · rfl

/-- An underflow is an errored event against its source, since a store that underflows is not IDLE (R31, R111). -/
theorem State.decideStore_defect : (s.decideStore k).defect n
    = if n = k ∧ ((s.store n).decide s.rate.j).2.2 = true then (s.defect n).countError else s.defect n := by
  unfold State.decideStore
  dsimp only
  by_cases underflow : ((s.store k).decide s.rate.j).2.2 = true
  · have busy : ((s.store k).decide s.rate.j).1.state ≠ .idle := by
      rw [Ne, ((s.store k).decide_keeps s.rate.j).2]
      intro idle
      rw [Store.decide_idle _ _ idle] at underflow
      cases underflow
    rw [if_pos underflow, State.erroredEvent_defect]
    by_cases hn : n = k
    · subst n; simp [busy, underflow]
    · simp [hn]
  · rw [if_neg underflow]
    by_cases hn : n = k
    · subst n; simp [underflow]
    · simp [hn]

end Decision

/-- Stores decide each for itself: a list of them, each named once, decides in any order alike (R25). -/
theorem State.foldl_decideStore {ks : List Nat} (nodup : ks.Nodup) (s : State) (n : Nat) :
    (ks.foldl State.decideStore s).store n = (if n ∈ ks then ((s.store n).decide s.rate.j).1 else s.store n)
      ∧ (ks.foldl State.decideStore s).defect n
        = if n ∈ ks ∧ ((s.store n).decide s.rate.j).2.2 = true then (s.defect n).countError else s.defect n := by
  induction ks generalizing s with
  | nil => simp
  | cons k rest ih =>
    obtain ⟨fresh, nodup⟩ := List.nodup_cons.mp nodup
    obtain ⟨store, defect⟩ := ih nodup (s.decideStore k)
    rw [List.foldl_cons, store, defect, State.decideStore_rate, State.decideStore_store, State.decideStore_defect]
    by_cases hn : n = k
    · subst n; simp [fresh]
    · simp [hn]

/-- Every store decides at a boundary; an IDLE store's decision is none (R25), and an underflow is an errored event (R31). -/
theorem State.decideStores_records {s : State} (h : s.stores.wf Store.reset = true) (n : Nat) :
    s.decideStores.store n = ((s.store n).decide s.rate.j).1
      ∧ s.decideStores.defect n
        = (if ((s.store n).decide s.rate.j).2.2 = true then (s.defect n).countError else s.defect n)
      ∧ s.decideStores.rateOf n = s.rateOf n := by
  have nodup : s.deciding.Nodup := (Table.keys_nodup Store.reset s.stores h).filter _
  obtain ⟨store, defect⟩ := State.foldl_decideStore nodup s n
  rw [← State.decideStores] at store defect
  rw [store, defect]
  refine and_assoc.mp ⟨?_, (congrArg (fun u : State => u.rateOf n) s.decideStores_rest :)⟩
  by_cases idle : (s.store n).state = .idle
  · simp [Store.decide_idle _ _ idle]
  · have mem : n ∈ s.deciding := List.mem_filter.mpr ⟨State.mem_stores_keys idle, State.referencedNow_iff.mpr idle⟩
    simp [mem]

/-! ### The records of sources through a boundary -/

/-- Two states hold the same records of slots, stores, rates and defects. -/
structure State.SameSources (s t : State) : Prop where
  slots   : t.slots = s.slots
  stores  : t.stores = s.stores
  rates   : t.rates = s.rates
  defects : t.defects = s.defects

namespace State.SameSources

theorem trans {s t u : State} (h : s.SameSources t) (k : t.SameSources u) : s.SameSources u :=
  ⟨k.slots.trans h.slots, k.stores.trans h.stores, k.rates.trans h.rates, k.defects.trans h.defects⟩

theorem of_quiet {e e' : Ev} (q : e.Quiet e') : e.st.SameSources e'.st := ⟨q.slots, q.stores, q.rates, q.defects⟩

theorem of_links {s t : State} (h : s.SameButLinks t) : s.SameSources t where
  slots := by rw [← h.rest]
  stores := by rw [← h.rest]
  rates := by rw [← h.rest]
  defects := by rw [← h.rest]

variable {s t : State} (h : s.SameSources t) (n : Nat)
include h

theorem store : t.store n = s.store n := by rw [State.store, h.stores]; rfl
theorem rateOf : t.rateOf n = s.rateOf n := by rw [State.rateOf, h.rates]; rfl
theorem defect : t.defect n = s.defect n := by rw [State.defect, h.defects]; rfl

end State.SameSources

theorem State.finishStartUp_sources (s : State) : s.SameSources s.finishStartUp := by
  unfold State.finishStartUp
  dsimp only
  split <;> exact ⟨rfl, rfl, rfl, rfl⟩

/-- Of an adoption, the blocks' instructions alone reach the records of sources (R90 to R92). -/
theorem Ev.adopt_sources (p : PendingActivation) (e : Ev) : (e.st.adopted p).SameSources (e.adopt p).st := by
  obtain ⟨q, quiet, heq⟩ := e.adopt_parts p
  have told : (e.st.adopted p).SameSources q.st := .of_quiet quiet
  rw [heq]
  split
  · rwa [Ev.raise_st]
  · rw [Ev.modify_st, Ev.raise_st]; exact told.trans (State.finishStartUp_sources _)

/-- The records that the decisions of a boundary find (R90, R49). -/
theorem Ev.adoptOrCount_next {s0 : State} {e : Ev} (pending : e.st.pendingAct = s0.pendingAct)
    (k : e.st.rate.pendingK = none) (n : Nat) :
    (e.adoptOrCount s0).st.store n = e.st.storeNext n ∧ (e.adoptOrCount s0).st.rateOf n = e.st.rateNext n
      ∧ (e.adoptOrCount s0).st.defect n = e.st.defectNext n := by
  unfold Ev.adoptOrCount
  cases hp : s0.pendingAct with
  | none =>
    have keeps : e.st.pendingAct = none := pending.trans hp
    have same : e.st.SameSources (e.countTimers s0 s0.timersFirst).st := .of_quiet (Ev.countTimers_quiet _ _ e)
    exact ⟨(same.store n).trans (State.storeNext_of_none keeps k n).symm,
      (same.rateOf n).trans (State.rateNext_of_none keeps k n).symm,
      (same.defect n).trans (State.defectNext_of_none keeps k n).symm⟩
  | some p =>
    have adopts : e.st.pendingAct = some p := pending.trans hp
    have same := e.adopt_sources p
    exact ⟨(same.store n).trans (State.adopted_storeNext adopts k n),
      (same.rateOf n).trans (State.adopted_rateNext adopts k n),
      (same.defect n).trans (State.adopted_defectNext adopts k n)⟩

/-- The restart of windows and then the adoption, if there are any, hand the decisions their records (R49, R90). -/
theorem Ev.beforeDecisions_next (timing : Option Bool) (s : State) (n : Nat) :
    ((Ev.start s).beforeDecisions timing).st.store n = s.storeNext n
      ∧ ((Ev.start s).beforeDecisions timing).st.rateOf n = s.rateNext n
      ∧ ((Ev.start s).beforeDecisions timing).st.defect n = s.defectNext n := by
  have begun : (((Ev.start s).beginTiming timing).modify State.applyExponent).st = s.beginBoundary.applyExponent :=
    congrArg State.applyExponent (Ev.beginTiming_st timing (Ev.start s))
  have next := Ev.adoptOrCount_next (s0 := s) (e := ((Ev.start s).beginTiming timing).modify State.applyExponent)
    (by rw [begun]; exact State.applyExponent_pendingAct _) (by rw [begun]; exact State.applyExponent_pendingK _) n
  rw [begun, State.applyExponent_storeNext, State.applyExponent_rateNext, State.applyExponent_defectNext] at next
  exact next

/-- The stores stay listed once each up to the decisions. -/
theorem Ev.beforeDecisions_stores_wf (timing : Option Bool) {s : State} (h : s.stores.wf Store.reset = true) :
    ((Ev.start s).beforeDecisions timing).st.stores.wf Store.reset = true := by
  have restarted : s.beginBoundary.applyExponent.stores.wf Store.reset = true := by
    unfold State.applyExponent
    split
    · exact Table.wf_mapAll _ _ _ h
    · exact h
  unfold Ev.beforeDecisions Ev.adoptOrCount
  split
  · rw [(Ev.adopt_sources _ _).stores, State.adopted_eq, State.storeRaw_stores]
    refine Table.wf_update _ _ _ _ ?_
    rw [Ev.modify_st, Ev.beginTiming_st]
    exact restarted
  · rw [(Ev.countTimers_quiet _ _ _).stores, Ev.modify_st, Ev.beginTiming_st]
    exact restarted

theorem State.rateAtBoundary_j (s : State) : s.rateAtBoundary.j = s.rate.j := by
  unfold State.rateAtBoundary; split <;> rfl

theorem Ev.beforeDecisions_j (timing : Option Bool) (s : State) :
    ((Ev.start s).beforeDecisions timing).st.rate.j = s.rate.j := by
  have rate : ((Ev.start s).beforeDecisions timing).st.rate = s.rateAtBoundary :=
    (congrArg State.rate (Ev.beforeDecisions_besideRecords timing (Ev.start s)) :)
  rw [rate, State.rateAtBoundary_j]

/-- Where no window ends, nothing after the decisions reaches the records of sources. -/
theorem State.boundary_sources {s : State} {c : BoundaryCause} {t : Timebase} (h : s.time.boundaryAt c = some t)
    (ends : ¬s.endsWindow) :
    ((Ev.start (s.atCause t)).beforeDecisions (s.time.timingAt c)).st.decideStores.SameSources (s.boundary c) := by
  have noWindowEnd : (s.atCause t).windowEndsNext = false := by
    rw [State.windowEndsNext, Bool.and_eq_false_imp]
    intro noExponent
    exact beq_eq_false_iff_ne.mpr (fun full => ends ⟨Option.isNone_iff_eq_none.mp noExponent, full⟩)
  rw [State.boundary_eq h, Ev.boundary_eq]
  refine .trans ?_ (.of_links (Ev.offer_same _))
  unfold Ev.closeBoundary
  rw [Ev.start_st, noWindowEnd]
  exact ⟨rfl, rfl, rfl, rfl⟩

/-- Settles O24: every row is the one boundary; its adoption and restart of windows hand each record on, its decisions take
it from there, and without a window end nothing else touches it. -/
theorem storesObeyThenDecide : Obligations.StoresObeyThenDecide := by
  intro s c i makes row ends wf
  refine ⟨s.boundary c, row.exec_eq makes, fun n => ?_⟩
  have cause := State.boundaryAt_of_makes makes
  have after := State.boundary_sources cause ends
  obtain ⟨store, rate, defect⟩ := Ev.beforeDecisions_next (s.time.timingAt c) (s.atCause (s.timeAtCause c)) n
  obtain ⟨decided, errored, kept⟩ := State.decideStores_records
    (Ev.beforeDecisions_stores_wf (s.time.timingAt c) (s := s.atCause (s.timeAtCause c)) wf) n
  rw [store, Ev.beforeDecisions_j] at decided errored
  refine ⟨(after.store n).trans decided, (after.rateOf n).trans (kept.trans rate), (after.defect n).trans (errored.trans ?_)⟩
  rw [defect]
  rfl

end Sys2Proof.Machine
end

section
/-! SUPPORT. SET PARAMETERS (R48, R49): what it reports, and how it clamps and stores its four values. -/

namespace Sys2Proof.Machine

/-- The result of SET PARAMETERS, item by item (R48). -/
theorem parametersResult_eq (r : RateParams) :
    parametersResult r = byte2 r.j ++ byte2 r.l ++ byte1 r.retries ++ byte1 r.k
      ++ (match r.pendingK with | some p => 0x01#8 :: byte1 p | none => [0, 0]) ++ byte2 r.counter := by
  unfold parametersResult
  cases r.pendingK <;> rfl

/-- A value clamped from both sides (R48). -/
theorem clampTo_eq {lo hi : Nat} (h : lo ≤ hi) (n : Nat) :
    clampTo lo hi n = if n < lo then lo else if hi < n then hi else n := by
  unfold clampTo
  split
  · omega
  · split <;> omega

/-- A value clamped from above alone (R48). -/
theorem clampTo_zero (hi n : Nat) : clampTo 0 hi n = if hi < n then hi else n := by
  rw [clampTo_eq (Nat.zero_le hi), if_neg (Nat.not_lt_zero n)]

/-- SET PARAMETERS with its 6 bytes, said of the values they carry (R48, R49). -/
theorem judgeSetParameters_values (s : State) {j k l n : Nat} (hj : j < 65536) (hk : k < 256) (hl : l < 65536)
    (hn : n < 256) {j' k' l' n' : Nat} (ej : clampTo 64 2048 j = j') (ek : clampTo 10 14 k = k')
    (el : clampTo 0 32767 l = l') (en : clampTo 0 3 n = n') :
    judgeSetParameters (byte2 j ++ byte1 k ++ byte2 l ++ byte1 n) s
      = executed { s with rate := s.rate.store j' k' l' n' }
        ⟨.done, decide (j' ≠ j ∨ k' ≠ k ∨ l' ≠ l ∨ n' ≠ n), parametersResult (s.rate.store j' k' l' n')⟩ := by
  subst ej ek el en
  have flag : ∀ a b c d a' b' c' d' : Nat, (a' != a || b' != b || c' != c || d' != d)
      = decide (a' ≠ a ∨ b' ≠ b ∨ c' ≠ c ∨ d' ≠ d) := fun a b c d a' b' c' d' => by
    rw [Bool.eq_iff_iff]
    simp [or_assoc]
  rw [← flag]
  have read : judgeSetParameters (byte2 j ++ byte1 k ++ byte2 l ++ byte1 n) s
      = judgeSetParameters [BitVec.ofNat 8 (j / 256), BitVec.ofNat 8 j, BitVec.ofNat 8 k, BitVec.ofNat 8 (l / 256),
        BitVec.ofNat 8 l, BitVec.ofNat 8 n] s := rfl
  rw [read]
  unfold judgeSetParameters
  dsimp only
  rw [value2_byte2 j hj, byte1_toNat k hk, value2_byte2 l hl, byte1_toNat n hn]
  rfl

/-- Settles O6: the command reports, or stores its four clamped values and reports them; the take adds its answer alone. -/
theorem setParametersClampsAndStores : Obligations.SetParametersClampsAndStores := by
  intro x s j k l n finished hj hk hl hn
  refine ⟨fun waits => ?_, fun waits => ?_⟩
  · refine (takeCommand_executed waits (.inl finished) (judge := judgeSetParameters) rfl).trans ?_
    rw [parametersResult_eq]
    rfl
  · refine (takeCommand_executed waits (.inl finished) (judgeSetParameters_values s hj hk hl hn
      (clampTo_eq (by decide) j) (clampTo_eq (by decide) k) (clampTo_zero _ l) (clampTo_zero _ n))).trans ?_
    rw [parametersResult_eq]
    rfl

end Sys2Proof.Machine
end

section
/-! SUPPORT. What a window end leaves of every source (R33, R34, R44 to R47, R115): each source that is not IDLE is judged
by its own records, whatever the others' events bring about. -/

namespace Sys2Proof.Machine

/-! ### One source -/

/-- The rate record of a source after its window end (R44 to R47). -/
def State.windowRate (s : State) (n : Nat) : RateRec :=
  { (s.rateOf n).evaluate s.rate.k s.rate.l (s.store n) with newInWindow := false }

/-- The defect record of a source after its window end, its raw condition derived (R112, R115). -/
def State.windowDefect (s : State) (n : Nat) : DefectRec :=
  let d := (s.defect n).endWindow (s.threshold n) (s.rateOf n)
    ((s.rateOf n).evaluate s.rate.k s.rate.l (s.store n))
  { d with raw := rawCondition (s.lineDefect (lineOfSlot n)) d }

section OneSource

variable (n m : Nat) (s : State) (e : Ev)

theorem State.windowJudged_store :
    (s.windowJudged n).store m = if m = n then (s.store n).endWindow else s.store m := by
  simp [State.windowJudged, State.setStore_store]

theorem State.windowJudged_rateOf :
    (s.windowJudged n).rateOf m = if m = n then s.windowRate n else s.rateOf m := by
  simp [State.windowJudged, State.windowRate, State.setRate_rateOf]

theorem State.windowJudged_defect : (s.windowJudged n).defect m = if m = n then
    (s.defect n).endWindow (s.threshold n) (s.rateOf n) ((s.rateOf n).evaluate s.rate.k s.rate.l (s.store n))
    else s.defect m := by
  simp [State.windowJudged, State.setDefect_defect]

/-- The raw condition that a source's window end derives (R112, R115). -/
theorem State.windowJudged_derivedRaw (busy : (s.store n).state ≠ .idle) :
    (s.windowJudged n).derivedRaw n = (s.windowDefect n).raw := by
  have state : ((s.windowJudged n).store n).state = (s.store n).state := by
    rw [State.windowJudged_store, if_pos rfl]; rfl
  unfold State.derivedRaw
  rw [state, if_neg busy, State.windowJudged_defect, if_pos rfl]
  rfl

theorem Ev.endWindowOf_store :
    (e.endWindowOf n).st.store m = if m = n then (e.st.store n).endWindow else e.st.store m := by
  rw [Ev.endWindowOf_eq, State.store, Ev.settleRaw_stores]
  exact State.windowJudged_store n m e.st

theorem Ev.endWindowOf_rateOf :
    (e.endWindowOf n).st.rateOf m = if m = n then e.st.windowRate n else e.st.rateOf m := by
  have rates := (congrArg State.rates (Ev.settleRaw_rest [n] (e.modify (State.windowJudged n))) :)
  refine (congrArg (fun u => Table.get RateRec.reset u m) rates).trans ?_
  exact State.windowJudged_rateOf n m e.st

theorem Ev.endWindowOf_defect (busy : (e.st.store n).state ≠ .idle) :
    (e.endWindowOf n).st.defect m = if m = n then e.st.windowDefect n else e.st.defect m := by
  rw [Ev.endWindowOf_eq, Ev.settleRaw_defect, Ev.modify_st, State.windowJudged_defect]
  by_cases hm : m = n
  · subst m
    rw [if_pos (List.mem_singleton_self n), if_pos rfl, if_pos rfl, State.windowJudged_derivedRaw n e.st busy]
    rfl
  · rw [if_neg (by simpa using hm), if_neg hm, if_neg hm]

end OneSource

/-- What a window end makes of a source depends on its own records, the parameters, the active bank and its line. -/
theorem State.windowRecords_congr {s t : State} (rest : t.besideSources = s.besideSources) {n : Nat}
    (store : t.store n = s.store n) (rate : t.rateOf n = s.rateOf n) (defect : t.defect n = s.defect n) :
    t.windowRate n = s.windowRate n ∧ t.windowDefect n = s.windowDefect n := by
  have params : t.rate = s.rate := (congrArg State.rate rest :)
  have threshold : t.threshold n = s.threshold n := (congrArg (fun u : State => u.threshold n) rest :)
  have line : t.lineDefect (lineOfSlot n) = s.lineDefect (lineOfSlot n) :=
    (congrArg (fun u : State => u.lineDefect (lineOfSlot n)) rest :)
  unfold State.windowRate State.windowDefect
  rw [store, rate, defect, params, threshold, line]
  exact ⟨rfl, rfl⟩

/-! ### Every source -/

/-- Sources end their windows each for itself: a list of them, each named once, ends in any order alike (R44). -/
theorem Ev.foldl_endWindowOf {ks : List Nat} (nodup : ks.Nodup) (e : Ev)
    (busy : ∀ n ∈ ks, (e.st.store n).state ≠ .idle) (n : Nat) :
    let t := (ks.foldl (fun e n => e.endWindowOf n) e).st
    t.store n = (if n ∈ ks then (e.st.store n).endWindow else e.st.store n)
      ∧ t.rateOf n = (if n ∈ ks then e.st.windowRate n else e.st.rateOf n)
      ∧ t.defect n = if n ∈ ks then e.st.windowDefect n else e.st.defect n := by
  induction ks generalizing e with
  | nil => exact ⟨rfl, rfl, rfl⟩
  | cons k rest ih =>
    obtain ⟨fresh, nodup⟩ := List.nodup_cons.mp nodup
    have busyK := busy k (List.mem_cons_self ..)
    have kept : ∀ m ≠ k, (e.endWindowOf k).st.store m = e.st.store m
        ∧ (e.endWindowOf k).st.rateOf m = e.st.rateOf m ∧ (e.endWindowOf k).st.defect m = e.st.defect m :=
      fun m hm => ⟨(e.endWindowOf_store k m).trans (if_neg hm), (e.endWindowOf_rateOf k m).trans (if_neg hm),
        (e.endWindowOf_defect k m busyK).trans (if_neg hm)⟩
    have later := ih nodup (e.endWindowOf k) (fun m hm => by
      rw [(kept m fun h => fresh (h ▸ hm)).1]
      exact busy m (List.mem_cons_of_mem _ hm))
    dsimp only at later ⊢
    rw [List.foldl_cons]
    obtain ⟨store, rate, defect⟩ := later
    by_cases hn : n = k
    · subst n
      rw [if_neg fresh] at store rate defect
      simp only [List.mem_cons_self, if_true]
      exact ⟨store.trans ((e.endWindowOf_store k k).trans (if_pos rfl)),
        rate.trans ((e.endWindowOf_rateOf k k).trans (if_pos rfl)),
        defect.trans ((e.endWindowOf_defect k k busyK).trans (if_pos rfl))⟩
    · obtain ⟨keptStore, keptRate, keptDefect⟩ := kept n hn
      obtain ⟨rate', defect'⟩ := State.windowRecords_congr (Ev.endWindowOf_besideSources k e) keptStore keptRate keptDefect
      rw [store, rate, defect, keptStore, rate', keptRate, defect', keptDefect]
      simp [hn]

theorem State.deciding_nodup {s : State} (wf : s.stores.wf Store.reset = true) : s.deciding.Nodup :=
  (Table.keys_nodup Store.reset s.stores wf).filter _

theorem State.mem_deciding {s : State} {n : Nat} : n ∈ s.deciding ↔ (s.store n).state ≠ .idle := by
  unfold State.deciding
  rw [List.mem_filter, State.referencedNow_iff]
  exact and_iff_right_of_imp State.mem_stores_keys

/-- The records of every source after a window end (R44). -/
theorem Ev.windowEnd_records {e : Ev} (wf : e.st.stores.wf Store.reset = true) (n : Nat) :
    e.windowEnd.st.store n = (if (e.st.store n).state = .idle then e.st.store n else (e.st.store n).endWindow)
      ∧ e.windowEnd.st.rateOf n = (if (e.st.store n).state = .idle then e.st.rateOf n else e.st.windowRate n)
      ∧ e.windowEnd.st.defect n = if (e.st.store n).state = .idle then e.st.defect n else e.st.windowDefect n := by
  have folded := Ev.foldl_endWindowOf (State.deciding_nodup wf) e (fun _ h => State.mem_deciding.mp h) n
  unfold Ev.windowEnd
  by_cases idle : (e.st.store n).state = .idle
  · rw [if_pos idle, if_pos idle, if_pos idle]
    simpa only [if_neg (fun h => State.mem_deciding.mp h idle)] using folded
  · rw [if_neg idle, if_neg idle, if_neg idle]
    simpa only [if_pos (State.mem_deciding.mpr idle)] using folded

/-! ### The boundary around the window end -/

/-- The event of a boundary up to its window end, for a boundary that is one. -/
def Ev.beforeWindowEnd (timing : Option Bool) (e : Ev) : Ev :=
  ((e.beforeDecisions timing).modify (·.decideAndAssemble (e.st.selectionBefore e.st.pendingAct))).modify
    (·.countWindow true)

/-- A boundary that is a window end: what leads up to it, the window end, the timers left to come after it (R140). -/
theorem Ev.boundary_of_windowEnd {s : State} (ends : s.windowEndsNext = true) (timing : Option Bool) :
    (Ev.start s).boundary timing = (if s.pendingAct.isNone = true then
        ((Ev.start s).beforeWindowEnd timing).windowEnd.countTimers s (fun g => !s.timersFirst g)
      else ((Ev.start s).beforeWindowEnd timing).windowEnd).modify (fun s => { s with choices := s.choices + 1 }) := by
  rw [Ev.boundary_eq]
  exact if_pos ends

theorem State.endsWindow.next {s : State} (ends : s.endsWindow) : s.windowEndsNext = true := by
  simp [State.windowEndsNext, ends.1, ends.2]

theorem State.SameSources.choices (s : State) (n : Nat) : s.SameSources { s with choices := n } := ⟨rfl, rfl, rfl, rfl⟩

/-- Of a boundary that is a window end, nothing after the window end reaches the records of sources. -/
theorem State.boundary_windowSources {s : State} {c : BoundaryCause} {t : Timebase} (h : s.time.boundaryAt c = some t)
    (ends : s.endsWindow) :
    ((Ev.start (s.atCause t)).beforeWindowEnd (s.time.timingAt c)).windowEnd.st.SameSources (s.boundary c) := by
  rw [State.boundary_eq h, Ev.boundary_of_windowEnd (s := s.atCause t) ends.next]
  refine .trans ?_ (.of_links (Ev.offer_same _))
  rw [Ev.modify_st]
  refine .trans ?_ (.choices _ _)
  split
  · exact .of_quiet (Ev.countTimers_quiet _ _ _)
  · exact ⟨rfl, rfl, rfl, rfl⟩

end Sys2Proof.Machine
end

section
/-! SUPPORT. The records of sources at a boundary that is a window end, in the terms of what the boundary hands on. -/

namespace Sys2Proof.Machine

/-- The records that a window end finds: each store has decided, and an underflow is counted (R25, R31). -/
theorem Ev.beforeWindowEnd_records (timing : Option Bool) {s : State} (wf : s.stores.wf Store.reset = true) (n : Nat) :
    let d := (s.storeNext n).decide s.rate.j
    let u := ((Ev.start s).beforeWindowEnd timing).st
    u.store n = d.1 ∧ u.rateOf n = s.rateNext n
      ∧ u.defect n = if d.2.2 = true then (s.defectNext n).countError else s.defectNext n := by
  obtain ⟨store, rate, defect⟩ := Ev.beforeDecisions_next timing s n
  obtain ⟨decided, errored, kept⟩ := State.decideStores_records (Ev.beforeDecisions_stores_wf timing wf) n
  rw [store, Ev.beforeDecisions_j] at decided errored
  rw [defect] at errored
  exact ⟨decided, kept.trans rate, errored⟩

/-- Decisions keep the stores listed once each. -/
theorem State.decideStores_wf {s : State} (wf : s.stores.wf Store.reset = true) :
    s.decideStores.stores.wf Store.reset = true := by
  refine List.foldlRecOn (motive := fun u : State => u.stores.wf Store.reset = true) _ _ wf (fun u hu n _ => ?_)
  have set := Table.wf_set Store.reset u.stores n ((u.store n).decide u.rate.j).1 hu
  rcases u.decideStore_eq n with heq | heq <;> rw [heq]
  · exact set
  · rw [State.erroredEvent_stores]; exact set

theorem Ev.beforeWindowEnd_stores_wf (timing : Option Bool) {s : State} (wf : s.stores.wf Store.reset = true) :
    ((Ev.start s).beforeWindowEnd timing).st.stores.wf Store.reset = true :=
  State.decideStores_wf (Ev.beforeDecisions_stores_wf timing wf)

/-- The decisions and the frame reach time, counter, frames and records of sources only. -/
theorem Ev.beforeWindowEnd_rest (timing : Option Bool) (e : Ev) :
    { (e.beforeWindowEnd timing).st with
      rate := (e.beforeDecisions timing).st.rate, egress := (e.beforeDecisions timing).st.egress
      sentParity := (e.beforeDecisions timing).st.sentParity, lifs := (e.beforeDecisions timing).st.lifs
      stores := (e.beforeDecisions timing).st.stores, defects := (e.beforeDecisions timing).st.defects }
      = (e.beforeDecisions timing).st :=
  (congrArg (fun u : State => { u with
    rate := (e.beforeDecisions timing).st.rate, egress := (e.beforeDecisions timing).st.egress
    sentParity := (e.beforeDecisions timing).st.sentParity, lifs := (e.beforeDecisions timing).st.lifs })
    (State.decideStores_rest (e.beforeDecisions timing).st) :)

/-- The line's levels and the window parameters that a window end reads. -/
theorem Ev.beforeWindowEnd_params (timing : Option Bool) {s : State} (ends : s.endsWindow) :
    let u := ((Ev.start s).beforeWindowEnd timing).st
    u.lineDefects = s.lineDefects ∧ u.rate.k = s.rate.k ∧ u.rate.l = s.rate.l := by
  have before := Ev.beforeDecisions_besideRecords timing (Ev.start s)
  have lines : ((Ev.start s).beforeDecisions timing).st.lineDefects = s.lineDefects :=
    (congrArg State.lineDefects before :)
  have decided := State.decideStores_rest ((Ev.start s).beforeDecisions timing).st
  have rate : ((Ev.start s).beforeDecisions timing).st.rate = s.rate := by
    refine (congrArg State.rate before :).trans ?_
    show s.rateAtBoundary = s.rate
    rw [State.rateAtBoundary, ends.1]
  have decidedRate : ((Ev.start s).beforeDecisions timing).st.decideStores.rate = s.rate :=
    (congrArg State.rate decided :).trans rate
  refine ⟨(congrArg State.lineDefects (Ev.beforeWindowEnd_rest timing (Ev.start s)) :).trans lines, ?_, ?_⟩
  · exact (congrArg RateParams.k decidedRate :)
  · exact (congrArg RateParams.l decidedRate :)

theorem State.threshold_of_besideSources {s t : State} (h : t.besideSources = s.besideSources) (n : Nat) :
    t.threshold n = s.threshold n := (congrArg (fun u : State => u.threshold n) h :)

/-- A window end, and group timers that come after it, leave the thresholds. -/
theorem Ev.windowEnd_threshold (e : Ev) (s0 : State) (which : Nat → Bool) (n : Nat) :
    (e.windowEnd.countTimers s0 which).st.threshold n = e.st.threshold n
      ∧ e.windowEnd.st.threshold n = e.st.threshold n :=
  have windows := Ev.windowEnd_besideSources e
  ⟨State.threshold_of_besideSources ((Ev.countTimers_quiet s0 which e.windowEnd).besideSources.trans windows) n,
    State.threshold_of_besideSources windows n⟩

theorem Ev.offer_threshold (e : Ev) (n : Nat) : e.offer.threshold n = e.st.threshold n := by
  unfold State.threshold State.activeBank State.bank
  rw [Ev.offer_active, Ev.offer_banks]

theorem State.threshold_choices (s : State) (k n : Nat) : ({ s with choices := k } : State).threshold n = s.threshold n :=
  rfl

/-- The active bank after a boundary that is a window end is the one its window end reads. -/
theorem State.boundary_windowThreshold {s : State} {c : BoundaryCause} {t : Timebase} (h : s.time.boundaryAt c = some t)
    (ends : s.endsWindow) (n : Nat) : (s.boundary c).threshold n
      = ((Ev.start (s.atCause t)).beforeWindowEnd (s.time.timingAt c)).st.threshold n := by
  obtain ⟨timed, untimed⟩ := Ev.windowEnd_threshold ((Ev.start (s.atCause t)).beforeWindowEnd (s.time.timingAt c))
    (s.atCause t) (fun g => !(s.atCause t).timersFirst g) n
  rw [State.boundary_eq h, Ev.boundary_of_windowEnd (s := s.atCause t) ends.next, Ev.offer_threshold, Ev.modify_st,
    State.threshold_choices]
  split
  · exact timed
  · exact untimed

/-- A rate record after its window end, in the terms of R44 to R47. -/
theorem RateRec.evaluate_eq (k l : Nat) (st : Store) (r : RateRec) :
    let e := saturateEstimate (rateQuotient k st.w st.advances st.retards)
    { r.evaluate k l st with newInWindow := false } = (if st.complete then
      (⟨e.1, true, e.2, st.complete && (e.2 || decide ((l : Int) < |e.1|)), false⟩ : RateRec)
      else ⟨r.estimate, false, r.saturated, false, false⟩) := by
  unfold RateRec.evaluate
  cases st.complete <;> rfl

/-- RATE_EXCURSION after a window end (R46). -/
theorem RateRec.evaluate_excursion (k l : Nat) (st : Store) (r : RateRec) :
    let e := saturateEstimate (rateQuotient k st.w st.advances st.retards)
    (r.evaluate k l st).excursion = (st.complete && (e.2 || decide ((l : Int) < |e.1|))) := by
  unfold RateRec.evaluate
  cases st.complete <;> rfl

/-- The raw condition reads neither the errored-event count nor the raw condition held. -/
theorem State.windowDefect_eq {s : State} {n : Nat} {f : DefectRec} {errored : Nat}
    (held : s.defect n = { f with errored := errored }) {level : Bool}
    (hl : ((s.rateOf n).evaluate s.rate.k s.rate.l (s.store n)).excursion = level) :
    let after : DefectRec := { f with
      errored := 0
      excursion := if level = (s.rateOf n).excursion then f.excursion else level
      degrade := if (s.rateOf n).newInWindow then f.degrade else degradeAfter (s.threshold n) errored f.degrade }
    s.windowDefect n = { after with raw := rawCondition (s.lineDefect (lineOfSlot n)) after } := by
  unfold State.windowDefect DefectRec.endWindow
  dsimp only
  rw [held, hl]

/-- What a boundary that is a window end leaves of a source's three records (R44). -/
theorem State.boundary_windowRecords {s : State} {c : BoundaryCause} (makes : s.makesBoundary c) (ends : s.endsWindow)
    (wf : s.stores.wf Store.reset = true) (n : Nat) :
    let u := ((Ev.start (s.atCause (s.timeAtCause c))).beforeWindowEnd (s.time.timingAt c)).st
    let t := s.boundary c
    t.store n = (if (u.store n).state = .idle then u.store n else (u.store n).endWindow)
      ∧ t.rateOf n = (if (u.store n).state = .idle then u.rateOf n else u.windowRate n)
      ∧ t.defect n = if (u.store n).state = .idle then u.defect n else u.windowDefect n := by
  have after := State.boundary_windowSources (State.boundaryAt_of_makes makes) ends
  dsimp only
  rw [after.store, after.rateOf, after.defect]
  exact Ev.windowEnd_records (Ev.beforeWindowEnd_stores_wf _ (s := s.atCause (s.timeAtCause c)) wf) n

/-- A source whose store is IDLE is not evaluated (R44). -/
theorem State.boundary_windowIdle {s : State} {c : BoundaryCause} (makes : s.makesBoundary c) (ends : s.endsWindow)
    (wf : s.stores.wf Store.reset = true) {n : Nat} (idle : (s.storeNext n).state = .idle) :
    (s.boundary c).store n = s.storeNext n ∧ (s.boundary c).rateOf n = s.rateNext n
      ∧ (s.boundary c).defect n = s.defectNext n := by
  obtain ⟨store, rate, defect⟩ := State.boundary_windowRecords makes ends wf n
  obtain ⟨decided, kept, errored⟩ := Ev.beforeWindowEnd_records (s.time.timingAt c)
    (s := s.atCause (s.timeAtCause c)) wf n
  have none : (s.atCause (s.timeAtCause c)).storeNext n = s.storeNext n := rfl
  rw [none, Store.decide_idle _ _ idle] at decided errored
  rw [decided, if_pos idle] at store
  rw [decided, if_pos idle] at rate defect
  exact ⟨store, rate.trans kept, defect.trans errored⟩

/-- A source whose store is not IDLE is evaluated after its decision (R44 to R47, R33, R34, R115). -/
theorem State.boundary_windowBusy {s : State} {c : BoundaryCause} (makes : s.makesBoundary c) (ends : s.endsWindow)
    (wf : s.stores.wf Store.reset = true) {n : Nat} (busy : (s.storeNext n).state ≠ .idle) :
    let t := s.boundary c
    let d := (s.storeNext n).decide s.rate.j
    let r := s.rateNext n
    let f := s.defectNext n
    let e := saturateEstimate (rateQuotient s.rate.k d.1.w d.1.advances d.1.retards)
    let level := d.1.complete && (e.2 || decide ((s.rate.l : Int) < |e.1|))
    let errored := if d.2.2 then min (f.errored + 1) 65535 else f.errored
    let after : DefectRec := { f with
      errored := 0
      excursion := if level = r.excursion then f.excursion else level
      degrade := if r.newInWindow then f.degrade else degradeAfter (t.threshold n) errored f.degrade }
    t.store n = d.1.endWindow
      ∧ t.rateOf n = (if d.1.complete then ⟨e.1, true, e.2, level, false⟩
        else ⟨r.estimate, false, r.saturated, false, false⟩)
      ∧ t.defect n = { after with raw := rawCondition (s.lineDefect (lineOfSlot n)) after } := by
  obtain ⟨store, rate, defect⟩ := State.boundary_windowRecords makes ends wf n
  obtain ⟨decided, kept, errored⟩ := Ev.beforeWindowEnd_records (s.time.timingAt c)
    (s := s.atCause (s.timeAtCause c)) wf n
  obtain ⟨lines, k, l⟩ := Ev.beforeWindowEnd_params (s.time.timingAt c) (s := s.atCause (s.timeAtCause c)) ends
  have threshold := State.boundary_windowThreshold (State.boundaryAt_of_makes makes) ends n
  have stays : ¬(((s.storeNext n).decide s.rate.j).1.state = .idle) := fun h =>
    busy (((s.storeNext n).decide_keeps s.rate.j).2.mp h)
  dsimp only at store rate defect decided kept errored lines k l ⊢
  generalize ((Ev.start (s.atCause (s.timeAtCause c))).beforeWindowEnd (s.time.timingAt c)).st = u at *
  change u.store n = ((s.storeNext n).decide s.rate.j).1 at decided
  change u.rateOf n = s.rateNext n at kept
  change u.defect n = (if ((s.storeNext n).decide s.rate.j).2.2 = true then (s.defectNext n).countError
    else s.defectNext n) at errored
  have line : u.lineDefect (lineOfSlot n) = s.lineDefect (lineOfSlot n) := by rw [State.lineDefect, lines]; rfl
  rw [decided, if_neg stays] at store rate defect
  have counted : u.defect n = { s.defectNext n with errored :=
      if ((s.storeNext n).decide s.rate.j).2.2 = true then min ((s.defectNext n).errored + 1) 65535
      else (s.defectNext n).errored } := by
    rw [errored]
    split <;> rfl
  refine ⟨store, rate.trans ?_, defect.trans ?_⟩
  · rw [State.windowRate, decided, kept, k, l, RateRec.evaluate_eq]
    rfl
  · have judged := State.windowDefect_eq counted (level := ((s.storeNext n).decide s.rate.j).1.complete
      && ((saturateEstimate (rateQuotient s.rate.k ((s.storeNext n).decide s.rate.j).1.w
          ((s.storeNext n).decide s.rate.j).1.advances ((s.storeNext n).decide s.rate.j).1.retards)).2
        || decide ((s.rate.l : Int) < |(saturateEstimate (rateQuotient s.rate.k ((s.storeNext n).decide s.rate.j).1.w
          ((s.storeNext n).decide s.rate.j).1.advances ((s.storeNext n).decide s.rate.j).1.retards)).1|)))
      (by rw [decided, k, l, RateRec.evaluate_excursion]; rfl)
    rw [judged, kept, line, threshold]

end Sys2Proof.Machine
end

section
/-! SUPPORT. An event to which the Core Timebase and the Switch contribute too: the notices of the Defect Monitor and the
Protection Engine apart from theirs (R168). -/

namespace Sys2Proof.Machine

/-! ### The notices of two blocks apart -/

/-- The Defect Monitor's or the Protection Engine's. -/
def Block.settles : Block → Bool
  | .monitor | .protection => true
  | .timebase | .switch | .mapEngine | .imageStore => false

theorem Block.settles_iff (b : Block) : b.settles = true ↔ b = .monitor ∨ b = .protection := by
  cases b <;> simp [Block.settles]

/-- An event with the notices of the Defect Monitor and the Protection Engine only. -/
def Ev.own (e : Ev) : Ev := { e with raised := e.raised.filter (fun q => q.1.settles) }

/-- The notices that the other blocks have raised. -/
def Ev.foreign (e : Ev) : List (Block × Notice) := e.raised.filter (fun q => !q.1.settles)

@[simp] theorem Ev.own_st (e : Ev) : e.own.st = e.st := rfl

/-- A part of an event in which no block but these two raises notices, and which reads none. -/
def Ev.OfTwoBlocks (f : Ev → Ev) : Prop := ∀ e, (f e).own = f e.own ∧ (f e).foreign = e.foreign

namespace Ev.OfTwoBlocks

theorem id : Ev.OfTwoBlocks (fun e => e) := fun _ => ⟨rfl, rfl⟩

theorem comp {f g : Ev → Ev} (hf : Ev.OfTwoBlocks f) (hg : Ev.OfTwoBlocks g) : Ev.OfTwoBlocks (fun e => g (f e)) :=
  fun e => ⟨(hg (f e)).1.trans (congrArg g (hf e).1), (hg (f e)).2.trans (hf e).2⟩

/-- Such a part may choose by the state it finds. -/
theorem byState {f : State → Ev → Ev} (h : ∀ s, Ev.OfTwoBlocks (f s)) : Ev.OfTwoBlocks (fun e => f e.st e) :=
  fun e => h e.st e

theorem ite {p : State → Prop} [DecidablePred p] {f g : Ev → Ev} (hf : Ev.OfTwoBlocks f) (hg : Ev.OfTwoBlocks g) :
    Ev.OfTwoBlocks (fun e => if p e.st then f e else g e) :=
  byState (f := fun s e => if p s then f e else g e) fun s => by
    by_cases h : p s
    · simpa only [if_pos h] using hf
    · simpa only [if_neg h] using hg

theorem foldl {α : Type} {f : α → Ev → Ev} (h : ∀ a, Ev.OfTwoBlocks (f a)) (l : List α) :
    Ev.OfTwoBlocks (fun e => l.foldl (fun e a => f a e) e) := by
  induction l with
  | nil => exact id
  | cons a rest ih => exact (h a).comp ih

theorem modify (f : State → State) : Ev.OfTwoBlocks (fun e => e.modify f) := fun _ => ⟨rfl, rfl⟩

theorem raise {b : Block} (hb : b.settles = true) (n : NoticeBody) : Ev.OfTwoBlocks (fun e => e.raise b n) := by
  intro e
  unfold Ev.raise
  by_cases hf : e.st.image.finished = true <;> simp [Ev.own, Ev.foreign, hf, hb]

theorem raiseAll {b : Block} (hb : b.settles = true) (ns : List NoticeBody) : Ev.OfTwoBlocks (fun e => e.raiseAll b ns) :=
  foldl (fun n => raise hb n) ns

end Ev.OfTwoBlocks

/-- Another block's notice joins the notices of the other blocks, once start-up has finished (R168). -/
theorem Ev.raise_foreign {b : Block} (hb : b.settles = false) (n : NoticeBody) (e : Ev) : (e.raise b n).own = e.own
    ∧ ∀ q ∈ (e.raise b n).foreign, q ∈ e.foreign ∨ e.st.image.finished = true ∧ q.2.body = n := by
  unfold Ev.raise
  split
  · rename_i finished
    simp only [Ev.own, Ev.foreign, List.filter_append, List.mem_append]
    refine ⟨by simp [hb], fun q hq => hq.imp_right fun h => ⟨finished, ?_⟩⟩
    rw [List.mem_singleton.mp (List.mem_of_mem_filter h)]
  · exact ⟨rfl, fun q hq => .inl hq⟩

/-! ### The parts of a boundary's event -/

theorem Ev.evaluateGroup_ofTwoBlocks (g : Nat) (r : State → GroupRec) :
    Ev.OfTwoBlocks (fun e => e.evaluateGroup g (r e.st)) :=
  .byState (f := fun s e => (e.modify (·.setGroup g ((r s).evaluate g s.time.seconds s.time.frame).1)).raiseAll
    .protection ((r s).evaluate g s.time.seconds s.time.frame).2) fun _ => (Ev.OfTwoBlocks.modify _).comp (.raiseAll rfl _)

theorem Ev.deliverChanges_ofTwoBlocks (cs : List RawChange) : Ev.OfTwoBlocks (fun e => e.deliverChanges cs) :=
  .byState (f := fun s e => s.groups.keys.foldl (Ev.deliverTo cs) e) fun s =>
    .foldl (f := fun g e => Ev.deliverTo cs e g) (fun g =>
      .ite (p := fun s => (s.group g).touchedBy cs = true)
        (Ev.evaluateGroup_ofTwoBlocks g fun s => (s.group g).takeChanges cs) .id) s.groups.keys

theorem Ev.latchWatch_ofTwoBlocks (n : Nat) : Ev.OfTwoBlocks (fun e => e.latchWatch n) :=
  .byState (f := fun s e => if (s.watch n).enabled && !(s.watch n).latch then
      (e.modify (·.setWatch n { s.watch n with latch := true })).raise .monitor
        (.watch n (s.watch n).cls ((s.watch n).level.value (s.defect n).raw)) else e) fun s => by
    split
    · exact (Ev.OfTwoBlocks.modify _).comp (.raise rfl _)
    · exact .id

theorem Ev.evalLevelWatch_ofTwoBlocks (n : Nat) : Ev.OfTwoBlocks (fun e => e.evalLevelWatch n) :=
  .ite (p := fun s => (s.watch n).type = .level ∧ s.watchHolds n = true) (Ev.latchWatch_ofTwoBlocks n) .id

theorem Ev.evalWatchAtChange_ofTwoBlocks (c : RawChange) : Ev.OfTwoBlocks (fun e => e.evalWatchAtChange c) :=
  .byState (f := fun s e => match (s.watch c.source).type with
    | .level => e.evalLevelWatch c.source
    | .change => if s.isTransition c then e.latchWatch c.source else e) fun s => by
    split
    · exact Ev.evalLevelWatch_ofTwoBlocks _
    · split
      · exact Ev.latchWatch_ofTwoBlocks _
      · exact .id

theorem Ev.evalWatchAtAdoption_ofTwoBlocks (cs : List RawChange) (n : Nat) :
    Ev.OfTwoBlocks (fun e => e.evalWatchAtAdoption cs n) :=
  .byState (f := fun s e => match (s.watch n).type with
    | .level => e.evalLevelWatch n
    | .change =>
      match cs.find? (·.source = n) with
      | some c => if s.isTransition c then e.latchWatch n else e
      | none => e) fun s => by
    split
    · exact Ev.evalLevelWatch_ofTwoBlocks _
    · split
      · split
        · exact Ev.latchWatch_ofTwoBlocks _
        · exact .id
      · exact .id

theorem Ev.evalPattern_ofTwoBlocks (p : Nat) : Ev.OfTwoBlocks (fun e => e.evalPattern p) :=
  .byState (f := fun s e => if (s.pattern p).enabled && !(s.pattern p).latch && s.patternHolds p then
      (e.modify (·.setPattern p { s.pattern p with latch := true })).raise .monitor (.pattern p (s.pattern p).cls)
      else e) fun s => by
    split
    · exact (Ev.OfTwoBlocks.modify _).comp (.raise rfl _)
    · exact .id

theorem Ev.evalPatterns_ofTwoBlocks : Ev.OfTwoBlocks Ev.evalPatterns :=
  .foldl (f := fun p e => e.evalPattern p) Ev.evalPattern_ofTwoBlocks _

/-- Raw condition changes stored, delivered and evaluated (R113). -/
theorem changesSettled_ofTwoBlocks (cs : List RawChange) : Ev.OfTwoBlocks (fun e =>
    (cs.foldl (fun e c => e.evalWatchAtChange c) ((e.modify (·.storeRaw cs)).deliverChanges cs)).evalPatterns) :=
  (((Ev.OfTwoBlocks.modify _).comp (Ev.deliverChanges_ofTwoBlocks cs)).comp
    (.foldl (f := fun c e => e.evalWatchAtChange c) Ev.evalWatchAtChange_ofTwoBlocks cs)).comp Ev.evalPatterns_ofTwoBlocks

theorem Ev.settleRaw_ofTwoBlocks (touched : List Nat) : Ev.OfTwoBlocks (fun e => e.settleRaw touched) := by
  intro e
  beta_reduce
  by_cases none : (e.st.rawChanges touched).isEmpty = true
  · have idle : ∀ e' : Ev, e'.st = e.st → e'.settleRaw touched = e' := fun e' h => if_pos (by rw [h]; exact none)
    rw [idle e rfl, idle e.own rfl]
    exact ⟨rfl, rfl⟩
  · have settles : ∀ e' : Ev, e'.st = e.st → e'.settleRaw touched = ((e.st.rawChanges touched).foldl
        (fun e c => e.evalWatchAtChange c) ((e'.modify (·.storeRaw (e.st.rawChanges touched))).deliverChanges
          (e.st.rawChanges touched))).evalPatterns := fun e' h => by
      rw [← h] at none ⊢
      exact if_neg none
    rw [settles e rfl, settles e.own rfl]
    exact changesSettled_ofTwoBlocks (e.st.rawChanges touched) e

theorem Ev.windowEnd_ofTwoBlocks : Ev.OfTwoBlocks Ev.windowEnd :=
  .byState (f := fun s e => s.deciding.foldl (fun e n => e.endWindowOf n) e) fun _ =>
    .foldl (f := fun n e => e.endWindowOf n) (fun n =>
      (Ev.OfTwoBlocks.modify (State.windowJudged n)).comp (Ev.settleRaw_ofTwoBlocks [n])) _

theorem Ev.countGroup_ofTwoBlocks (start : GroupRec) (g : Nat) : Ev.OfTwoBlocks (fun e => e.countGroup start g) :=
  .ite (p := fun s => timersExpired (s.group g) (start.countTimers (s.group g)) = true)
    (Ev.evaluateGroup_ofTwoBlocks g fun s => start.countTimers (s.group g))
    (.byState (f := fun s e => e.modify (·.setGroup g (start.countTimers (s.group g)))) fun _ => .modify _)

theorem Ev.countTimers_ofTwoBlocks (start : State) (which : Nat → Bool) :
    Ev.OfTwoBlocks (fun e => e.countTimers start which) :=
  .byState (f := fun s e => s.groups.keys.foldl (fun e g => if which g then e.countGroup (start.group g) g else e) e)
    fun s => .foldl (f := fun g e => if which g then e.countGroup (start.group g) g else e) (fun g => by
      cases which g
      · exact .id
      · exact Ev.countGroup_ofTwoBlocks _ g) _

theorem Ev.reconcileGroup_ofTwoBlocks (old new : Bank) (cs : List RawChange) (g : Nat) :
    Ev.OfTwoBlocks (fun e => e.reconcileGroup old new cs g) := by
  unfold Ev.reconcileGroup
  cases groupClass (old.groupDef g) (new.groupDef g) with
  | undefined => exact .id
  | removal =>
    exact .byState (f := fun s e => (e.modify (·.setGroup g GroupRec.reset)).raiseAll .protection
      (((s.group g).countTimers (s.group g)).removalNotices g)) fun _ => (Ev.OfTwoBlocks.modify _).comp (.raiseAll rfl _)
  | fresh d => exact Ev.evaluateGroup_ofTwoBlocks g fun s => freshGroup s d
  | kept d => exact Ev.evaluateGroup_ofTwoBlocks g fun s =>
      ({ (s.group g).countTimers (s.group g) with settings := some d } : GroupRec).takeChanges cs
  | redefined d =>
    exact .byState (f := fun s e => (e.raiseAll .protection
      (((s.group g).countTimers (s.group g)).removalNotices g)).evaluateGroup g (freshGroup s d)) fun s =>
        (Ev.OfTwoBlocks.raiseAll rfl _).comp (Ev.evaluateGroup_ofTwoBlocks g fun _ => freshGroup s d)

theorem Ev.reconcile_ofTwoBlocks (old new : Bank) (cs : List RawChange) :
    Ev.OfTwoBlocks (fun e => e.reconcile old new cs) :=
  .foldl (f := fun g e => e.reconcileGroup old new cs g) (Ev.reconcileGroup_ofTwoBlocks old new cs) _

/-! ### The end of such an event -/

theorem Ev.noticesOf_own (e : Ev) {b : Block} (hb : b.settles = true) : noticesOf b e.own.raised = noticesOf b e.raised := by
  unfold noticesOf Ev.own
  rw [List.filterMap_filter]
  refine List.filterMap_congr fun q _ => ?_
  by_cases h : q.1 = b
  · simp [h, hb]
  · simp [h]

theorem Ev.mem_raised {e : Ev} {q : Block × Notice} (h : q ∈ e.raised) :
    q ∈ e.own.raised ∧ (q.1 = .monitor ∨ q.1 = .protection) ∨ q ∈ e.foreign := by
  cases hb : q.1.settles
  · exact .inr (List.mem_filter.mpr ⟨h, by rw [hb]; rfl⟩)
  · exact .inl ⟨List.mem_filter.mpr ⟨h, hb⟩, (Block.settles_iff _).mp hb⟩

/-- Once start-up has finished, such an event offers its notices as R168 says: those of the two blocks in their order, and
the others, whose kinds are 4 and up. -/
theorem Ev.offered {e : Ev} {v : Settled} {before : State} {others : List NoticeBody}
    (own : e.own.HasRaised v.monitor v.protection) (foreign : ∀ q ∈ e.foreign, 4 ≤ q.2.body.kindCode)
    (stamped : e.Stamped) (high : e.highBodies = others) (finished : e.st.image.finished = true)
    (links : ∀ x, e.st.link x = before.link x) (time : e.st.time = before.time) (image : e.st.image = before.image) :
    before.Offered e.offer v others := by
  obtain ⟨ownM, ownP⟩ := own.kinds_own
  have picked : ∀ (p : NoticeBody → Bool) (b : Block), (∀ q ∈ e.raised, p q.2.body = true → q.1 = b) →
      ((offeringOrder e.st.choices e.raised).map (·.body)).filter p
        = ((noticesOf b e.raised).map (·.body)).filter p := fun p b hb => by
    rw [List.filter_map, List.filter_map]
    exact congrArg _ (filter_offeringOrder _ hb)
  have kinds : ∀ q ∈ e.raised, q.1 = .monitor ∧ q.2.body.kindCode ≤ 1
      ∨ q.1 = .protection ∧ (q.2.body.kindCode = 2 ∨ q.2.body.kindCode = 3) ∨ 4 ≤ q.2.body.kindCode := fun q hq => by
    rcases Ev.mem_raised hq with ⟨ownQ, monitor | protection⟩ | foreignQ
    · exact .inl ⟨monitor, own.monitor_body finished ownQ monitor⟩
    · exact .inr (.inl ⟨protection, own.protection_body finished ownQ protection⟩)
    · exact .inr (.inr (foreign q foreignQ))
  refine ⟨(offeringOrder e.st.choices e.raised).map (·.body), ?_, ?_, ?_, fun x => ?_⟩
  · rw [picked _ .monitor, ← e.noticesOf_own rfl, own.monitor finished, ownM]
    intro q hq low
    have := of_decide_eq_true low
    rcases kinds q hq with h | h | h
    · exact h.1
    all_goals omega
  · rw [picked _ .protection, ← e.noticesOf_own rfl, own.protection finished, ownP]
    intro q hq middle
    have := of_decide_eq_true middle
    rcases kinds q hq with h | h | h
    · omega
    · exact h.1
    · omega
  · rw [← high, List.filter_map]
    refine (((offeringOrder_perm _ _).filter _).map _).trans (List.Perm.of_eq ?_)
    rw [List.filter_map, List.map_map]
    rfl
  · rw [Ev.offer_link stamped finished]
    exact foldl_notify_link_congr _ (links x) time (by rw [image])

end Sys2Proof.Machine
end

section
/-! SUPPORT. Group timers, window ends and the reconciliation of groups bring an event in progress to what `Settled` says of
them (R113, R115, R140, R150). -/

namespace Sys2Proof.Machine

/-! ### Events in progress, read from another state -/

/-- An event in progress that has brought the Defect Monitor and the Protection Engine to what is settled, in a state with
the site time, entries and listed groups of `u`. -/
structure Ev.TracksIn (u : State) (e : Ev) (v : Settled) : Prop where
  tracks  : e.Tracks v
  entries : u.SameEntries e.st
  wf      : e.st.groups.wf GroupRec.reset = true

/-- Other fields may change within the event. -/
theorem Ev.TracksIn.modify {u : State} {e : Ev} {v : Settled} (h : e.TracksIn u v) {f : State → State}
    (hd : ∀ n, ((f e.st).defect n).raw = (e.st.defect n).raw) (hg : (f e.st).groups = e.st.groups)
    (hw : (f e.st).watches = e.st.watches) (hp : (f e.st).patterns = e.st.patterns) (ht : (f e.st).time = e.st.time)
    (hi : (f e.st).image = e.st.image) (ha : (f e.st).active = e.st.active) (hb : (f e.st).banks = e.st.banks) :
    (e.modify f).TracksIn u v where
  tracks := h.tracks.modify hd hg hw hp ht hi
  entries := h.entries.trans ⟨ht, hi,
    fun n => by simp only [Ev.modify_st, State.isHead, State.activeBank, State.bank, ha, hb],
    fun n => by simp only [Ev.modify_st, State.watch, hw], fun p => by simp only [Ev.modify_st, State.pattern, hp],
    by simp only [Ev.modify_st, hg]⟩
  wf := by rw [Ev.modify_st, hg]; exact h.wf

/-- What another block raises is apart. -/
theorem Ev.TracksIn.ofTwoBlocks {u : State} {e : Ev} {v : Settled} {f : Ev → Ev} (hf : Ev.OfTwoBlocks f)
    (h : (f e.own).TracksIn u v) : (f e).own.TracksIn u v := by rw [(hf e).1]; exact h

/-! ### Groups, one after the other -/

/-- The groups' records alone differ between two states. -/
def State.SameButGroups (s t : State) : Prop := { t with groups := s.groups } = s

namespace State.SameButGroups

theorem setGroup {s t : State} (h : s.SameButGroups t) (g : Nat) (r : GroupRec) : s.SameButGroups (t.setGroup g r) := h

variable {s t : State} (h : s.SameButGroups t)
include h

theorem time : t.time = s.time := (congrArg State.time h :)
theorem image : t.image = s.image := (congrArg State.image h :)
theorem defects : t.defects = s.defects := (congrArg State.defects h :)
theorem watches : t.watches = s.watches := (congrArg State.watches h :)
theorem patterns : t.patterns = s.patterns := (congrArg State.patterns h :)
theorem stores : t.stores = s.stores := (congrArg State.stores h :)

theorem watch (n : Nat) : t.watch n = s.watch n := (congrArg (fun u : State => u.watch n) h :)
theorem pattern (p : Nat) : t.pattern p = s.pattern p := (congrArg (fun u : State => u.pattern p) h :)
theorem defect (n : Nat) : t.defect n = s.defect n := (congrArg (fun u : State => u.defect n) h :)

theorem entries (keys : t.groups.keys = s.groups.keys) : s.SameEntries t :=
  ⟨h.time, h.image, fun n => (congrArg (fun u : State => u.isHead n) h :), fun n => congrArg Watch.besideLatch (h.watch n),
    fun p => congrArg Pattern.besideLatch (h.pattern p), keys⟩

end State.SameButGroups

/-- A part of an event that gives one group a record and raises a list of notices. -/
structure Ev.SetsGroup (e : Ev) (g : Nat) (met : GroupRec × List NoticeBody) (e' : Ev) : Prop where
  rest   : e.st.SameButGroups e'.st
  group  : ∀ k, e'.st.group k = if k = g then met.1 else e.st.group k
  raised : e'.raised = e.raised ++ e.st.notes .protection met.2

theorem Ev.setsGroup_unchanged (e : Ev) (g : Nat) : e.SetsGroup g (e.st.group g, []) e where
  rest := rfl
  group k := by
    split
    · rename_i hk; rw [hk]
    · rfl
  raised := by simp

theorem Ev.setsGroup_modify (e : Ev) (g : Nat) (r : GroupRec) : e.SetsGroup g (r, []) (e.modify (·.setGroup g r)) where
  rest := rfl
  group k := State.setGroup_group ..
  raised := by simp

theorem Ev.setsGroup_raiseAll {e e' : Ev} {g : Nat} {r : GroupRec} {ns : List NoticeBody} (h : e.SetsGroup g (r, ns) e')
    (ms : List NoticeBody) : e.SetsGroup g (r, ns ++ ms) (e'.raiseAll .protection ms) where
  rest := by rw [Ev.raiseAll_st]; exact h.rest
  group k := by rw [Ev.raiseAll_st]; exact h.group k
  raised := by
    rw [Ev.raiseAll_notes, h.raised, State.notes_congr h.rest.time h.rest.image, State.notes_append, List.append_assoc]

/-- An evaluation gives the group its record (R141). -/
theorem Ev.setsGroup_evaluate (e : Ev) (g : Nat) (r : GroupRec) :
    e.SetsGroup g (r.evaluate g e.st.time.seconds e.st.time.frame) (e.evaluateGroup g r) :=
  Ev.setsGroup_raiseAll (Ev.setsGroup_modify e g _) _

/-- Groups that take their records and raise their notices each for itself, one after the other. -/
theorem Ev.foldl_groups {f : Ev → Nat → Ev} {met : Nat → GroupRec × List NoticeBody} {s : State}
    (step : ∀ (e : Ev) (g : Nat), s.SameButGroups e.st → e.st.group g = s.group g → e.SetsGroup g (met g) (f e g))
    {gs : List Nat} (nodup : gs.Nodup) (e : Ev) (rest : s.SameButGroups e.st)
    (same : ∀ g ∈ gs, e.st.group g = s.group g) :
    s.SameButGroups (gs.foldl f e).st
      ∧ (∀ k, (gs.foldl f e).st.group k = if k ∈ gs then (met k).1 else e.st.group k)
      ∧ (gs.foldl f e).raised = e.raised ++ s.notes .protection (gs.flatMap (fun g => (met g).2)) := by
  induction gs generalizing e with
  | nil => exact ⟨rest, by simp, by simp⟩
  | cons g gs ih =>
    obtain ⟨fresh, nodup⟩ := List.nodup_cons.mp nodup
    obtain ⟨rest', group', raised'⟩ := step e g rest (same g (List.mem_cons_self ..))
    have restStep : s.SameButGroups (f e g).st :=
      (congrArg (fun u : State => { u with groups := s.groups }) rest' :).trans rest
    obtain ⟨rest'', group'', raised''⟩ := ih nodup (f e g) restStep (fun k hk => by
      rw [group', if_neg fun h : k = g => fresh (h ▸ hk)]
      exact same k (List.mem_cons_of_mem _ hk))
    rw [List.foldl_cons]
    refine ⟨rest'', fun k => ?_, ?_⟩
    · rw [group'', group']
      by_cases hk : k = g
      · subst k; simp [fresh]
      · simp [hk]
    · rw [raised'', raised', State.notes_congr rest.time rest.image, List.append_assoc, ← State.notes_append,
        List.flatMap_cons]

/-! ### Group timers (R140) -/

/-- A timer expires at a count as R140 says. -/
theorem timersExpired_iff (start r : GroupRec) : timersExpired r (start.countTimers r) = true
    ↔ r.settings ≠ none ∧ start.expires r := by
  have side : ∀ a b : SideRec, (b.timer != 0 && (a.counted b).timer == 0) = decide (a.timer ≠ 0 ∧ b.timer = 1) := by
    intro a b
    unfold SideRec.counted
    by_cases x : a.timer = 0
    · by_cases y : b.timer = 0 <;> simp [x, y]
    · by_cases y : b.timer = 1
      · simp [x, y]
      · have late : b.timer = 0 ∨ b.timer - 1 ≠ 0 := by omega
        rcases late with z | z <;> simp [x, y, z]
  have restore : (r.restore != 0 && (if start.restore = 0 then r.restore else r.restore - 1) == 0)
      = decide (start.restore ≠ 0 ∧ r.restore = 1) := by
    by_cases x : start.restore = 0
    · by_cases y : r.restore = 0 <;> simp [x, y]
    · by_cases y : r.restore = 1
      · simp [x, y]
      · have late : r.restore = 0 ∨ r.restore - 1 ≠ 0 := by omega
        rcases late with z | z <;> simp [x, y, z]
  rw [GroupRec.countTimers_eq]
  unfold timersExpired GroupRec.counted
  by_cases hs : r.settings = none
  · rw [if_pos hs]
    simp [hs]
  · rw [if_neg hs]
    dsimp only
    rw [side, side, restore]
    simp [hs, GroupRec.expires, or_assoc]

/-- One boundary counted against a group, as R140 says it. -/
theorem Ev.countGroup_ticks (start : GroupRec) (g : Nat) (e : Ev) :
    e.SetsGroup g (start.tick g e.st.time.seconds e.st.time.frame (e.st.group g)) (e.countGroup start g) := by
  have expired := timersExpired_iff start (e.st.group g)
  have counts := GroupRec.countTimers_eq start (e.st.group g)
  unfold Ev.countGroup GroupRec.tick
  dsimp only
  by_cases h : (e.st.group g).settings ≠ none ∧ start.expires (e.st.group g)
  · rw [if_pos (expired.mpr h), if_pos h, counts]
    exact Ev.setsGroup_evaluate e g _
  · rw [if_neg (mt expired.mp h), if_neg h, counts]
    exact Ev.setsGroup_modify e g _

theorem GroupRec.counted_settings (start r : GroupRec) : (start.counted r).settings = r.settings := by
  unfold GroupRec.counted; split <;> rfl

theorem GroupRec.tick_settings (g : Nat) (sec : Word) (fr : Nat) (start r : GroupRec) :
    (start.tick g sec fr r).1.settings = r.settings := by
  unfold GroupRec.tick
  split
  · rw [GroupRec.evaluate_settings, GroupRec.counted_settings]
  · exact GroupRec.counted_settings start r

/-- An undefined group has no timers (R130). -/
theorem GroupRec.tick_undefined (g : Nat) (sec : Word) (fr : Nat) (start : GroupRec) {r : GroupRec}
    (h : r.settings = none) : start.tick g sec fr r = (r, []) := by
  unfold GroupRec.tick GroupRec.counted
  rw [if_neg fun k => k.1 h, if_pos h]

theorem GroupRec.tick_kinds (g : Nat) (sec : Word) (fr : Nat) (start r : GroupRec) :
    ∀ b ∈ (start.tick g sec fr r).2, b.kindCode = 2 ∨ b.kindCode = 3 := by
  unfold GroupRec.tick
  split
  · exact GroupRec.evaluate_notices
  · exact fun _ h => nomatch h

/-- Counting the timers of groups keeps the groups listed. -/
theorem Ev.countTimers_groups (start : State) (which : Nat → Bool) {e : Ev} (wf : e.st.groups.wf GroupRec.reset = true) :
    (e.countTimers start which).st.groups.wf GroupRec.reset = true
      ∧ (e.countTimers start which).st.groups.keys = e.st.groups.keys := by
  refine List.foldlRecOn (motive := fun e' : Ev => e'.st.groups.wf GroupRec.reset = true
    ∧ e'.st.groups.keys = e.st.groups.keys) _ _ ⟨wf, rfl⟩ (fun e' h g _ => ?_)
  split
  · have counted : ∃ r : GroupRec, (e'.countGroup (start.group g) g).st = e'.st.setGroup g r := by
      unfold Ev.countGroup
      dsimp only
      split
      · exact ⟨_, Ev.evaluateGroup_st ..⟩
      · exact ⟨_, rfl⟩
    obtain ⟨r, heq⟩ := counted
    have record := (Ev.countGroup_ticks (start.group g) g e').group g
    rw [heq, State.setGroup_group, if_pos rfl, if_pos rfl] at record
    rw [heq]
    refine ⟨Table.wf_set _ _ _ _ h.1, (Table.keys_set h.1 ?_).trans h.2⟩
    change r = GroupRec.reset ↔ e'.st.group g = GroupRec.reset
    cases defined : (e'.st.group g).settings with
    | none => rw [record, GroupRec.tick_undefined g _ _ _ defined]
    | some d =>
      refine iff_of_false (fun k => ?_) fun k => ?_
      · have kept := GroupRec.tick_settings g e'.st.time.seconds e'.st.time.frame (start.group g) (e'.st.group g)
        rw [← record, k, defined] at kept
        cases kept
      · rw [k] at defined
        cases defined
  · exact h

/-- Group timers counted within an event are what R140 settles. -/
theorem Ev.TracksIn.countTimers {u : State} {e : Ev} {v : Settled} (h : e.TracksIn u v) (start : State)
    (which : Nat → Bool) : (e.countTimers start which).TracksIn u (v.countTimers start u which) := by
  have listed := Ev.countTimers_groups start which h.wf
  obtain ⟨rest, group, raised⟩ := Ev.foldl_groups (s := e.st)
    (f := fun e g => if which g then e.countGroup (start.group g) g else e)
    (met := fun g => if which g then (start.group g).tick g u.time.seconds u.time.frame (v.group g) else (v.group g, []))
    (fun e' g rest same => by
      rw [← h.tracks.group, ← same, ← h.entries.time, ← rest.time]
      split
      · exact Ev.countGroup_ticks _ g e'
      · exact Ev.setsGroup_unchanged e' g)
    (Table.keys_nodup _ _ h.wf) e rfl (fun _ _ => rfl)
  change e.st.SameButGroups (e.countTimers start which).st at rest
  change ∀ k, (e.countTimers start which).st.group k = _ at group
  change (e.countTimers start which).raised = _ at raised
  refine ⟨⟨fun n => ?_, fun g => ?_, fun n => ?_, fun p => ?_, ?_⟩, h.entries.trans (rest.entries listed.2), listed.1⟩
  · rw [rest.defect]; exact h.tracks.raw n
  · rw [group]
    split
    · rfl
    · rename_i unlisted
      have reset : v.group g = GroupRec.reset := (h.tracks.group g).symm.trans (Table.get_of_not_mem _ _ _ unlisted)
      rw [h.tracks.group]
      unfold Settled.countTimers
      dsimp only
      split
      · rw [reset, GroupRec.tick_undefined g _ _ _ rfl]
      · rfl
  · rw [rest.watch]; exact h.tracks.watch n
  · rw [rest.pattern]; exact h.tracks.pattern p
  · have more := h.tracks.raised.append (e' := e.countTimers start which) (ls := []) (gs := e.st.groups.keys.flatMap
        (fun g => (if which g then (start.group g).tick g u.time.seconds u.time.frame (v.group g)
          else (v.group g, [])).2)) rest.time rest.image
      (by rw [raised, State.notes_nil, List.append_nil]) (fun _ k => nomatch k) (fun b hb => by
        obtain ⟨g, -, hg⟩ := List.mem_flatMap.mp hb
        split at hg
        · exact GroupRec.tick_kinds _ _ _ _ _ b hg
        · cases hg)
    rw [List.append_nil, h.entries.listed] at more
    exact more

/-! ### Window ends (R115) -/

/-- One source's window end is the event of R113 in which its raw condition is derived. -/
theorem Ev.TracksIn.endWindowOf {u : State} {e : Ev} {v : Settled} (h : e.TracksIn u v) (n : Nat) {after : Nat → Cond}
    (derived : ((e.endWindowOf n).st.defect n).raw = after n) : (e.endWindowOf n).TracksIn u (v.event u [n] after) := by
  have judged : (e.modify (State.windowJudged n)).TracksIn u v := h.modify (fun m => by
    rw [State.windowJudged_defect]
    split
    · subst m; rfl
    · rfl) rfl rfl rfl rfl rfl rfl rfl
  have settled := judged.tracks.settleRaw judged.wf (List.nodup_singleton n)
  have raw : (e.st.windowJudged n).derivedRaw n = after n := by
    rw [← derived, Ev.endWindowOf_eq, Ev.settleRaw_defect, if_pos (List.mem_singleton_self n)]
    rfl
  rw [Settled.event_congr judged.entries, Settled.event_after_congr u (after' := after) (fun m hm => by
    rw [List.mem_singleton.mp hm]; exact raw)] at settled
  exact ⟨settled, judged.entries.trans (Ev.settleRaw_sameEntries judged.wf [n]), (Ev.settleRaw_groups judged.wf [n]).1⟩

/-- Sources that end their windows one after the other are so many events of R113; a source that is not evaluated changes
nothing in its turn. -/
theorem Ev.TracksIn.foldl_endWindowOf {u : State} {ks : List Nat} (nodup : ks.Nodup) {busy : Nat → Bool}
    {after : Nat → Cond} {e : Ev} {v : Settled} (h : e.TracksIn u v)
    (evaluated : ∀ n ∈ ks, busy n = true → (e.st.store n).state ≠ .idle)
    (raw : ∀ n ∈ ks, after n = if busy n then (e.st.windowDefect n).raw else (e.st.defect n).raw) :
    (ks.foldl (fun e n => if busy n then e.endWindowOf n else e) e).TracksIn u
      (ks.foldl (fun v n => v.event u [n] after) v) := by
  induction ks generalizing e v with
  | nil => exact h
  | cons n rest ih =>
    obtain ⟨fresh, nodup⟩ := List.nodup_cons.mp nodup
    rw [List.foldl_cons, List.foldl_cons]
    have own := raw n (List.mem_cons_self ..)
    have others := fun m hm => raw m (List.mem_cons_of_mem n hm)
    have evaluatedOthers := fun m hm => evaluated m (List.mem_cons_of_mem n hm)
    by_cases busyN : busy n = true
    · have notIdle := evaluated n (List.mem_cons_self ..) busyN
      have store : ∀ m ≠ n, (e.endWindowOf n).st.store m = e.st.store m :=
        fun m hm => (e.endWindowOf_store n m).trans (if_neg hm)
      rw [if_pos busyN] at own ⊢
      refine ih nodup (h.endWindowOf n (by rw [Ev.endWindowOf_defect n n e notIdle, if_pos rfl, own]))
        (fun m hm => ?_) fun m hm => ?_
      all_goals have other : m ≠ n := fun k => fresh (k ▸ hm)
      · rw [store m other]
        exact evaluatedOthers m hm
      · have rate := (e.endWindowOf_rateOf n m).trans (if_neg other)
        have defect := (e.endWindowOf_defect n m notIdle).trans (if_neg other)
        rw [others m hm, defect,
          (State.windowRecords_congr (Ev.endWindowOf_besideSources n e) (store m other) rate defect).2]
    · rw [if_neg busyN] at own ⊢
      rw [Settled.event_of_unchanged u (fun m hm => by rw [List.mem_singleton.mp hm, own, h.tracks.raw])]
      exact ih nodup h evaluatedOthers others

/-- A window end lists the stores it finds. -/
theorem Ev.windowEnd_storesKeys {e : Ev} (wf : e.st.stores.wf Store.reset = true) :
    e.windowEnd.st.stores.keys = e.st.stores.keys := by
  have wf' : e.windowEnd.st.stores.wf Store.reset = true :=
    List.foldlRecOn (motive := fun f : Ev => f.st.stores.wf Store.reset = true) _ _ wf fun f hf n _ => by
      rw [Ev.endWindowOf_eq, Ev.settleRaw_stores]
      exact Table.wf_set _ _ _ _ hf
  have rising : ∀ {t : Table Store}, t.wf Store.reset = true → risingKeys t.entries = true := fun h => by
    simp only [Table.wf, Bool.and_eq_true] at h
    exact h.1
  refine keys_eq_of_mem_iff (rising wf') (rising wf) fun n => ?_
  refine (Table.mem_keys _ _ wf' n).trans (Iff.trans (not_congr ?_) (Table.mem_keys _ _ wf n).symm)
  change e.windowEnd.st.store n = Store.reset ↔ e.st.store n = Store.reset
  rw [(Ev.windowEnd_records wf n).1]
  split
  · rfl
  · rename_i busy
    refine iff_of_false (fun k => busy ?_) fun k => busy ?_
    · exact (congrArg Store.state k :)
    · rw [k]; rfl

/-- A window end is one event of R113 for each listed store, in ascending number. -/
theorem Ev.TracksIn.windowEnd {u : State} {e : Ev} {v : Settled} (h : e.TracksIn u v)
    (wf : e.st.stores.wf Store.reset = true) : e.windowEnd.TracksIn u (e.windowEnd.st.stores.keys.foldl
      (fun v n => v.event u [n] (fun m => (e.windowEnd.st.defect m).raw)) v) := by
  have filtered : e.windowEnd
      = e.st.stores.keys.foldl (fun f n => if e.st.referencedNow n then f.endWindowOf n else f) e := List.foldl_filter ..
  have folded := h.foldl_endWindowOf (Table.keys_nodup _ _ wf) (busy := e.st.referencedNow)
    (after := fun m => (e.windowEnd.st.defect m).raw) (fun n _ busy => State.referencedNow_iff.mp busy) fun n _ => by
      rw [(Ev.windowEnd_records wf n).2.2]
      by_cases idle : (e.st.store n).state = .idle <;> simp [State.referencedNow, idle]
  rw [Ev.windowEnd_storesKeys wf]
  exact filtered ▸ folded

end Sys2Proof.Machine
end

section
/-! SUPPORT. An adoption brings an event in progress to what `State.settledAdoption` says (R89 to R92, R150 to R153, R119,
R120, R125). -/

namespace Sys2Proof.Machine

/-! ### The raw condition changes of an adoption (R113) -/

/-- The raw condition changes that the instructions of an adoption leave. -/
def State.adoptionChanges (p : PendingActivation) (s : State) : List RawChange :=
  (s.instructed p).rawChanges (adoptionTouched s.activeBank (s.bank p.bank) s (s.instructed p))

theorem State.instructed_raw (p : PendingActivation) (s : State) (n : Nat) :
    ((s.instructed p).defect n).raw = (s.defect n).raw := by
  refine (congrArg DefectRec.raw (Table.get_update DefectRec.reset s.defects _ _ n)).trans ?_
  split
  · unfold DefectRec.adopt
    split <;> rfl
  · rfl

/-- An adoption changes the raw conditions of exactly the sources whose records it hands on with another. -/
theorem State.adoptionChanges_eq {s : State} {p : PendingActivation} (pending : s.pendingAct = some p)
    (k : s.rate.pendingK = none) : ∃ changed : List Nat,
      s.adoptionChanges p = changed.map (fun n => ⟨n, (s.defect n).raw, (s.defectNext n).raw⟩)
      ∧ ∀ n, n ∈ changed ↔ (s.defect n).raw ≠ (s.defectNext n).raw := by
  have derived : ∀ n, s.adoptionTouches n → (s.instructed p).derivedRaw n = (s.defectNext n).raw := fun n touched => by
    rw [← State.adopted_defectNext pending k, State.adopted_defect_of_touched pending touched]
  refine ⟨_, (State.rawChanges_eq _ _).trans (List.map_congr_left fun n hn => ?_), fun n => ?_⟩
  · rw [derived n ((State.mem_touched_instructed pending n).mp (List.mem_of_mem_filter hn)), State.instructed_raw]
  · rw [List.mem_filter, State.mem_touched_instructed pending, bne_iff_ne, State.instructed_raw]
    by_cases touched : s.adoptionTouches n
    · rw [derived n touched]
      exact and_iff_right touched
    · rw [← State.adopted_defectNext pending k, State.adopted_defect_of_untouched pending touched]
      simp [touched]

/-! ### Groups (R150 to R153) -/

/-- Notices raised before a group takes its record come first. -/
theorem Ev.SetsGroup.of_raiseAll {e e' : Ev} {g : Nat} {met : GroupRec × List NoticeBody} {ms : List NoticeBody}
    (h : (e.raiseAll .protection ms).SetsGroup g met e') : e.SetsGroup g (met.1, ms ++ met.2) e' := by
  obtain ⟨rest, group, raised⟩ := h
  rw [Ev.raiseAll_st] at rest group raised
  exact ⟨rest, group, by rw [raised, Ev.raiseAll_notes, State.notes_append, List.append_assoc]⟩

/-- The reconciliation of one group, as R150 to R153 say it. -/
theorem Ev.reconcileGroup_setsGroup {s : State} {e : Ev} {g : Nat} {changed : List Nat}
    (hc : ∀ n, n ∈ changed ↔ (s.defect n).raw ≠ (s.defectNext n).raw) (group : e.st.group g = s.group g)
    (raw : ∀ n, (e.st.defect n).raw = (s.defectNext n).raw) :
    e.SetsGroup g (s.groupNext e.st.time.seconds e.st.time.frame g) (e.reconcileGroup s.activeBank s.bankNext
      (changed.map (fun n => ⟨n, (s.defect n).raw, (s.defectNext n).raw⟩)) g) := by
  have fresh : ∀ d : GroupDef, freshGroup e.st d = ⟨some d, .working, [],
      ⟨(s.defectNext d.working).raw, (s.defectNext d.working).raw, 0⟩,
      ⟨(s.defectNext d.protect).raw, (s.defectNext d.protect).raw, 0⟩, 0, .noRequest, 0, none, false, false⟩ := by
    intro d
    unfold freshGroup
    rw [raw, raw]
    rfl
  have removal : ((s.group g).counted (s.group g)).removalNotices g
      = (s.group g).requests.map (fun q => .requestDisplaced g q.kind q.origin .groupRemoved)
        ++ if (s.group g).selection = .protect then [.groupSwitch g .protect .working .groupRemoved] else [] := by
    unfold GroupRec.removalNotices GroupRec.counted
    split <;> rfl
  unfold Ev.reconcileGroup State.groupNext
  dsimp only
  rw [group, GroupRec.countTimers_eq]
  cases s.activeBank.groupDef g with
  | none =>
    cases s.bankNext.groupDef g with
    | none => exact group ▸ Ev.setsGroup_unchanged e g
    | some d =>
      dsimp only [groupClass]
      rw [fresh]
      exact Ev.setsGroup_evaluate e g _
  | some o =>
    cases s.bankNext.groupDef g with
    | none =>
      dsimp only [groupClass]
      rw [← removal]
      exact Ev.setsGroup_raiseAll (Ev.setsGroup_modify e g _) _
    | some d =>
      by_cases kept : o.width = d.width ∧ o.working = d.working ∧ o.protect = d.protect
      · have cls : groupClass (some o) (some d) = .kept d := by simp [groupClass, kept]
        rw [cls]
        dsimp only
        rw [if_pos kept]
        unfold GroupRec.takeChanges
        dsimp only
        rw [SideRec.take_eq_meets hc, SideRec.take_eq_meets hc]
        exact Ev.setsGroup_evaluate e g _
      · have cls : groupClass (some o) (some d) = .redefined d := by
          refine if_neg fun h => kept ?_
          simpa [and_assoc] using h
        rw [cls]
        dsimp only
        rw [if_neg kept, ← fresh d, ← removal]
        have evaluated := Ev.setsGroup_evaluate (e.raiseAll .protection
          (((s.group g).counted (s.group g)).removalNotices g)) g (freshGroup e.st d)
        rw [Ev.raiseAll_st] at evaluated
        exact evaluated.of_raiseAll

/-- A sorted list holds each number once. -/
theorem sortedUnique_nodup (l : List Nat) : (sortedUnique l).Nodup := by
  have insert : ∀ (n : Nat) (acc : List Nat), acc.Pairwise (· < ·) → (insertSorted n acc).Pairwise (· < ·) := by
    intro n acc sorted
    induction acc with
    | nil => simp [insertSorted]
    | cons m rest ih =>
      obtain ⟨first, sortedRest⟩ := List.pairwise_cons.mp sorted
      unfold insertSorted
      split
      · rename_i below
        refine List.pairwise_cons.mpr ⟨fun k hk => ?_, sorted⟩
        rcases List.mem_cons.mp hk with rfl | hk
        · exact below
        · exact below.trans (first k hk)
      · split
        · exact sorted
        · refine List.pairwise_cons.mpr ⟨fun k hk => ?_, ih sortedRest⟩
          rcases mem_insertSorted.mp hk with rfl | hk
          · omega
          · exact first k hk
  have sorted : (sortedUnique l).Pairwise (· < ·) :=
    List.foldlRecOn (motive := fun acc : List Nat => acc.Pairwise (· < ·)) l _ .nil fun acc h n _ => insert n acc h
  exact sorted.imp fun h => Nat.ne_of_lt h

/-- A group that neither bank defines is no part of an adoption (R150). -/
theorem State.groupNext_undefined {s : State} {g : Nat}
    (h : g ∉ sortedUnique (s.activeBank.groups.keys ++ s.bankNext.groups.keys)) (sec : Word) (fr : Nat) : s.groupNext sec fr g = (s.group g, []) := by
  rw [mem_sortedUnique, List.mem_append, not_or] at h
  have old : s.activeBank.groupDef g = none := Table.get_of_not_mem none _ _ h.1
  have new : s.bankNext.groupDef g = none := Table.get_of_not_mem none _ _ h.2
  unfold State.groupNext
  simp only [old, new]

theorem Ev.reconcile_wf (old new : Bank) (cs : List RawChange) {e : Ev} (wf : e.st.groups.wf GroupRec.reset = true) :
    (e.reconcile old new cs).st.groups.wf GroupRec.reset = true := by
  refine List.foldlRecOn (motive := fun e : Ev => e.st.groups.wf GroupRec.reset = true) _ _ wf fun e h g _ => ?_
  unfold Ev.reconcileGroup
  dsimp only
  split
  case h_1 => exact h
  case h_2 =>
    rw [Ev.raiseAll_st]
    exact Table.wf_set _ _ _ _ h
  case h_3 | h_4 =>
    rw [Ev.evaluateGroup_st]
    exact Table.wf_set _ _ _ _ h
  case h_5 =>
    rw [Ev.evaluateGroup_st, Ev.raiseAll_st]
    exact Table.wf_set _ _ _ _ h

/-- The event of an adoption up to its groups. -/
def Ev.adoptGroups (p : PendingActivation) (e : Ev) : Ev :=
  (e.modify (State.adopted p)).reconcile e.st.activeBank (e.st.bank p.bank) (e.st.adoptionChanges p)

/-- The event of an adoption up to its report. -/
def Ev.adoptEvaluated (p : PendingActivation) (e : Ev) : Ev :=
  ((e.adoptGroups p).st.watches.keys.foldl (fun f n => f.evalWatchAtAdoption (e.st.adoptionChanges p) n)
    (e.adoptGroups p)).evalPatterns

/-- The report of an adoption made in a state, and where start-up finishes at it, START (R92, R182, R183). -/
def Ev.reportAdoption (p : PendingActivation) (s : State) (e : Ev) : Ev :=
  if s.image.finished then e.raise .switch (.bankActivated p.bank p.revision s.active)
  else (e.raise .switch (.bankActivated p.bank p.revision s.active)).modify State.finishStartUp

theorem Ev.adopt_eq (p : PendingActivation) (e : Ev) : e.adopt p = (e.adoptEvaluated p).reportAdoption p e.st := rfl

theorem adoptionWatches_ofTwoBlocks (cs : List RawChange) :
    Ev.OfTwoBlocks (fun e => e.st.watches.keys.foldl (fun f n => f.evalWatchAtAdoption cs n) e) :=
  .byState (f := fun s e => s.watches.keys.foldl (fun f n => f.evalWatchAtAdoption cs n) e) fun s =>
    .foldl (f := fun n f => f.evalWatchAtAdoption cs n) (Ev.evalWatchAtAdoption_ofTwoBlocks cs) s.watches.keys

theorem Ev.adoptEvaluated_ofTwoBlocks (p : PendingActivation) : Ev.OfTwoBlocks (Ev.adoptEvaluated p) := by
  intro e
  have groups : Ev.OfTwoBlocks (fun f => (f.modify (State.adopted p)).reconcile e.st.activeBank (e.st.bank p.bank)
      (e.st.adoptionChanges p)) := (Ev.OfTwoBlocks.modify _).comp (Ev.reconcile_ofTwoBlocks _ _ _)
  exact ((groups.comp (adoptionWatches_ofTwoBlocks (e.st.adoptionChanges p))).comp Ev.evalPatterns_ofTwoBlocks) e

/-! ### Watches at an adoption (R119, R120) -/

theorem find_changes (before after : Nat → Cond) (changed : List Nat) (n : Nat) :
    (changed.map (fun m => (⟨m, before m, after m⟩ : RawChange))).find? (fun c => decide (c.source = n))
      = if n ∈ changed then some ⟨n, before n, after n⟩ else none := by
  induction changed with
  | nil => rfl
  | cons m rest ih =>
    rw [List.map_cons, List.find?_cons]
    by_cases hm : m = n
    · subst hm; simp
    · simpa [hm, Ne.symm hm] using ih

/-- A watch at an adoption latches where it fires: LEVEL on its condition, CHANGE on a change of its level. -/
theorem Ev.evalWatchAtAdoption_eq {before after : Nat → Cond} {changed : List Nat}
    (hc : ∀ n, n ∈ changed ↔ before n ≠ after n) (e : Ev) (n : Nat) (raw : (e.st.defect n).raw = after n) :
    e.evalWatchAtAdoption (changed.map (fun m => ⟨m, before m, after m⟩)) n
      = if e.st.watchFires (before n) (after n) n then e.latchWatch n else e := by
  have off : (e.st.watch n).enabled = false → e.latchWatch n = e := fun off => by simp [Ev.latchWatch, off]
  unfold Ev.evalWatchAtAdoption Ev.evalLevelWatch State.watchHolds State.isTransition State.watchFires
  rw [find_changes, raw]
  cases type : (e.st.watch n).type with
  | level => cases on : (e.st.watch n).enabled <;> simp [off, on, type]
  | change =>
    by_cases changes : n ∈ changed
    · cases on : (e.st.watch n).enabled <;> simp [off, on, type, changes]
    · have same : before n = after n := not_not.mp (mt (hc n).mpr changes)
      simp [changes, type, same]

/-- The watches of a list latch at an adoption where they fire (R119 to R121). -/
theorem Ev.evalWatchesAtAdoption_latches {before after : Nat → Cond} {changed : List Nat}
    (hc : ∀ n, n ∈ changed ↔ before n ≠ after n) {s : State} (raw : ∀ n, (s.defect n).raw = after n) {ks : List Nat}
    (nodup : ks.Nodup) (e : Ev) (h : s.SameMonitor e.st) :
    let e' := ks.foldl (fun f n => f.evalWatchAtAdoption (changed.map (fun m => ⟨m, before m, after m⟩)) n) e
    s.SameMonitor e'.st
      ∧ (∀ n, (e'.st.watch n).latch
        = ((e.st.watch n).latch || (decide (n ∈ ks) && s.watchFires (before n) (after n) n)))
      ∧ e'.raised = e.raised ++ s.notes .monitor
        ((ks.filter (fun n => !(e.st.watch n).latch && s.watchFires (before n) (after n) n)).map
          (fun n => .watch n (s.watch n).cls ((s.watch n).level.value (after n)))) := by
  dsimp only
  refine Ev.foldl_latches (inv := s.SameMonitor) (latch := fun u n => (u.watch n).latch) (s := s)
    (fun u hu => ⟨hu.1.time, hu.1.image⟩) (fun e n he => ?_) ks nodup e h
  have step := Ev.evalWatchAtAdoption_eq hc e n ((he.2 n).trans (raw n))
  rw [he.1.watchFires] at step
  rw [step]
  cases fires : s.watchFires (before n) (after n) n
  · exact ⟨he, by simp, by simp⟩
  · have enabled : (e.st.watch n).enabled = true := by
      rw [(he.1.watch_fields n).1]
      simp only [State.watchFires, Bool.and_eq_true] at fires
      exact fires.1.1
    obtain ⟨kept, latched, raised⟩ := Ev.latchWatch_latches he n enabled
    exact ⟨kept, by simpa using latched, by simpa [raw n] using raised⟩

theorem Ev.foldl_evalWatchAtAdoption_rest (cs : List RawChange) (ks : List Nat) (e : Ev) :
    { (ks.foldl (fun f n => f.evalWatchAtAdoption cs n) e).st with watches := e.st.watches } = e.st := by
  refine List.foldlRecOn (motive := fun e' : Ev => { e'.st with watches := e.st.watches } = e.st) ks _ rfl
    (fun e' he' n _ => ?_)
  have step : { (e'.evalWatchAtAdoption cs n).st with watches := e'.st.watches } = e'.st := by
    unfold Ev.evalWatchAtAdoption Ev.evalLevelWatch
    split
    · split <;> [exact Ev.latchWatch_rest _ _; rfl]
    · split
      · split <;> [exact Ev.latchWatch_rest _ _; rfl]
      · rfl
  rw [← he']
  exact (congrArg (fun u : State => { u with watches := e.st.watches }) step :)

/-- The watches and then the pattern sets latch at an adoption where they fire (R119, R120, R125). -/
theorem Ev.adoptionEvaluations_latch {before after : Nat → Cond} {changed : List Nat}
    (hc : ∀ n, n ∈ changed ↔ before n ≠ after n) {e : Ev} {ks : List Nat} (nodup : ks.Nodup)
    (raw : ∀ n, (e.st.defect n).raw = after n) :
    let e' := (ks.foldl (fun f n => f.evalWatchAtAdoption (changed.map (fun m => ⟨m, before m, after m⟩)) n)
      e).evalPatterns
    { e'.st with watches := e.st.watches, patterns := e.st.patterns } = e.st
      ∧ e.st.SameEntries e'.st
      ∧ (∀ n, (e'.st.watch n).latch
        = ((e.st.watch n).latch || (decide (n ∈ ks) && e.st.watchFires (before n) (after n) n)))
      ∧ (∀ p, (e'.st.pattern p).latch = ((e.st.pattern p).latch || e.st.patternFires after p))
      ∧ e'.raised = e.raised ++ e.st.notes .monitor
        ((ks.filter (fun n => !(e.st.watch n).latch && e.st.watchFires (before n) (after n) n)).map
          (fun n => .watch n (e.st.watch n).cls ((e.st.watch n).level.value (after n)))
        ++ ((List.range 8).filter (fun p => !(e.st.pattern p).latch && e.st.patternFires after p)).map
          (fun p => .pattern p (e.st.pattern p).cls)) := by
  have watches := Ev.evalWatchesAtAdoption_latches hc raw nodup e ⟨.refl _, fun _ => rfl⟩
  have watchesRest := Ev.foldl_evalWatchAtAdoption_rest (changed.map (fun m => ⟨m, before m, after m⟩)) ks e
  dsimp only at watches ⊢
  generalize ks.foldl (fun f n => f.evalWatchAtAdoption (changed.map (fun m => ⟨m, before m, after m⟩)) n) e = e2
    at watches watchesRest ⊢
  obtain ⟨same, latched, raised⟩ := watches
  have setsRest := Ev.evalPatterns_rest e2
  have sets := Ev.evalPatterns_latches raw e2 same
  generalize e2.evalPatterns = e3 at sets setsRest ⊢
  obtain ⟨sameSets, latchedSets, raisedSets⟩ := sets
  have pattern : ∀ p, e2.st.pattern p = e.st.pattern p := fun p => (congrArg (fun u : State => u.pattern p) watchesRest :)
  refine ⟨?_, sameSets.1, fun n => ?_, fun p => ?_, ?_⟩
  · exact (congrArg (fun u : State => { u with watches := e.st.watches, patterns := e.st.patterns }) setsRest :).trans
      (congrArg (fun u : State => { u with patterns := e.st.patterns }) watchesRest :)
  · rw [← latched]
    exact (congrArg (fun u : State => (u.watch n).latch) setsRest :)
  · rw [latchedSets, pattern]
  · rw [raisedSets, raised, State.notes_append, List.append_assoc]
    simp only [pattern]

/-! ### The whole adoption -/

section Adopting

variable {p : PendingActivation} {e : Ev} (pending : e.st.pendingAct = some p) (k : e.st.rate.pendingK = none)
include pending k

/-- What the reconciliation of groups is called with. -/
theorem Ev.adoptGroups_eq : ∃ changed : List Nat,
    e.st.adoptionChanges p = changed.map (fun n => ⟨n, (e.st.defect n).raw, (e.st.defectNext n).raw⟩)
      ∧ (∀ n, n ∈ changed ↔ (e.st.defect n).raw ≠ (e.st.defectNext n).raw)
      ∧ e.adoptGroups p = (sortedUnique (e.st.activeBank.groups.keys ++ e.st.bankNext.groups.keys)).foldl
        (fun f g => f.reconcileGroup e.st.activeBank e.st.bankNext
          (changed.map (fun n => ⟨n, (e.st.defect n).raw, (e.st.defectNext n).raw⟩)) g) (e.modify (State.adopted p)) := by
  obtain ⟨changed, changes, hc⟩ := State.adoptionChanges_eq pending k
  refine ⟨changed, changes, hc, ?_⟩
  unfold Ev.adoptGroups Ev.reconcile
  rw [← changes, State.bankNext_of_some pending]

/-- Every group when an adoption has reconciled them all (R150). -/
theorem Ev.adoptGroups_reconciled : (e.st.adopted p).SameButGroups (e.adoptGroups p).st
    ∧ (∀ g, (e.adoptGroups p).st.group g = (e.st.groupNext e.st.time.seconds e.st.time.frame g).1)
    ∧ (e.adoptGroups p).raised = e.raised ++ e.st.notes .protection
      ((sortedUnique (e.st.activeBank.groups.keys ++ e.st.bankNext.groups.keys)).flatMap
        (fun g => (e.st.groupNext e.st.time.seconds e.st.time.frame g).2)) := by
  have beside := e.st.adopted_besideAdoption p
  have time : (e.st.adopted p).time = e.st.time := (congrArg State.time beside :)
  have image : (e.st.adopted p).image = e.st.image := (congrArg State.image beside :)
  have group : ∀ g, (e.st.adopted p).group g = e.st.group g := fun g => (congrArg (fun u : State => u.group g) beside :)
  obtain ⟨changed, -, hc, folded⟩ := Ev.adoptGroups_eq pending k
  obtain ⟨rest, groups, raised⟩ := Ev.foldl_groups (s := e.st.adopted p)
    (met := e.st.groupNext e.st.time.seconds e.st.time.frame)
    (fun f g rest same => by
      have met := Ev.reconcileGroup_setsGroup hc (same.trans (group g)) fun n => by
        rw [rest.defect, State.adopted_defectNext pending k]
      rw [rest.time, time] at met
      exact met)
    (sortedUnique_nodup (e.st.activeBank.groups.keys ++ e.st.bankNext.groups.keys)) (e.modify (State.adopted p)) rfl
    (fun _ _ => rfl)
  rw [← folded] at rest groups raised
  refine ⟨rest, fun g => (groups g).trans ?_, raised.trans ?_⟩
  · split
    · rfl
    · rw [State.groupNext_undefined ‹_›]
      exact group g
  · rw [State.notes_congr time image]
    rfl

end Adopting

/-- What an adoption settles reads a state's site time, heads and entries. -/
theorem State.settledAdoption_congr {s u t : State} (h : u.SameEntries t) : s.settledAdoption t = s.settledAdoption u := by
  unfold State.settledAdoption
  rw [h.watchFires, h.patternFires, h.latchNotices, h.time]

theorem State.groupNext_kinds (s : State) (sec : Word) (fr : Nat) (g : Nat) :
    ∀ b ∈ (s.groupNext sec fr g).2, b.kindCode = 2 ∨ b.kindCode = 3 := by
  have removal : ∀ b ∈ (s.group g).requests.map (fun q => NoticeBody.requestDisplaced g q.kind q.origin .groupRemoved)
      ++ (if (s.group g).selection = .protect then [.groupSwitch g .protect .working .groupRemoved] else []),
      b.kindCode = 2 ∨ b.kindCode = 3 := (s.group g).removalNotices_kinds g
  unfold State.groupNext
  dsimp only
  split
  · exact fun _ h => nomatch h
  · exact removal
  · exact GroupRec.evaluate_notices
  · split
    · exact GroupRec.evaluate_notices
    · intro b hb
      rcases List.mem_append.mp hb with hb | hb
      · exact removal b hb
      · exact GroupRec.evaluate_notices b hb

/-- A watch that is not listed does not fire. -/
theorem State.watchFires_unlisted {s : State} {n : Nat} (h : n ∉ s.watches.keys) (before after : Cond) :
    s.watchFires before after n = false := by
  have reset : s.watch n = Watch.reset := Table.get_of_not_mem Watch.reset _ _ h
  unfold State.watchFires
  rw [reset]
  rfl

theorem Ev.adoptEvaluated_eq {p : PendingActivation} {e : Ev} {cs : List RawChange} (h : e.st.adoptionChanges p = cs) :
    e.adoptEvaluated p = ((e.adoptGroups p).st.watches.keys.foldl (fun f n => f.evalWatchAtAdoption cs n)
      (e.adoptGroups p)).evalPatterns := by
  subst h
  rfl

/-- What an adoption's instructions and its groups leave of time, image store, watches and pattern sets, and the raw
conditions they hand on. -/
theorem Ev.adoptGroups_state {p : PendingActivation} {e : Ev} (pending : e.st.pendingAct = some p)
    (k : e.st.rate.pendingK = none) :
    (e.adoptGroups p).st.time = e.st.time ∧ (e.adoptGroups p).st.image = e.st.image
      ∧ (e.adoptGroups p).st.watches = e.st.watches ∧ (e.adoptGroups p).st.patterns = e.st.patterns
      ∧ (∀ n, ((e.adoptGroups p).st.defect n).raw = (e.st.defectNext n).raw)
      ∧ (e.st.groups.wf GroupRec.reset = true → (e.adoptGroups p).st.groups.wf GroupRec.reset = true) := by
  have beside := e.st.adopted_besideAdoption p
  have time : (e.st.adopted p).time = e.st.time := (congrArg State.time beside :)
  have image : (e.st.adopted p).image = e.st.image := (congrArg State.image beside :)
  have groups : (e.st.adopted p).groups = e.st.groups := (congrArg State.groups beside :)
  have watches : (e.st.adopted p).watches = e.st.watches := (congrArg State.watches beside :)
  have patterns : (e.st.adopted p).patterns = e.st.patterns := (congrArg State.patterns beside :)
  have rest := (Ev.adoptGroups_reconciled pending k).1
  refine ⟨rest.time.trans time, rest.image.trans image, rest.watches.trans watches, rest.patterns.trans patterns,
    fun n => ?_, fun wf => ?_⟩
  · rw [rest.defect, State.adopted_defectNext pending k]
  · exact Ev.reconcile_wf _ _ _ (by rw [Ev.modify_st, groups]; exact wf)

/-- A latch is taken anew where it was not set and fires. -/
theorem latchesAnew (latch fires : Bool) : (!latch && fires) = (!latch && (latch || fires)) := by
  cases latch <;> rfl

/-- An adoption up to its report is what R150, R119, R120 and R125 settle. -/
theorem Ev.adoptEvaluated_tracks {p : PendingActivation} {e : Ev} (pending : e.st.pendingAct = some p)
    (k : e.st.rate.pendingK = none) (tracks : e.Tracks e.st.settled) (groupsWf : e.st.groups.wf GroupRec.reset = true)
    (watchesWf : e.st.watches.wf Watch.reset = true) {u : State} (entries : u.SameEntries (e.adoptEvaluated p).st) :
    (e.adoptEvaluated p).TracksIn u (e.st.settledAdoption u) := by
  obtain ⟨changed, changes, hc, -⟩ := Ev.adoptGroups_eq pending k
  obtain ⟨-, group, raised⟩ := Ev.adoptGroups_reconciled pending k
  obtain ⟨time, image, watches, patterns, raw, wf⟩ := Ev.adoptGroups_state pending k
  have latches := Ev.adoptionEvaluations_latch hc (e := e.adoptGroups p) (ks := (e.adoptGroups p).st.watches.keys)
    (by rw [watches]; exact Table.keys_nodup _ _ watchesWf) raw
  dsimp only at latches
  rw [← Ev.adoptEvaluated_eq changes] at latches
  rw [← State.settledAdoption_congr entries]
  generalize e.adoptEvaluated p = e3 at latches entries ⊢
  generalize e.adoptGroups p = e2 at *
  obtain ⟨stays, same, watch, pattern, notes⟩ := latches
  have groups : e3.st.groups = e2.st.groups := (congrArg State.groups stays :)
  have defects : e3.st.defects = e2.st.defects := (congrArg State.defects stays :)
  have watchOf : ∀ n, e2.st.watch n = e.st.watch n := fun n => by rw [State.watch, watches]; rfl
  have patternOf : ∀ q, e2.st.pattern q = e.st.pattern q := fun q => by rw [State.pattern, patterns]; rfl
  rw [State.settledAdoption_congr same]
  refine ⟨⟨fun n => ?_, fun g => ?_, fun n => (watch n).trans ?_, fun q => (pattern q).trans ?_, ?_⟩, entries,
    by rw [groups]; exact wf groupsWf⟩
  · rw [State.defect, defects]; exact raw n
  · rw [State.group, groups]
    refine (group g).trans ?_
    rw [← time]
    rfl
  · rw [watchOf, watches]
    show _ = ((e.st.watch n).latch || e2.st.watchFires (e.st.defect n).raw (e.st.defectNext n).raw n)
    by_cases listed : n ∈ e.st.watches.keys
    · rw [decide_eq_true listed, Bool.true_and]
    · rw [State.watchFires_unlisted (by rw [watches]; exact listed), Bool.and_false]
  · rw [patternOf]
    rfl
  · have kinds := State.latchNotices_kinds e2.st e.st.settled (e.st.settledAdoption e2.st) e.st.watches.keys
    have more := (tracks.raised.append (e' := e3)
      (gs := (sortedUnique (e.st.activeBank.groups.keys ++ e.st.bankNext.groups.keys)).flatMap
        (fun g => (e.st.groupNext e2.st.time.seconds e2.st.time.frame g).2))
      ((congrArg State.time stays :).trans time) ((congrArg State.image stays :).trans image) ?_ kinds
      (fun b hb => ?_))
    · exact more
    · rw [notes, raised, State.notes_congr time image, List.append_assoc, time]
      refine congrArg _ (congrArg _ (congrArg _ (congrArg₂ _ (congrArg _ ?_) (congrArg _ ?_))))
      · rw [watches]
        refine List.filter_congr fun n _ => ?_
        rw [watchOf]
        exact latchesAnew _ _
      · refine List.filter_congr fun q _ => ?_
        rw [patternOf]
        exact latchesAnew _ _
    · obtain ⟨g, -, hb⟩ := List.mem_flatMap.mp hb
      exact State.groupNext_kinds _ _ _ _ b hb

end Sys2Proof.Machine
end

section
/-! SUPPORT. A boundary that is a window end, whole: what it settles (`State.settledAt`), and how its notices reach the
links (R16, R44, R92, R137, R140, R168). -/

namespace Sys2Proof.Machine

/-! ### What is settled, read from another state -/

/-- One event of R113 for each listed store of a state, in ascending number, with the raw conditions that state holds; the
entries are those of `u`. -/
def Settled.endWindows (u t : State) (v : Settled) : Settled :=
  t.stores.keys.foldl (fun v n => v.event u [n] (fun m => (t.defect m).raw)) v

theorem Settled.windowEnd_eq {s : State} (ends : s.endsWindow) (t : State) (v : Settled) :
    v.windowEnd s t = v.endWindows t t := if_pos ends

section Congruence

variable {u u' : State} (entries : u.SameEntries u')
include entries

theorem Settled.countTimers_congr (s : State) (which : Nat → Bool) (v : Settled) :
    v.countTimers s u' which = v.countTimers s u which := by
  unfold Settled.countTimers
  rw [entries.time, entries.listed]

theorem Settled.endWindows_congr {t t' : State} (stores : t'.stores = t.stores) (defects : t'.defects = t.defects)
    (v : Settled) : v.endWindows u' t' = v.endWindows u t := by
  unfold Settled.endWindows State.defect
  rw [stores, defects]
  congr 1
  funext w n
  exact Settled.event_congr entries _ _ w

end Congruence

/-- The end of start-up leaves what an adoption settles. -/
theorem State.settledAdoption_finishStartUp (s u : State) : s.settledAdoption u.finishStartUp = s.settledAdoption u := by
  unfold State.finishStartUp
  dsimp only
  split <;> rfl

/-! ### The beginning of a boundary -/

theorem Ev.st_of_own_eq {e f : Ev} (h : e.own = f) : e.st = f.st :=
  e.own_st.symm.trans (congrArg Ev.st h)

theorem Ev.beginTiming_own (timing : Option Bool) (s : State) :
    ((Ev.start s).beginTiming timing).own = Ev.start s.beginBoundary := by
  cases timing with
  | none => rfl
  | some regained => exact (Ev.raise_foreign rfl _ (Ev.start s.beginBoundary)).1

theorem Ev.beginTiming_foreign (timing : Option Bool) (s : State) : ∀ q ∈ ((Ev.start s).beginTiming timing).foreign,
    s.image.finished = true ∧ 4 ≤ q.2.body.kindCode := by
  cases timing with
  | none => exact fun _ h => nomatch h
  | some regained =>
    intro q hq
    rcases (Ev.raise_foreign rfl _ (Ev.start s.beginBoundary)).2 q hq with h | ⟨finished, body⟩
    · cases h
    · rw [body]
      exact ⟨finished, by simp [NoticeBody.kindCode]⟩

theorem State.applyExponent_of_none {s : State} (k : s.rate.pendingK = none) : s.applyExponent = s := by
  unfold State.applyExponent
  rw [k]

/-- Without a pending exponent the windows run on. -/
theorem Ev.beforeDecisions_eq {s : State} (k : s.rate.pendingK = none) (timing : Option Bool) :
    (Ev.start s).beforeDecisions timing = ((Ev.start s).beginTiming timing).adoptOrCount s := by
  have stays : ((Ev.start s).beginTiming timing).st.applyExponent = ((Ev.start s).beginTiming timing).st :=
    State.applyExponent_of_none (by rw [Ev.beginTiming_st]; exact k)
  generalize he : (Ev.start s).beginTiming timing = e at stays ⊢
  unfold Ev.beforeDecisions Ev.modify
  rw [he, stays, Ev.start_st]

/-- An adoption up to its report leaves links, time and image store, and raises no notice of kind 4 or up. -/
theorem Ev.adoptEvaluated_raises (p : PendingActivation) (e : Ev) : Ev.Raises [] e (e.adoptEvaluated p) := by
  have rest := e.st.adopted_besideAdoption p
  have told : Ev.Raises [] e (e.modify (State.adopted p)) := .modify e (congrArg State.linkA rest :)
    (congrArg State.linkB rest :) (congrArg State.image rest :) (congrArg State.time rest :)
  have groups : Ev.Raises [] e (e.adoptGroups p) := told.trans (.of_quiet (Ev.reconcile_quiet _ _ _ _))
  exact (groups.trans (.of_quiet (Ev.Quiet.foldl (fun e n => Ev.evalWatchAtAdoption_quiet _ n e) _ _))).trans
    (.of_quiet (Ev.evalPatterns_quiet _))

/-- The report of an adoption joins the notices of the other blocks, unless start-up only finishes at it. -/
theorem Ev.reportAdoption_foreign (p : PendingActivation) (s : State) (e : Ev) :
    (e.reportAdoption p s).own = (if s.image.finished then e.own else e.own.modify State.finishStartUp)
      ∧ ∀ q ∈ (e.reportAdoption p s).foreign, q ∈ e.foreign ∨ e.st.image.finished = true ∧ 4 ≤ q.2.body.kindCode := by
  obtain ⟨own, foreign⟩ := Ev.raise_foreign (b := .switch) rfl (.bankActivated p.bank p.revision s.active) e
  have kinds : ∀ q ∈ (e.raise .switch (.bankActivated p.bank p.revision s.active)).foreign,
      q ∈ e.foreign ∨ e.st.image.finished = true ∧ 4 ≤ q.2.body.kindCode := fun q hq =>
    (foreign q hq).imp_right fun ⟨finished, body⟩ => ⟨finished, by rw [body]; simp [NoticeBody.kindCode]⟩
  unfold Ev.reportAdoption
  split
  · exact ⟨own, kinds⟩
  · exact ⟨congrArg (Ev.modify · State.finishStartUp) own, kinds⟩

/-- What the report leaves of an event. -/
theorem Ev.reportAdoption_st (p : PendingActivation) (s : State) (e : Ev) :
    (e.reportAdoption p s).st = if s.image.finished then e.st else e.st.finishStartUp := by
  unfold Ev.reportAdoption
  split
  · exact Ev.raise_st _ _ _
  · rw [Ev.modify_st, Ev.raise_st]

/-- Where start-up finishes, nothing was raised before, and the event goes on with what is settled without notices. -/
theorem Ev.TracksIn.finishStartUp {e : Ev} {v : Settled} (h : e.Tracks v) (wf : e.st.groups.wf GroupRec.reset = true)
    (unfinished : e.st.image.finished = false) : (e.modify State.finishStartUp).TracksIn e.st.finishStartUp
      { v with monitor := [], protection := [] } := by
  have silent := h.raised.silent unfinished
  have same : e.st.finishStartUp.defects = e.st.defects ∧ e.st.finishStartUp.groups = e.st.groups
      ∧ e.st.finishStartUp.watches = e.st.watches ∧ e.st.finishStartUp.patterns = e.st.patterns := by
    unfold State.finishStartUp
    dsimp only
    split <;> exact ⟨rfl, rfl, rfl, rfl⟩
  obtain ⟨defects, groups, watches, patterns⟩ := same
  have raised : (e.modify State.finishStartUp).raised = [] := silent
  refine ⟨⟨fun n => ?_, fun g => ?_, fun n => ?_, fun q => ?_, ?_⟩, .refl _, by rw [Ev.modify_st, groups]; exact wf⟩
  · rw [Ev.modify_st, State.defect, defects]; exact h.raw n
  · rw [Ev.modify_st, State.group, groups]; exact h.group g
  · rw [Ev.modify_st, State.watch, watches]; exact h.watch n
  · rw [Ev.modify_st, State.pattern, patterns]; exact h.pattern q
  · generalize e.modify State.finishStartUp = e' at raised
    cases e'
    cases raised
    exact .start _

/-- What comes before the decisions is settled by the timers counted first, where nothing is adopted. -/
theorem Ev.beforeDecisions_counted {s : State} (k : s.rate.pendingK = none) (idle : s.pendingAct = none)
    (wf : s.groups.wf GroupRec.reset = true) (timing : Option Bool) :
    ((Ev.start s).beforeDecisions timing).own.TracksIn s.beginBoundary
      (s.settled.countTimers s s.beginBoundary s.timersFirst) := by
  have begun : (Ev.start s.beginBoundary).TracksIn s.beginBoundary s.settled := ⟨.start s.beginBoundary, .refl _, wf⟩
  rw [Ev.beforeDecisions_eq k]
  unfold Ev.adoptOrCount
  rw [idle]
  refine .ofTwoBlocks (Ev.countTimers_ofTwoBlocks s s.timersFirst) ?_
  rw [Ev.beginTiming_own]
  exact begun.countTimers s s.timersFirst

/-- What an adoption settles is alike before and after the site time and the waits are counted. -/
theorem State.settledAdoption_beginBoundary (s u : State) : s.beginBoundary.settledAdoption u = s.settledAdoption u := rfl

/-- What comes before the decisions is settled by the adoption, where there is one. -/
theorem Ev.beforeDecisions_adopted {s : State} {p : PendingActivation} (k : s.rate.pendingK = none)
    (pending : s.pendingAct = some p) (wf : s.groups.wf GroupRec.reset = true)
    (watchesWf : s.watches.wf Watch.reset = true) (timing : Option Bool) :
    let e := (Ev.start s).beforeDecisions timing
    e.own.TracksIn e.st (if s.image.finished then s.settledAdoption e.st
      else { s.settledAdoption e.st with monitor := [], protection := [] }) := by
  have image := Ev.adoptEvaluated_raises p (Ev.start s.beginBoundary)
  have begun := fun u => Ev.adoptEvaluated_tracks (e := Ev.start s.beginBoundary) pending k (.start _) wf watchesWf (u := u)
  have evaluated := (Ev.adoptEvaluated_ofTwoBlocks p ((Ev.start s).beginTiming timing)).1
  have whole : (Ev.start s).beforeDecisions timing = (((Ev.start s).beginTiming timing).adoptEvaluated p).reportAdoption p
      ((Ev.start s).beginTiming timing).st := by
    rw [Ev.beforeDecisions_eq k]
    unfold Ev.adoptOrCount
    rw [pending]
    exact Ev.adopt_eq _ _
  rw [Ev.beginTiming_own] at evaluated
  simp only [Ev.start_st, State.settledAdoption_beginBoundary] at begun
  dsimp only
  have st := Ev.st_of_own_eq evaluated
  rw [whole, Ev.reportAdoption_st, (Ev.reportAdoption_foreign _ _ _).1, Ev.beginTiming_st, Ev.start_st, evaluated, st]
  have same := image.image
  generalize (Ev.start s.beginBoundary).adoptEvaluated p = e at begun same ⊢
  have adopted := begun e.st (.refl _)
  have finished : s.beginBoundary.image.finished = s.image.finished := rfl
  rw [finished]
  cases unfinished : s.image.finished
  · have restarted := Ev.TracksIn.finishStartUp adopted.tracks adopted.wf (by rw [same]; exact unfinished)
    simpa [State.settledAdoption_finishStartUp] using restarted
  · exact adopted

/-! ### From the decisions to the end -/

/-- Decisions leave the raw conditions. -/
theorem State.decideStores_raw {s : State} (wf : s.stores.wf Store.reset = true) (n : Nat) :
    (s.decideStores.defect n).raw = (s.defect n).raw := by
  rw [(State.decideStores_records wf n).2.1]
  split <;> rfl

/-- Decisions, the frame and the window counter are no event of the Defect Monitor. -/
theorem Ev.TracksIn.decide {u : State} {e : Ev} {v : Settled} (h : e.TracksIn u v)
    (wf : e.st.stores.wf Store.reset = true) (selection : Nat → Selection) :
    (e.modify (·.decideAndAssemble selection)).TracksIn u v := by
  have rest := State.decideStores_rest e.st
  exact h.modify (State.decideStores_raw wf) (congrArg State.groups rest :) (congrArg State.watches rest :)
    (congrArg State.patterns rest :) (congrArg State.time rest :) (congrArg State.image rest :)
    (congrArg State.active rest :) (congrArg State.banks rest :)

/-- The window end of a boundary, and the timers left to come after it (R140). -/
theorem Ev.TracksIn.closeBoundary {u s0 : State} {e : Ev} {v : Settled} (h : e.TracksIn u v)
    (wf : e.st.stores.wf Store.reset = true) (ends : s0.windowEndsNext = true) :
    (e.closeBoundary s0).TracksIn u (if s0.pendingAct = none then
      (v.endWindows u (e.closeBoundary s0).st).countTimers s0 u (fun g => !s0.timersFirst g)
      else v.endWindows u (e.closeBoundary s0).st) := by
  have counted : (e.modify (·.countWindow true)).TracksIn u v := h.modify (fun _ => rfl) rfl rfl rfl rfl rfl rfl rfl
  have windows := counted.windowEnd wf
  change (e.modify (·.countWindow true)).windowEnd.TracksIn u
    (v.endWindows u (e.modify (·.countWindow true)).windowEnd.st) at windows
  unfold Ev.closeBoundary
  rw [if_pos ends]
  dsimp only
  generalize (e.modify (·.countWindow true)).windowEnd = w at windows ⊢
  by_cases idle : s0.pendingAct = none
  · have timers := (Ev.countTimers_quiet s0 (fun g => !s0.timersFirst g) w).kept
    have kept := Settled.endWindows_congr (.refl u) (t := w.st)
      (t' := ((w.countTimers s0 (fun g => !s0.timersFirst g)).modify (fun s => { s with choices := s.choices + 1 })).st)
      (congrArg State.stores timers :) (congrArg State.defects timers :) v
    rw [if_pos (by rw [idle]; rfl), if_pos idle, kept]
    exact (windows.countTimers s0 _).modify (fun _ => rfl) rfl rfl rfl rfl rfl rfl rfl
  · rw [if_neg (by simpa using idle), if_neg idle]
    exact windows.modify (fun _ => rfl) rfl rfl rfl rfl rfl rfl rfl

theorem Ev.closeBoundary_ofTwoBlocks (s0 : State) : Ev.OfTwoBlocks (fun e => e.closeBoundary s0) := by
  unfold Ev.closeBoundary
  split
  · split
    · exact ((((Ev.OfTwoBlocks.modify _).comp Ev.windowEnd_ofTwoBlocks).comp (Ev.countTimers_ofTwoBlocks _ _)).comp
        (.modify _))
    · exact ((Ev.OfTwoBlocks.modify _).comp Ev.windowEnd_ofTwoBlocks).comp (.modify _)
  · exact .modify _

theorem Ev.TracksIn.decideAndClose {u s0 : State} {e : Ev} {v : Settled} (h : e.own.TracksIn u v)
    (wf : e.st.stores.wf Store.reset = true) (ends : s0.windowEndsNext = true) (selection : Nat → Selection) :
    let b := (e.modify (·.decideAndAssemble selection)).closeBoundary s0
    b.own.TracksIn u (if s0.pendingAct = none then (v.endWindows u b.st).countTimers s0 u (fun g => !s0.timersFirst g)
      else v.endWindows u b.st) := by
  have two : ((e.modify (·.decideAndAssemble selection)).closeBoundary s0).own
      = (e.own.modify (·.decideAndAssemble selection)).closeBoundary s0 := (Ev.closeBoundary_ofTwoBlocks s0 _).1
  dsimp only
  rw [Ev.st_of_own_eq two, two]
  exact (h.decide wf selection).closeBoundary (State.decideStores_wf wf) ends

/-! ### The whole boundary -/

/-- What a boundary settles reads of the state it ends in the site time, entries, stores and raw conditions. -/
theorem State.settledAt_congr {s t t' : State} (entries : t.SameEntries t') (stores : t'.stores = t.stores)
    (defects : t'.defects = t.defects) (ends : s.endsWindow) (first : Nat → Bool) :
    s.settledAt t' first = s.settledAt t first := by
  unfold State.settledAt
  simp only [Settled.windowEnd_eq ends, Settled.countTimers_congr entries, Settled.endWindows_congr entries stores defects,
    State.settledAdoption_congr entries]

/-- A boundary that is a window end, up to the offering of its notices (R44, R137, R140, R150). -/
theorem Ev.boundary_tracks {s : State} (ends : s.endsWindow) (stores : s.stores.wf Store.reset = true)
    (groups : s.groups.wf GroupRec.reset = true) (watches : s.watches.wf Watch.reset = true) (timing : Option Bool) :
    ((Ev.start s).boundary timing).own.Tracks (s.settledAt ((Ev.start s).boundary timing).st s.timersFirst) := by
  have storesWf := Ev.beforeDecisions_stores_wf timing stores
  have decided : ∀ {u v}, ((Ev.start s).beforeDecisions timing).own.TracksIn u v →
      ((Ev.start s).boundary timing).own.TracksIn u (if s.pendingAct = none then
        (v.endWindows u ((Ev.start s).boundary timing).st).countTimers s u (fun g => !s.timersFirst g)
        else v.endWindows u ((Ev.start s).boundary timing).st) := fun h => by
    rw [Ev.boundary_eq]
    exact h.decideAndClose storesWf ends.next _
  unfold State.settledAt
  cases pending : s.pendingAct with
  | none =>
    have counted := decided (Ev.beforeDecisions_counted ends.1 pending groups timing)
    rw [if_pos pending] at counted
    rw [if_pos rfl, Settled.windowEnd_eq ends]
    have entries := counted.entries
    rw [← Settled.countTimers_congr entries, ← Settled.countTimers_congr entries,
      ← Settled.endWindows_congr entries (t := ((Ev.start s).boundary timing).st) rfl rfl] at counted
    exact counted.tracks
  | some p =>
    have adopted := decided (Ev.beforeDecisions_adopted ends.1 pending groups watches timing)
    rw [if_neg (by rw [pending]; exact Option.some_ne_none p)] at adopted
    rw [if_neg (Option.some_ne_none p), Settled.windowEnd_eq ends]
    have entries := adopted.entries
    rw [← State.settledAdoption_congr entries,
      ← Settled.endWindows_congr entries (t := ((Ev.start s).boundary timing).st) rfl rfl] at adopted
    exact adopted.tracks

end Sys2Proof.Machine
end

section
/-! SUPPORT. The notices of a boundary that is a window end, and the obligation about window ends (R44 to R47, R168, R182,
R183). -/

namespace Sys2Proof.Machine

/-! ### The notices of the other blocks -/

/-- The Core Timebase and the Switch raise notices of kinds 4 and up, and none before start-up has finished. -/
theorem Ev.boundary_foreign {s : State} (k : s.rate.pendingK = none) (timing : Option Bool) :
    ∀ q ∈ ((Ev.start s).boundary timing).foreign, s.image.finished = true ∧ 4 ≤ q.2.body.kindCode := by
  intro q hq
  have begun := Ev.beginTiming_foreign timing s
  have before : q ∈ (((Ev.start s).beginTiming timing).adoptOrCount s).foreign := by
    rw [Ev.boundary_eq, (Ev.closeBoundary_ofTwoBlocks _ _).2, (Ev.OfTwoBlocks.modify _ _).2, Ev.beforeDecisions_eq k] at hq
    exact hq
  unfold Ev.adoptOrCount at before
  cases pending : s.pendingAct with
  | none =>
    rw [pending] at before
    exact begun q ((Ev.countTimers_ofTwoBlocks s s.timersFirst _).2 ▸ before)
  | some p =>
    rw [pending] at before
    dsimp only at before
    rw [Ev.adopt_eq] at before
    have image := (Ev.adoptEvaluated_raises p ((Ev.start s).beginTiming timing)).image
    rw [Ev.beginTiming_st] at image
    rcases (Ev.reportAdoption_foreign _ _ _).2 q before with early | ⟨finished, kind⟩
    · exact begun q ((Ev.adoptEvaluated_ofTwoBlocks p _).2 ▸ early)
    · rw [image] at finished
      exact ⟨finished, kind⟩

/-- Where no other block has raised a notice, the two blocks' notices are all there are. -/
theorem Ev.own_of_foreign_nil {e : Ev} (h : ∀ q, q ∉ e.foreign) : e.own = e := by
  refine congrArg (Ev.mk e.st) (List.filter_eq_self.mpr fun q hq => ?_)
  by_contra other
  exact h q (List.mem_filter.mpr ⟨hq, by simpa using other⟩)

/-! ### The links before the boundary's notices -/

theorem Ev.Raises.link {more : List NoticeBody} {e e' : Ev} (h : Ev.Raises more e e') (x : Link) :
    e'.st.link x = e.st.link x := by
  cases x
  · exact h.linkA
  · exact h.linkB

/-- Where start-up finishes, START is filed with both links at once (R182, R183). -/
theorem State.finishStartUp_link (s : State) (x : Link) : s.finishStartUp.link x = match s.image.toReport with
    | some o => (s.link x).file ⟨.start o, s.time.seconds, s.time.frame⟩
    | none => s.link x := by
  unfold State.finishStartUp
  dsimp only
  cases s.image.toReport <;> cases x <;> rfl

theorem State.finishStartUp_finished (s : State) : s.finishStartUp.image.finished = true := by
  unfold State.finishStartUp
  dsimp only
  cases s.image.toReport <;> rfl

theorem State.finishStartUp_time (s : State) : s.finishStartUp.time = s.time := by
  unfold State.finishStartUp
  dsimp only
  cases s.image.toReport <;> rfl

/-- What the links hold before the notices of a boundary are offered, where start-up was not finished. -/
theorem State.beforeNotices_link_of_unfinished {s : State} (h : s.image.finished = false) (t : State) (x : Link) :
    (s.beforeNotices t).link x = match t.image.finished, s.image.toReport with
      | true, some o => (s.link x).waited.file ⟨.start o, t.time.seconds, t.time.frame⟩
      | _, _ => (s.link x).waited := by
  unfold State.beforeNotices
  rw [h]
  cases s.image.toReport with
  | none => cases t.image.finished <;> cases x <;> rfl
  | some o =>
    dsimp only
    unfold State.notify
    dsimp only
    cases t.image.finished <;> cases x <;> rfl

/-- What `State.beforeNotices` keeps of the state after the boundary. -/
theorem State.beforeNotices_rest (s t : State) : (s.beforeNotices t).time = t.time
    ∧ (s.beforeNotices t).image = t.image := by
  unfold State.beforeNotices
  dsimp only
  split
  · unfold State.notify
    split <;> exact ⟨rfl, rfl⟩
  · exact ⟨rfl, rfl⟩

/-- Where start-up was not finished, a boundary's event leaves the links waited, with START where it finishes. -/
theorem Ev.boundary_link_of_unfinished {s : State} (k : s.rate.pendingK = none) (unfinished : s.image.finished = false)
    (timing : Option Bool) {t : State} (time : t.time = ((Ev.start s).boundary timing).st.time)
    (image : t.image = ((Ev.start s).boundary timing).st.image) (x : Link) :
    ((Ev.start s).boundary timing).st.link x = (s.beforeNotices t).link x := by
  have closed : Ev.Raises [] ((Ev.start s).beforeDecisions timing) ((Ev.start s).boundary timing) := by
    rw [Ev.boundary_eq]
    exact (Ev.decideAndAssemble_raises _ _).trans (Ev.closeBoundary_raises _ _)
  rw [closed.time] at time
  rw [closed.image] at image
  rw [closed.link, State.beforeNotices_link_of_unfinished unfinished, time, image, Ev.beforeDecisions_eq k]
  unfold Ev.adoptOrCount
  cases pending : s.pendingAct with
  | none =>
    have counted : Ev.Raises [] ((Ev.start s).beginTiming timing)
        (((Ev.start s).beginTiming timing).countTimers s s.timersFirst) := .of_quiet (Ev.countTimers_quiet _ _ _)
    have still : (((Ev.start s).beginTiming timing).countTimers s s.timersFirst).st.image.finished = false := by
      rw [counted.image, Ev.beginTiming_st]; exact unfinished
    dsimp only
    rw [still, counted.link, Ev.beginTiming_st]
    exact s.beginBoundary_link x
  | some p =>
    have evaluated := Ev.adoptEvaluated_raises p ((Ev.start s).beginTiming timing)
    have links := evaluated.link x
    have reports := evaluated.image
    have stamp := evaluated.time
    rw [Ev.beginTiming_st] at links reports stamp
    dsimp only
    rw [Ev.adopt_eq, Ev.reportAdoption_st, Ev.beginTiming_st, Ev.start_st, if_neg (by
      rw [show s.beginBoundary.image.finished = false from unfinished]; exact Bool.false_ne_true),
      State.finishStartUp_finished, State.finishStartUp_time, State.finishStartUp_link, links, reports, stamp, Ev.start_st,
      State.beginBoundary_link]
    show (match s.image.toReport with | some o => _ | none => _) = _
    cases s.image.toReport <;> rfl

/-! ### The whole boundary reaches the links -/

/-- The notices of a boundary's event that is a window end (R168). -/
theorem Ev.boundary_offered {s : State} {timing : Option Bool} (k : s.rate.pendingK = none) {v : Settled}
    (own : ((Ev.start s).boundary timing).own.HasRaised v.monitor v.protection) :
    (s.beforeNotices ((Ev.start s).boundary timing).offer).Offered ((Ev.start s).boundary timing).offer v
      (if s.image.finished = true then timingNotices timing ++ s.adoptionNotices else []) := by
  have foreign := Ev.boundary_foreign k timing
  obtain ⟨time, image⟩ := s.beforeNotices_rest ((Ev.start s).boundary timing).offer
  rw [Ev.offer_time] at time
  rw [Ev.offer_image] at image
  split
  · rename_i finished
    have raised := Ev.boundary_raises (timing := timing) finished
    refine Ev.offered own (fun q hq => (foreign q hq).2) (raised.stamped fun _ h => nomatch h) raised.high
      (by rw [raised.image]; exact finished) (fun x => ?_) time.symm image.symm
    rw [raised.link, State.beforeNotices_of_finished finished]
    exact (s.beginBoundary_link x).trans (by cases x <;> rfl)
  · rename_i starting
    have unfinished : s.image.finished = false := by simpa using starting
    have links := Ev.boundary_link_of_unfinished k unfinished timing (Ev.offer_time _) (Ev.offer_image _)
    rw [Ev.own_of_foreign_nil fun q hq => starting (foreign q hq).1] at own
    cases after : ((Ev.start s).boundary timing).st.image.finished
    · exact own.offered_of_not_finished links rfl rfl image.symm after
    · exact own.offered_of_finished links rfl rfl time.symm image.symm after

/-- A boundary that is a window end reaches groups, watches, pattern sets and links (R113, R119 to R121, R125, R137). -/
theorem State.boundary_windowReaches {s : State} {c : BoundaryCause} (makes : s.makesBoundary c) (ends : s.endsWindow)
    (canonical : s.Canonical) : (s.beforeNotices (s.boundary c)).Reaches (s.boundary c)
      (s.settledAt (s.boundary c) (s.atCause (s.timeAtCause c)).timersFirst) (s.boundaryNotices c) := by
  have tracked := Ev.boundary_tracks (s := s.atCause (s.timeAtCause c)) ends canonical.stores canonical.groups
    canonical.watches (s.time.timingAt c)
  have whole := State.boundary_eq (State.boundaryAt_of_makes makes)
  rw [← State.settledAt_congr (Ev.offer_sameEntries _) (Ev.offer_stores _) (Ev.offer_defects _)
    (s := s.atCause (s.timeAtCause c)) ends, ← whole] at tracked
  have offered := Ev.boundary_offered (s := s.atCause (s.timeAtCause c)) (timing := s.time.timingAt c) ends.1 tracked.raised
  rw [← whole] at offered
  have others : (if s.image.finished = true then timingNotices (s.time.timingAt c) ++ s.adoptionNotices else [])
      = s.boundaryNotices c := by
    split
    · exact (State.boundaryNotices_eq c ‹_›).symm
    · exact (if_neg ‹_›).symm
  refine ⟨fun g => ?_, fun n => ?_, fun p => ?_, others ▸ offered⟩
  · rw [State.group, congrArg State.groups whole, Ev.offer_groups]
    exact tracked.group g
  · rw [State.watch, congrArg State.watches whole, Ev.offer_watches]
    exact tracked.watch n
  · rw [State.pattern, congrArg State.patterns whole, Ev.offer_patterns]
    exact tracked.pattern p

/-- Settles O25: sources are judged each by its own records (`State.boundary_windowBusy`), and their changes follow one
another through groups, watches, pattern sets and links (`State.boundary_windowReaches`). -/
theorem windowEndEvaluatesEverySource : Obligations.WindowEndEvaluatesEverySource := by
  intro s c i makes row ends wf
  refine ⟨s.boundary c, row.exec_eq makes, ?_, fun n => State.boundary_windowIdle makes ends wf, fun n busy => ?_,
    fun canonical => ⟨_, State.boundary_windowReaches makes ends canonical⟩⟩
  · rw [State.boundary_rate_eq makes, ends.1]
    exact if_pos ends.2
  · obtain ⟨store, rate, defect⟩ := State.boundary_windowBusy makes ends wf busy
    refine ⟨store.trans ?_, rate, defect⟩
    unfold Store.endWindow
    rfl

end Sys2Proof.Machine
end

section
/-! SUPPORT. Every writer of the state, and every part of an event, keeps the canonical form of every table. -/

namespace Sys2Proof.Machine

/-! ### Writers -/

theorem Bank.canonical_iff (b : Bank) :
    b.canonical = true ↔ b.map.wf .idle = true ∧ b.profiles.wf none = true ∧ b.groups.wf none = true := by
  simp [Bank.canonical, and_assoc]

theorem Bank.canonical_reset : Bank.reset.canonical = true := rfl

theorem Bank.canonical_setEntry {b : Bank} (h : b.canonical = true) (n : Nat) (v : Entry) :
    (b.setEntry n v).canonical = true := by
  rw [Bank.canonical_iff] at h ⊢
  obtain ⟨map, profiles, groups⟩ := h
  exact ⟨Table.wf_set _ _ _ _ map, profiles, groups⟩

theorem Bank.canonical_setProfile {b : Bank} (h : b.canonical = true) (n : Nat) (v : Option Profile) :
    (b.setProfile n v).canonical = true := by
  rw [Bank.canonical_iff] at h ⊢
  obtain ⟨map, profiles, groups⟩ := h
  exact ⟨map, Table.wf_set _ _ _ _ profiles, groups⟩

theorem Bank.canonical_setGroupDef {b : Bank} (h : b.canonical = true) (g : Nat) (v : Option GroupDef) :
    (b.setGroupDef g v).canonical = true := by
  rw [Bank.canonical_iff] at h ⊢
  obtain ⟨map, profiles, groups⟩ := h
  exact ⟨map, profiles, Table.wf_set _ _ _ _ groups⟩

theorem Bank.canonical_writeRecord {b : Bank} (h : b.canonical = true) (r : BankRecord) :
    (b.writeRecord r).canonical = true := by
  cases r with
  | entry i e => exact Bank.canonical_setEntry h i e
  | profile i p => exact Bank.canonical_setProfile h i p
  | group i g => exact Bank.canonical_setGroupDef h i g

theorem Bank.canonical_loadRecords {b : Bank} (h : b.canonical = true) (records : List (Option BankRecord)) :
    (b.loadRecords records).1.canonical = true := by
  induction records generalizing b with
  | nil => exact h
  | cons r rest ih =>
    cases r with
    | none => exact h
    | some r => exact ih (Bank.canonical_writeRecord h r)

theorem Bank.canonical_afterLoad {b : Bank} (h : b.canonical = true) (success : Bool) :
    (b.afterLoad success).canonical = true := by
  unfold Bank.afterLoad
  split
  · exact h
  · exact Bank.canonical_reset

namespace State.Canonical

variable {s : State} (h : s.Canonical)
include h

theorem setLif (l : Nat) (v : Lif) : (s.setLif l v).Canonical := { h with lifs := Table.wf_set _ _ _ _ h.lifs }
theorem setSlot (n : Nat) (v : Slot) : (s.setSlot n v).Canonical := { h with slots := Table.wf_set _ _ _ _ h.slots }
theorem setStore (n : Nat) (v : Store) : (s.setStore n v).Canonical :=
  { h with stores := Table.wf_set _ _ _ _ h.stores }
theorem setRate (n : Nat) (v : RateRec) : (s.setRate n v).Canonical :=
  { h with rates := Table.wf_set _ _ _ _ h.rates }
theorem setHold (b : BankNo) (v : HoldRec) : (s.setHold b v).Canonical :=
  { h with holds := Table.wf_set _ _ _ _ h.holds }
theorem setLineDefect (l : Nat) (v : LineDefects) : (s.setLineDefect l v).Canonical :=
  { h with lineDefects := Table.wf_set _ _ _ _ h.lineDefects }
theorem setDefect (n : Nat) (v : DefectRec) : (s.setDefect n v).Canonical :=
  { h with defects := Table.wf_set _ _ _ _ h.defects }
theorem setWatch (n : Nat) (v : Watch) : (s.setWatch n v).Canonical :=
  { h with watches := Table.wf_set _ _ _ _ h.watches }
theorem setPattern (p : Nat) (v : Pattern) : (s.setPattern p v).Canonical :=
  { h with patterns := Table.wf_set _ _ _ _ h.patterns }
theorem setGroup (g : Nat) (v : GroupRec) : (s.setGroup g v).Canonical :=
  { h with groups := Table.wf_set _ _ _ _ h.groups }
theorem setFlashPage (p : Nat) (v : List Byte) : (s.setFlashPage p v).Canonical :=
  { h with flash := Table.wf_set _ _ _ _ h.flash }
theorem setLink (x : Link) (v : LinkState) : (s.setLink x v).Canonical := by cases x <;> exact { h with }
theorem mapHold (b : BankNo) (k : Option HoldKind) : (s.mapHold b k).Canonical := h.setHold b _
theorem imageHold (b : BankNo) (k : Option HoldKind) : (s.imageHold b k).Canonical := h.setHold b _

theorem setBank (b : BankNo) {v : Bank} (hv : v.canonical = true) : (s.setBank b v).Canonical :=
  { h with
    banks := Table.wf_set _ _ _ _ h.banks
    bankTables := fun c => by
      rw [State.setBank_bank]
      split
      · exact hv
      · exact h.bankTables c }

omit h in
/-- Offering notices touches no table. -/
theorem offer {e : Ev} (h : e.st.Canonical) : e.offer.Canonical := by
  have rest := e.offer_same.rest
  generalize e.offer = t at rest ⊢
  rw [← rest] at h
  exact { h with }

theorem breakArrivals (l : Nat) : (s.breakArrivals l).Canonical :=
  { h with slots := Table.wf_mapAll _ _ _ h.slots }

theorem pushParity (n : Nat) (w : Width) (base : Nat) (slots : List RxSlot) :
    (s.pushParity n w base slots).Canonical := { h with slots := Table.wf_update _ _ _ _ h.slots }

theorem erroredEvent (n : Nat) : (s.erroredEvent n).Canonical := by
  unfold State.erroredEvent
  split
  · exact h.setDefect _ _
  · exact h

theorem arriveStore (n : Nat) (bytes : List Byte) (errored : Bool) : (s.arriveStore n bytes errored).Canonical := by
  have stored := h.setStore n ((s.store n).arrive bytes).1
  have counted : (if ((s.store n).arrive bytes).2 then (s.setStore n ((s.store n).arrive bytes).1).erroredEvent n
      else s.setStore n ((s.store n).arrive bytes).1).Canonical := by
    split
    · exact stored.erroredEvent n
    · exact stored
  unfold State.arriveStore
  dsimp only
  split
  · exact counted.erroredEvent n
  · exact counted

theorem storeRaw (changes : List RawChange) : (s.storeRaw changes).Canonical :=
  List.foldlRecOn (motive := State.Canonical) changes _ h (fun _ hs _ _ => hs.setDefect _ _)

end State.Canonical

/-! ### Groups, watches and pattern sets -/

/-- Events that keep the canonical form, one after the other, keep it. -/
theorem Ev.foldl_canonical {α : Type} {f : Ev → α → Ev} (keeps : ∀ (e : Ev) (a : α), e.st.Canonical → (f e a).st.Canonical)
    (l : List α) {e : Ev} (h : e.st.Canonical) : (l.foldl f e).st.Canonical :=
  List.foldlRecOn (motive := fun e : Ev => e.st.Canonical) l _ h (fun e he a _ => keeps e a he)

section Latches

variable {e : Ev} (h : e.st.Canonical)
include h

theorem Ev.evaluateGroup_canonical (g : Nat) (r : GroupRec) : (e.evaluateGroup g r).st.Canonical := by
  rw [Ev.evaluateGroup_st]
  exact h.setGroup _ _

theorem Ev.deliverChanges_canonical (changes : List RawChange) : (e.deliverChanges changes).st.Canonical := by
  refine Ev.foldl_canonical (fun e g he => ?_) _ h
  split
  · exact Ev.evaluateGroup_canonical he _ _
  · exact he

theorem Ev.countGroup_canonical (before : GroupRec) (g : Nat) : (e.countGroup before g).st.Canonical := by
  unfold Ev.countGroup
  dsimp only
  split
  · exact Ev.evaluateGroup_canonical h _ _
  · exact h.setGroup _ _

theorem Ev.countTimers_canonical (start : State) (which : Nat → Bool) : (e.countTimers start which).st.Canonical := by
  refine Ev.foldl_canonical (fun e g he => ?_) _ h
  split
  · exact Ev.countGroup_canonical he _ _
  · exact he

theorem Ev.reconcileGroup_canonical (old new : Bank) (changes : List RawChange) (g : Nat) :
    (e.reconcileGroup old new changes g).st.Canonical := by
  unfold Ev.reconcileGroup
  dsimp only
  split
  · exact h
  · rw [Ev.raiseAll_st]
    exact h.setGroup _ _
  · exact Ev.evaluateGroup_canonical h _ _
  · exact Ev.evaluateGroup_canonical h _ _
  · exact Ev.evaluateGroup_canonical ((Ev.raiseAll_st _ _ _).symm ▸ h) _ _

theorem Ev.reconcile_canonical (old new : Bank) (changes : List RawChange) :
    (e.reconcile old new changes).st.Canonical :=
  Ev.foldl_canonical (fun _ _ he => Ev.reconcileGroup_canonical he _ _ _ _) _ h

theorem Ev.latchWatch_canonical (n : Nat) : (e.latchWatch n).st.Canonical := by
  unfold Ev.latchWatch
  dsimp only
  split
  · rw [Ev.raise_st]
    exact h.setWatch _ _
  · exact h

theorem Ev.evalLevelWatch_canonical (n : Nat) : (e.evalLevelWatch n).st.Canonical := by
  unfold Ev.evalLevelWatch
  split
  · exact Ev.latchWatch_canonical h n
  · exact h

theorem Ev.evalWatchAtChange_canonical (c : RawChange) : (e.evalWatchAtChange c).st.Canonical := by
  unfold Ev.evalWatchAtChange
  split
  · exact Ev.evalLevelWatch_canonical h _
  · split
    · exact Ev.latchWatch_canonical h _
    · exact h

theorem Ev.evalWatchAtAdoption_canonical (changes : List RawChange) (n : Nat) :
    (e.evalWatchAtAdoption changes n).st.Canonical := by
  unfold Ev.evalWatchAtAdoption
  split
  · exact Ev.evalLevelWatch_canonical h _
  · split
    · split
      · exact Ev.latchWatch_canonical h _
      · exact h
    · exact h

theorem Ev.evalPattern_canonical (p : Nat) : (e.evalPattern p).st.Canonical := by
  unfold Ev.evalPattern
  dsimp only
  split
  · rw [Ev.raise_st]
    exact h.setPattern _ _
  · exact h

theorem Ev.evalPatterns_canonical : e.evalPatterns.st.Canonical :=
  Ev.foldl_canonical (fun _ p he => Ev.evalPattern_canonical he p) _ h

/-! ### Reports and window ends -/

theorem Ev.settleRaw_canonical (touched : List Nat) : (e.settleRaw touched).st.Canonical := by
  unfold Ev.settleRaw
  dsimp only
  split
  · exact h
  · refine Ev.evalPatterns_canonical (Ev.foldl_canonical (fun _ c he => Ev.evalWatchAtChange_canonical he c) _
      (Ev.deliverChanges_canonical ?_ _))
    exact h.storeRaw _

theorem Ev.sourceReport_canonical (n : Nat) (f : DefectRec → DefectRec) : (e.sourceReport n f).st.Canonical := by
  unfold Ev.sourceReport
  split
  · refine Ev.settleRaw_canonical ?_ _
    exact h.setDefect _ _
  · exact h

theorem Ev.lineReport_canonical (l : Nat) (f : LineDefects → LineDefects) : (e.lineReport l f).st.Canonical := by
  refine Ev.settleRaw_canonical ?_ _
  exact h.setLineDefect _ _

theorem Ev.endWindowOf_canonical (n : Nat) : (e.endWindowOf n).st.Canonical := by
  refine Ev.settleRaw_canonical ?_ _
  exact ((h.setStore _ _).setRate _ _).setDefect _ _

theorem Ev.windowEnd_canonical : e.windowEnd.st.Canonical :=
  Ev.foldl_canonical (fun _ n he => Ev.endWindowOf_canonical he n) _ h

/-! ### Arrivals -/

theorem Ev.markerArrival_canonical (n : Nat) (bit : Bool) : (e.markerArrival n bit).st.Canonical := by
  unfold Ev.markerArrival
  dsimp only
  split
  · refine Ev.sourceReport_canonical ?_ _ _
    exact h.setSlot _ _
  · exact h.setSlot _ _

theorem Ev.tagArrival_canonical (n : Nat) (x : Option Byte) (tag : Byte) : (e.tagArrival n x tag).st.Canonical := by
  unfold Ev.tagArrival
  dsimp only
  split
  · refine Ev.sourceReport_canonical ?_ _ _
    exact h.setSlot _ _
  · exact h.setSlot _ _

theorem Ev.headArrival_canonical (base : Nat) (slots : List RxSlot) (n : Nat) (p : Profile) :
    (e.headArrival base slots n p).st.Canonical := by
  have marked : ∀ bytes bad bit, ((e.modify fun s =>
      (s.arriveStore n bytes bad).pushParity n p.width base slots).markerArrival n bit).st.Canonical :=
    fun bytes bad bit => by
      refine Ev.markerArrival_canonical ?_ _ _
      exact (h.arriveStore n bytes bad).pushParity _ _ _ _
  unfold Ev.headArrival
  dsimp only
  split
  · exact marked _ _ _
  · exact Ev.tagArrival_canonical (marked _ _ _) _ _ _

end Latches

/-! ### Boundaries -/

theorem State.Canonical.makeActive {s : State} (h : s.Canonical) (b : BankNo) : (s.makeActive b).Canonical :=
  { h.mapHold b none with }

theorem State.Canonical.withSources {s : State} (h : s.Canonical) {slots : Table Slot} {stores : Table Store}
    {rates : Table RateRec} {defects : Table DefectRec} (hslots : slots.wf Slot.reset = true)
    (hstores : stores.wf Store.reset = true) (hrates : rates.wf RateRec.reset = true)
    (hdefects : defects.wf DefectRec.reset = true) :
    ({ s with slots := slots, stores := stores, rates := rates, defects := defects } : State).Canonical :=
  { h with slots := hslots, stores := hstores, rates := hrates, defects := hdefects }

theorem State.Canonical.adoptSources {s : State} (h : s.Canonical) (old new : Bank) :
    (s.adoptSources old new).Canonical :=
  h.withSources (Table.wf_update _ _ _ _ (Table.wf_update _ _ _ _ h.slots)) (Table.wf_update _ _ _ _ h.stores)
    (Table.wf_update _ _ _ _ h.rates) (Table.wf_update _ _ _ _ h.defects)

theorem State.Canonical.adopted {s : State} (h : s.Canonical) (p : PendingActivation) : (s.adopted p).Canonical := by
  exact ((h.makeActive p.bank).adoptSources s.activeBank (s.bank p.bank)).storeRaw _

theorem State.Canonical.finishStartUp {s : State} (h : s.Canonical) : s.finishStartUp.Canonical := by
  unfold State.finishStartUp
  dsimp only
  split
  · exact { h with }
  · exact { h with }

theorem Ev.adopt_canonical {e : Ev} (h : e.st.Canonical) (p : PendingActivation) : (e.adopt p).st.Canonical := by
  have told : ({ e with st := e.st.adopted p } : Ev).st.Canonical := h.adopted p
  unfold Ev.adopt
  dsimp only
  have evaluated := fun changes => Ev.evalPatterns_canonical (Ev.foldl_canonical
    (fun _ n he => Ev.evalWatchAtAdoption_canonical he changes n)
    (({ e with st := e.st.adopted p } : Ev).reconcile e.st.activeBank (e.st.bank p.bank) changes).st.watches.keys
    (Ev.reconcile_canonical told e.st.activeBank (e.st.bank p.bank) changes))
  split
  · rw [Ev.raise_st]
    exact evaluated _
  · rw [Ev.modify_st, Ev.raise_st]
    exact (evaluated _).finishStartUp

theorem State.Canonical.applyExponent {s : State} (h : s.Canonical) : s.applyExponent.Canonical := by
  unfold State.applyExponent
  split
  · exact { h with
      defects := Table.wf_mapAll _ _ _ h.defects
      stores := Table.wf_mapAll _ _ _ h.stores
      rates := Table.wf_mapAll _ _ _ h.rates }
  · exact h

theorem State.Canonical.decideStores {s : State} (h : s.Canonical) : s.decideStores.Canonical := by
  refine List.foldlRecOn (motive := State.Canonical) _ _ h (fun s hs n _ => ?_)
  unfold State.decideStore
  dsimp only
  split
  · exact (hs.setStore _ _).erroredEvent _
  · exact hs.setStore _ _

/-- The content records that the Switch hands over are written one by one (R96). -/
theorem Resolving.contents_wf (r : Resolving) : r.contents.wf Content.idle = true := by
  refine List.foldlRecOn (motive := fun t : Table Content => t.wf Content.idle = true) _ _ rfl (fun t ht n _ => ?_)
  split
  · exact Table.wf_set _ _ _ _ ht
  · exact ht

theorem State.Canonical.beginFrames {s : State} (h : s.Canonical) {content : Table Content}
    (hc : content.wf Content.idle = true) : (s.beginFrames content).Canonical :=
  { h with
    lifs := Table.wf_update _ _ _ _ h.lifs
    sentParity := Table.wf_update _ _ _ _ h.sentParity
    egress := fun f hf => by
      cases hf
      exact ⟨hc, Table.wf_update _ _ _ _ rfl⟩ }

theorem State.Canonical.decideAndAssemble {s : State} (h : s.Canonical) (selection : Nat → Selection) :
    (s.decideAndAssemble selection).Canonical := by
  refine h.decideStores.beginFrames ?_
  split
  · exact Resolving.contents_wf _
  · rfl

/-- The frame that a boundary ends is the one that was being sent (R13). -/
theorem State.Canonical.atCause {s : State} (h : s.Canonical) (t : Timebase) : (s.atCause t).Canonical :=
  { h with
    ended := fun r hr => by
      obtain ⟨f, hf, rfl⟩ := Option.map_eq_some_iff.mp hr
      exact h.egress f hf }

section Boundary

variable {e : Ev} (h : e.st.Canonical)
include h

theorem Ev.beginTiming_canonical (timing : Option Bool) : (e.beginTiming timing).st.Canonical := by
  rw [Ev.beginTiming_st]
  exact { h with }

theorem Ev.adoptOrCount_canonical (s0 : State) : (e.adoptOrCount s0).st.Canonical := by
  unfold Ev.adoptOrCount
  split
  · exact Ev.adopt_canonical h _
  · exact Ev.countTimers_canonical h _ _

theorem Ev.closeBoundary_canonical (s0 : State) : (e.closeBoundary s0).st.Canonical := by
  unfold Ev.closeBoundary
  split
  · have ended : (e.modify (·.countWindow true)).windowEnd.st.Canonical :=
      Ev.windowEnd_canonical (e := e.modify (·.countWindow true)) { h with }
    have counted : (if s0.pendingAct.isNone then (e.modify (·.countWindow true)).windowEnd.countTimers s0
        (fun g => !s0.timersFirst g) else (e.modify (·.countWindow true)).windowEnd).st.Canonical := by
      split
      · exact Ev.countTimers_canonical ended _ _
      · exact ended
    exact { counted with }
  · exact { h with }

theorem Ev.boundary_canonical (timing : Option Bool) : (e.boundary timing).st.Canonical := by
  have begun : ((e.beginTiming timing).modify State.applyExponent).st.Canonical :=
    (Ev.beginTiming_canonical h timing).applyExponent
  rw [Ev.boundary_eq]
  refine Ev.closeBoundary_canonical ?_ _
  exact State.Canonical.decideAndAssemble (Ev.adoptOrCount_canonical begun e.st) _

end Boundary

theorem State.Canonical.boundary {s : State} (h : s.Canonical) (c : BoundaryCause) : (s.boundary c).Canonical := by
  unfold State.boundary
  split
  · exact .offer (Ev.boundary_canonical (e := Ev.start (s.atCause _)) (h.atCause _) _)
  · exact h

end Sys2Proof.Machine
end

section
/-! SUPPORT. Every command keeps the canonical form of every table: line events, boundaries, completions, transfers and the
takes of the catalogue commands. -/

namespace Sys2Proof.Machine

/-! ### Lines (R2 to R6) -/

theorem signalAbsent_canonical (l : LineNo) : Keeps State.Canonical (.signalAbsent l) := by
  intro s t h ht
  change execSignalAbsent l s = _ at ht
  unfold execSignalAbsent at ht
  dsimp only at ht
  split at ht <;> cases ht
  · exact h
  · have absent := Ev.lineReport_canonical (e := (Ev.start s).modify fun u =>
      (u.setLif l { (s.lif l).hunting with signal := false }).breakArrivals l) ((h.setLif l _).breakArrivals l) l
      (fun d => { d with absent := true })
    refine .offer ?_
    split
    · exact Ev.lineReport_canonical absent l _
    · exact absent

theorem signalPresent_canonical (l : LineNo) : Keeps State.Canonical (.signalPresent l) := by
  intro s t h ht
  change execSignalPresent l s = _ at ht
  unfold execSignalPresent at ht
  dsimp only at ht
  split at ht <;> cases ht
  · exact h
  · refine .offer (Ev.lineReport_canonical ?_ l _)
    exact h.setLif l _

theorem alignmentFind_canonical (l : LineNo) (p : Nat) (w : Word) : Keeps State.Canonical (.alignmentFind l p w) := by
  intro s t h ht
  change execAlignmentFind l p w s = _ at ht
  unfold execAlignmentFind at ht
  dsimp only at ht
  split at ht <;> cases ht
  · exact h.setLif l _
  · exact h

theorem confirmWord_canonical (l : LineNo) (w : Word) : Keeps State.Canonical (.confirmWord l w) := by
  intro s t h ht
  change execConfirmWord l w s = _ at ht
  unfold execConfirmWord at ht
  dsimp only at ht
  split at ht
  · split at ht
    · split at ht <;> cases ht
      · refine .offer (Ev.lineReport_canonical ?_ l _)
        exact h.setLif l _
      · exact h.setLif l _
    · cases ht; exact h.setLif l _
  · cases ht; exact h

theorem lockedWord_canonical (l : LineNo) (w : Word) : Keeps State.Canonical (.lockedWord l w) := by
  intro s t h ht
  change execLockedWord l w s = _ at ht
  unfold execLockedWord at ht
  dsimp only at ht
  split at ht
  · split at ht
    · cases ht; exact h.setLif l _
    · split at ht <;> cases ht
      · exact h.setLif l _
      · refine .offer (Ev.lineReport_canonical ?_ l _)
        exact (h.setLif l _).breakArrivals l
  · cases ht; exact h

theorem ingressArrival_canonical (l : LineNo) (r : List RxSlot) : Keeps State.Canonical (.ingressArrival l r) := by
  intro s t h ht
  change execIngressArrival l r s = _ at ht
  unfold execIngressArrival at ht
  split at ht
  · cases ht
  · split at ht <;> cases ht
    · exact .offer (Ev.arrivals_keeps (fun base slots n p _ he => Ev.headArrival_canonical he base slots n p) l r h)
    · exact h

/-! ### The Core Timebase (R16) -/

theorem State.Canonical.markTowardRegain {s : State} (h : s.Canonical) (m : Nat) : (s.markTowardRegain m).Canonical := by
  unfold State.markTowardRegain
  split
  · split
    · exact h.boundary _
    · refine .offer ?_
      rw [Ev.raise_st]
      exact { h with }
  · exact { h with }

theorem frameMark_canonical (m : Nat) : Keeps State.Canonical (.frameMark m) := by
  intro s t h ht
  change execFrameMark m s = _ at ht
  unfold execFrameMark at ht
  (repeat' split at ht) <;> cases ht
  · exact h
  · exact h.boundary _
  · exact (h.boundary _).markTowardRegain m
  · exact h.markTowardRegain m

theorem regainGap_canonical : Keeps State.Canonical .regainGap := by
  intro s t h ht
  change execRegainGap s = _ at ht
  unfold execRegainGap at ht
  split at ht <;> cases ht
  · exact h
  · exact { h with }

/-- A row that is a boundary where something is due, and no event elsewhere (log entry 3). -/
theorem State.Canonical.dueBoundary {due : Bool} {c : BoundaryCause} {s t : State} (h : s.Canonical)
    (ht : (if due then (.next (s.boundary c) : Answer) else .next s) = .next t) : t.Canonical := by
  split at ht <;> cases ht
  · exact h.boundary c
  · exact h

/-! ### The Map Engine (R81 to R87) -/

/-- An event that changes the state and raises one notice. -/
theorem State.Canonical.raised {u t : State} (h : u.Canonical) {b : Block} {n : NoticeBody}
    (ht : ((Ev.start u).raise b n).done = .next t) : t.Canonical := by
  cases ht
  refine .offer ?_
  rwa [Ev.raise_st]

theorem State.Canonical.mapReady {s : State} (h : s.Canonical) : s.mapReady.Canonical := { h with }

theorem State.Canonical.startCheck {s : State} (h : s.Canonical) (b : BankNo) : (s.startCheck b).Canonical :=
  { h.mapHold b _ with }

theorem State.Canonical.startUpAfterCheck {s : State} (h : s.Canonical) (b : BankNo) (passed : Bool) :
    (State.startUpAfterCheck b passed s).Canonical := by
  unfold State.startUpAfterCheck
  split
  · exact h
  · split
    · exact { h with }
    · refine State.Canonical.startCheck ?_ 2
      exact { h with }

theorem clearCompletion_canonical : Keeps State.Canonical .clearCompletion := by
  intro s t h ht
  change execClearCompletion s = _ at ht
  unfold execClearCompletion at ht
  split at ht
  · rename_i b _
    exact ((h.setBank b (v := (s.bank b).cleared.bumped) Bank.canonical_reset).mapHold b none).mapReady.raised ht
  · cases ht; exact h

theorem copyCompletion_canonical : Keeps State.Canonical .copyCompletion := by
  intro s t h ht
  change execCopyCompletion s = _ at ht
  unfold execCopyCompletion at ht
  split at ht
  · rename_i src dst _
    exact (((h.setBank dst (v := { s.bank src with revision := (s.bank dst).revision + 1 })
      (h.bankTables src)).mapHold src none).mapHold dst none).mapReady.raised ht
  · cases ht; exact h

theorem verifyCompletion_canonical : Keeps State.Canonical .verifyCompletion := by
  intro s t h ht
  change execVerifyCompletion s = _ at ht
  unfold execVerifyCompletion at ht
  split at ht
  · exact (h.mapHold _ none).mapReady.raised ht
  · cases ht; exact h

theorem activationCheckEnd_canonical : Keeps State.Canonical .activationCheckEnd := by
  intro s t h ht
  change execActivationCheckEnd s = _ at ht
  unfold execActivationCheckEnd at ht
  split at ht
  · split at ht <;> cases ht
    · refine .offer ?_
      rw [Ev.modify_st, Ev.raise_st]
      exact (h.mapHold _ none).mapReady.startUpAfterCheck _ _
    · refine State.Canonical.startUpAfterCheck ?_ _ _
      exact { h with }
  · cases ht; exact h

/-! ### The Image Store Controller (R178 to R182) -/

theorem State.Canonical.imageReady {s : State} (h : s.Canonical) : s.imageReady.Canonical := { h with }

theorem State.Canonical.imageAt {s : State} (h : s.Canonical) (op : ImageOp) : (s.imageAt op).Canonical := { h with }

theorem State.Canonical.toReport {s : State} (h : s.Canonical) (o : StartOutcome) : (s.toReport o).Canonical :=
  { h with }

theorem State.Canonical.endStartLoad {s : State} (h : s.Canonical) (op : ImageOp) (res : OpResult) :
    (s.endStartLoad op res).Canonical := by
  have loaded := (h.setBank op.bank (Bank.canonical_afterLoad (h.bankTables op.bank) (res == .ok))).imageHold op.bank none
  have left := loaded.imageAt { op with page := none, carry := [] }
  unfold State.endStartLoad
  dsimp only
  split
  · exact left.startCheck 0
  · exact (left.toReport _).startCheck 2
  all_goals exact (left.toReport _).startCheck 2

theorem State.Canonical.endRead {s : State} (h : s.Canonical) (op : ImageOp) (res : OpResult) :
    (s.endRead op res).Canonical := by
  unfold State.endRead
  split
  · refine .offer ?_
    rw [Ev.raise_st]
    exact ((h.setBank op.bank (Bank.canonical_afterLoad (h.bankTables op.bank) _)).imageHold op.bank none).imageReady
  · refine .offer ?_
    rw [Ev.raise_st]
    exact (h.imageHold op.bank none).imageReady
  · exact h.endStartLoad op res
  · exact h

theorem State.Canonical.pagePassed {s : State} (h : s.Canonical) (op : ImageOp) (p : Nat) (bytes : List Byte) :
    (s.pagePassed op p bytes).Canonical := by
  unfold State.pagePassed
  split
  · split
    · exact h.imageAt _
    · exact h.endRead op _
  · dsimp only
    split
    · split
      · exact h.endRead op _
      · split
        · exact h.imageAt _
        · exact h.endRead op _
    all_goals
      have written := fun records => h.setBank op.bank (Bank.canonical_loadRecords (h.bankTables op.bank) records)
      split
      · exact (written _).endRead op _
      · split
        · exact (written _).imageAt _
        · exact (written _).endRead op _

theorem State.Canonical.pageRead {s : State} (h : s.Canonical) (op : ImageOp) (p : Nat) (bytes : List Byte) :
    (s.pageRead op p bytes).Canonical := by
  unfold State.pageRead
  split
  · exact h.endRead op _
  · split
    · exact h.pagePassed op p bytes
    · split
      · exact h.imageAt _
      · exact h.endRead op _

theorem pageReadCompletion_canonical (r : PageRead) : Keeps State.Canonical (.pageReadCompletion r) := by
  intro s t h ht
  change execPageReadCompletion r s = _ at ht
  unfold execPageReadCompletion at ht
  split at ht
  · cases ht
  · split at ht
    · cases ht; exact h
    · split at ht <;> cases ht
      · exact h
      · exact h
      · exact h.pageRead _ _ _

theorem pageWriteCompletion_canonical : Keeps State.Canonical .pageWriteCompletion := by
  intro s t h ht
  change execPageWriteCompletion s = _ at ht
  unfold execPageWriteCompletion at ht
  split at ht
  · cases ht; exact h
  · rename_i op _
    split at ht
    · rename_i p _ _
      have page := h.setFlashPage p (s.savePage op p)
      dsimp only at ht
      split at ht
      · exact (page.imageHold op.bank none).imageReady.raised ht
      · split at ht <;> cases ht
        · exact page.imageAt _
        · exact page.imageAt _
    · cases ht; exact h

/-- After reset every table is empty, but for the hold of START-LOAD (R182). -/
theorem State.reset_canonical : State.reset.Canonical where
  lifs := rfl
  slots := rfl
  sentParity := rfl
  stores := rfl
  rates := rfl
  banks := rfl
  bankTables _ := rfl
  holds := rfl
  lineDefects := rfl
  defects := rfl
  watches := rfl
  patterns := rfl
  groups := rfl
  flash := rfl
  egress _ h := nomatch h
  ended _ h := nomatch h

/-- The flash keeps its contents at reset, but for a page whose write is cut (R176, R182). -/
theorem resetLine_canonical (a b : Bool) : Keeps State.Canonical (.resetLine a b) := by
  intro s t h ht
  change execResetLine a b s = _ at ht
  unfold execResetLine at ht
  dsimp only at ht
  split at ht <;> cases ht
  · exact { State.reset_canonical with flash := Table.wf_set _ _ _ _ h.flash }
  · exact { State.reset_canonical with flash := h.flash }

/-! ### Transfers and takes (R156 to R161) -/

/-- Every transfer changes its link alone. -/
theorem State.Canonical.transferred {s t : State} (h : s.Canonical) {x : Link} {l : LinkState}
    (ht : (.next (s.setLink x l) : Answer) = .next t) : t.Canonical := by
  cases ht; exact h.setLink x l

theorem skippedTransfer_canonical (x : Link) (p : SkipPart) : Keeps State.Canonical (.skippedTransfer x p) := by
  intro s t h ht
  change execSkippedTransfer x p s = _ at ht
  unfold execSkippedTransfer at ht
  split at ht
  · cases ht
  · exact h.transferred ht

/-- A judgement that keeps the canonical form of every table. -/
def JudgesCanonically (judge : List Byte → State → Judged) : Prop :=
  ∀ args s, s.Canonical → (judge args s).1.st.Canonical

/-- A take keeps the canonical form, if the command's judgement does. -/
theorem JudgesCanonically.take {judge : List Byte → State → Judged} (hj : JudgesCanonically judge) {code : Byte}
    {d : Bool} {x : Link} {s t : State} (h : s.Canonical) (ht : takeCommand code d x judge s = .next t) : t.Canonical :=
  takeCommand_keeps (fun _ he => State.Canonical.offer he) (fun _ x _ _ hs => hs.setLink x _) h (fun args => hj args s h) ht

theorem JudgesLink.canonical {x : Link} {judge : List Byte → State → Judged} (hj : JudgesLink x judge) :
    JudgesCanonically judge := by
  intro args s h
  obtain ⟨l, heq, -⟩ := hj args s
  rw [heq]
  exact h.setLink x l

theorem judgesCanonically_of_takesImage {judge : List Byte → State → Judged}
    (hj : ∀ args s, State.TakesImage s (judge args s).1) : JudgesCanonically judge := by
  intro args s h
  rcases hj args s with heq | ⟨op, b, k, heq⟩ <;> rw [heq]
  · exact h
  · exact (h.imageHold b (some k)).imageAt _

theorem judgeSetParameters_canonical : JudgesCanonically judgeSetParameters := by
  intro args s h; unfold judgeSetParameters; split <;> exact { h with }
theorem judgeSetTime_canonical : JudgesCanonically judgeSetTime := by
  intro args s h; unfold judgeSetTime; split <;> exact { h with }
theorem judgeReadTime_canonical : JudgesCanonically judgeReadTime := by
  intro args s h; unfold judgeReadTime; split <;> exact h
theorem judgeReadLines_canonical : JudgesCanonically judgeReadLines := by
  intro args s h; unfold judgeReadLines; split <;> exact h

/-- An accepted write replaces the bank by one whose tables are canonical (R58). -/
theorem judgeWrite_canonical {s : State} (h : s.Canonical) (b : BankNo) (index : List Byte) (clamped : Bool)
    {put : Bank → Bank} (hput : ∀ v : Bank, v.canonical = true → (put v).canonical = true) (record : Bank → List Byte) :
    (judgeWrite b index clamped put record s).1.st.Canonical := by
  unfold judgeWrite
  split
  · exact h
  · split
    · exact h
    · exact h.setBank b (v := (put (s.bank b)).bumped) (hput _ (h.bankTables b))

theorem judgeWriteEntry_canonical : JudgesCanonically judgeWriteEntry := by
  intro args s h
  unfold judgeWriteEntry
  (repeat' split)
  any_goals exact h
  exact judgeWrite_canonical h _ _ _ (fun _ hv => Bank.canonical_setEntry hv _ _) _

theorem judgeWriteProfile_canonical : JudgesCanonically judgeWriteProfile := by
  intro args s h
  unfold judgeWriteProfile
  (repeat' split)
  any_goals exact h
  exact judgeWrite_canonical h _ _ _ (fun _ hv => Bank.canonical_setProfile hv _ _) _

theorem judgeWriteGroup_canonical : JudgesCanonically judgeWriteGroup := by
  intro args s h
  unfold judgeWriteGroup
  (repeat' split)
  any_goals exact h
  exact judgeWrite_canonical h _ _ _ (fun _ hv => Bank.canonical_setGroupDef hv _ _) _

/-- A read of a bank changes nothing (R67). -/
theorem judgeRead_st (b : BankNo) (size limit first count : Nat) (i : List Byte) (record : Bank → Nat → List Byte)
    (s : State) : (judgeRead b size limit first count i record s).1.st = s := by
  unfold judgeRead; split <;> rfl

theorem judgeReadEntries_canonical : JudgesCanonically judgeReadEntries := by
  intro args s h
  unfold judgeReadEntries
  (repeat' split)
  any_goals exact h
  rwa [judgeRead_st]

theorem judgeReadProfiles_canonical : JudgesCanonically judgeReadProfiles := by
  intro args s h
  unfold judgeReadProfiles
  (repeat' split)
  any_goals exact h
  rwa [judgeRead_st]

theorem judgeReadGroups_canonical : JudgesCanonically judgeReadGroups := by
  intro args s h
  unfold judgeReadGroups
  (repeat' split)
  any_goals exact h
  rwa [judgeRead_st]

theorem judgeClearBank_canonical : JudgesCanonically judgeClearBank := by
  intro args s h
  unfold judgeClearBank
  (repeat' split)
  any_goals exact h
  exact { h.mapHold _ _ with }

theorem judgeCopyBank_canonical : JudgesCanonically judgeCopyBank := by
  intro args s h
  unfold judgeCopyBank
  (repeat' split)
  any_goals exact h
  exact { (h.mapHold _ _).mapHold _ _ with }

theorem judgeVerifyBank_canonical : JudgesCanonically judgeVerifyBank := by
  intro args s h
  unfold judgeVerifyBank
  (repeat' split)
  any_goals exact h
  exact { h.mapHold _ _ with }

theorem judgeActivateBank_canonical : JudgesCanonically judgeActivateBank := by
  intro args s h
  unfold judgeActivateBank judgeActivate
  dsimp only
  (repeat' split)
  any_goals exact h
  exact h.startCheck _

theorem judgePushRequest_canonical (x : Link) : JudgesCanonically (judgePushRequest x) := by
  intro args s h
  unfold judgePushRequest
  dsimp only
  (repeat' split)
  any_goals exact h
  exact Ev.evaluateGroup_canonical (e := Ev.start s) h _ _

theorem judgeWithdrawRequest_canonical : JudgesCanonically judgeWithdrawRequest := by
  intro args s h
  unfold judgeWithdrawRequest
  dsimp only
  (repeat' split)
  any_goals exact h
  exact Ev.evaluateGroup_canonical (e := Ev.start s) h _ _

theorem judgeWithdrawAll_canonical : JudgesCanonically judgeWithdrawAll := by
  intro args s h
  unfold judgeWithdrawAll
  dsimp only
  (repeat' split)
  any_goals exact h
  exact Ev.evaluateGroup_canonical (e := Ev.start s) h _ _

theorem judgeReadGroupState_canonical : JudgesCanonically judgeReadGroupState := by
  intro args s h; unfold judgeReadGroupState; split <;> exact h

theorem judgeReadStamp_canonical : JudgesCanonically judgeReadStamp := by
  intro args s h
  unfold judgeReadStamp
  split
  · exact h.setGroup _ _
  · exact h

theorem judgeSetStampLock_canonical : JudgesCanonically judgeSetStampLock := by
  intro args s h
  unfold judgeSetStampLock
  dsimp only
  (repeat' split)
  any_goals exact h
  exact h.setGroup _ _

theorem judgeReadSource_canonical : JudgesCanonically judgeReadSource := by
  intro args s h; unfold judgeReadSource; (repeat' split) <;> exact h

theorem judgeReadLatches_canonical : JudgesCanonically judgeReadLatches := by
  intro args s h; unfold judgeReadLatches; (repeat' split) <;> exact h

theorem State.Canonical.setWatchEvent {s : State} (h : s.Canonical) (n : Nat) (w : Watch) :
    (s.setWatchEvent n w).st.Canonical := by
  refine Ev.evalPatterns_canonical ?_
  split
  · refine Ev.evalLevelWatch_canonical ?_ _
    exact h.setWatch _ _
  · exact h.setWatch _ _

theorem judgeSetWatch_canonical : JudgesCanonically judgeSetWatch := by
  intro args s h
  unfold judgeSetWatch
  split
  · dsimp only
    split
    · split
      · exact h
      · dsimp only
        exact h.setWatchEvent _ _
    · exact h
  · exact h

theorem judgeAckLatch_canonical : JudgesCanonically judgeAckLatch := by
  intro args s h
  unfold judgeAckLatch
  dsimp only
  (repeat' split)
  any_goals exact h
  refine Ev.evalLevelWatch_canonical ?_ _
  exact h.setWatch _ _

theorem judgeSetPattern_canonical : JudgesCanonically judgeSetPattern := by
  intro args s h
  unfold judgeSetPattern
  dsimp only
  (repeat' split)
  any_goals exact h
  refine Ev.evalPattern_canonical ?_ _
  exact h.setPattern _ _

theorem judgeAckPattern_canonical : JudgesCanonically judgeAckPattern := by
  intro args s h
  unfold judgeAckPattern
  dsimp only
  (repeat' split)
  any_goals exact h
  refine Ev.evalPattern_canonical ?_ _
  exact h.setPattern _ _

/-! ### Every step -/

theorem exec_canonical (i : Instr) : Keeps State.Canonical i := by
  cases i with
  | resetLine a b => exact resetLine_canonical a b
  | signalAbsent l => exact signalAbsent_canonical l
  | signalPresent l => exact signalPresent_canonical l
  | alignmentFind l p w => exact alignmentFind_canonical l p w
  | confirmWord l w => exact confirmWord_canonical l w
  | lockedWord l w => exact lockedWord_canonical l w
  | ingressArrival l r => exact ingressArrival_canonical l r
  | frameMark m => exact frameMark_canonical m
  | referenceLost => exact fun s t h ht => by cases ht; exact h.boundary _
  | oscillatorBoundary => exact fun s t h ht => by cases ht; exact h.boundary _
  | regainGap => exact regainGap_canonical
  | secondRollover c => exact fun s t h ht => h.dueBoundary ht
  | windowEnd c => exact fun s t h ht => h.dueBoundary ht
  | holdOffExpiry g x c => exact fun s t h ht => h.dueBoundary ht
  | restoreWaitExpiry g c => exact fun s t h ht => h.dueBoundary ht
  | alertDelayExpiry x c => exact fun s t h ht => h.dueBoundary ht
  | adoption c => exact fun s t h ht => h.dueBoundary ht
  | clearCompletion => exact clearCompletion_canonical
  | copyCompletion => exact copyCompletion_canonical
  | verifyCompletion => exact verifyCompletion_canonical
  | activationCheckEnd => exact activationCheckEnd_canonical
  | pageReadCompletion r => exact pageReadCompletion_canonical r
  | pageWriteCompletion => exact pageWriteCompletion_canonical
  | frameArrival x p => exact fun s t h ht => h.transferred ht
  | readTransfer x p => exact fun s t h ht => h.transferred ht
  | skippedTransfer x p => exact skippedTransfer_canonical x p
  | readStatus x => exact fun s t h ht => (judgeReadStatus_link x).canonical.take h ht
  | setParameters x => exact fun s t h ht => judgeSetParameters_canonical.take h ht
  | linkReset x => exact fun s t h ht => (judgeLinkReset_link x).canonical.take h ht
  | subscribe x => exact fun s t h ht => (judgeSubscribe_link x).canonical.take h ht
  | setAlert x => exact fun s t h ht => (judgeSetAlert_link x).canonical.take h ht
  | readNotices x => exact fun s t h ht => (judgeReadNotices_link x).canonical.take h ht
  | setTime x => exact fun s t h ht => judgeSetTime_canonical.take h ht
  | readTime x => exact fun s t h ht => judgeReadTime_canonical.take h ht
  | readLines x => exact fun s t h ht => judgeReadLines_canonical.take h ht
  | writeEntry x => exact fun s t h ht => judgeWriteEntry_canonical.take h ht
  | writeProfile x => exact fun s t h ht => judgeWriteProfile_canonical.take h ht
  | writeGroup x => exact fun s t h ht => judgeWriteGroup_canonical.take h ht
  | readEntries x => exact fun s t h ht => judgeReadEntries_canonical.take h ht
  | readProfiles x => exact fun s t h ht => judgeReadProfiles_canonical.take h ht
  | readGroups x => exact fun s t h ht => judgeReadGroups_canonical.take h ht
  | clearBank x => exact fun s t h ht => judgeClearBank_canonical.take h ht
  | copyBank x => exact fun s t h ht => judgeCopyBank_canonical.take h ht
  | verifyBank x => exact fun s t h ht => judgeVerifyBank_canonical.take h ht
  | activateBank x => exact fun s t h ht => judgeActivateBank_canonical.take h ht
  | pushRequest x => exact fun s t h ht => (judgePushRequest_canonical x).take h ht
  | withdrawRequest x => exact fun s t h ht => judgeWithdrawRequest_canonical.take h ht
  | withdrawAll x => exact fun s t h ht => judgeWithdrawAll_canonical.take h ht
  | readGroupState x => exact fun s t h ht => judgeReadGroupState_canonical.take h ht
  | readStamp x => exact fun s t h ht => judgeReadStamp_canonical.take h ht
  | setStampLock x => exact fun s t h ht => judgeSetStampLock_canonical.take h ht
  | readSource x => exact fun s t h ht => judgeReadSource_canonical.take h ht
  | setWatch x => exact fun s t h ht => judgeSetWatch_canonical.take h ht
  | readLatches x => exact fun s t h ht => judgeReadLatches_canonical.take h ht
  | ackLatch x => exact fun s t h ht => judgeAckLatch_canonical.take h ht
  | setPattern x => exact fun s t h ht => judgeSetPattern_canonical.take h ht
  | ackPattern x => exact fun s t h ht => judgeAckPattern_canonical.take h ht
  | saveImage x => exact fun s t h ht => (judgesCanonically_of_takesImage judgeSaveImage_takes).take h ht
  | loadImage x => exact fun s t h ht => (judgesCanonically_of_takesImage judgeLoadImage_takes).take h ht
  | verifyImage x => exact fun s t h ht => (judgesCanonically_of_takesImage judgeVerifyImage_takes).take h ht

/-- Settles O55: every writer keeps its table canonical (`Table.wf_set`), and every command is made of writers
(`exec_canonical`). -/
theorem everyStepKeepsTablesCanonical : Obligations.EveryStepKeepsTablesCanonical := by
  intro s t h ht
  rcases step_cases ht with ⟨-, heq⟩ | ⟨c, rest, -, heq⟩
  · cases heq; exact h
  · refine exec_canonical c { s with pending := rest } t ?_ heq.symm
    exact { h with }

end Sys2Proof.Machine
end

section
/-! SUPPORT. What the argument bytes of the bank commands say (R51, R59 to R61), and which records their local checks
refuse. -/

namespace Sys2Proof.Machine

/-! ### Codes and quantities -/

/-- A byte is a code exactly when its value is. -/
theorem byte_eq_iff {b : Byte} {n : Nat} (hn : n < 256) : b = BitVec.ofNat 8 n ↔ b.toNat = n := by
  rw [← BitVec.toNat_inj, byte1_toNat n hn]

theorem bankOf_eq_none {b : Byte} : bankOf b = none ↔ 2 < b.toNat := by
  unfold bankOf
  split
  · simp; omega
  · simp; omega

theorem bankOf_eq_some {b : Byte} {k : BankNo} : bankOf b = some k ↔ b.toNat = k.val := by
  unfold bankOf
  split
  · simp [Fin.ext_iff]
  · rename_i h
    have := k.isLt
    simp; omega

/-- A width field that is no width (R54, R59). -/
theorem widthOf_eq_none {n : Nat} : widthOf n = none ↔ n ∉ [1, 2, 4, 8] := by
  unfold widthOf
  (repeat' split) <;> simp_all

theorem aligned_iff {n : Nat} {w : Width} : aligned n w = true ↔ n % w.toNat = 0 := by simp [aligned]

theorem slotRefOk_iff {r : Nat} {w : Width} : slotRefOk r w = true ↔ r < 1536 ∧ r % w.toNat = 0 := by
  simp [slotRefOk, aligned_iff]

/-- The top bit of a record's first byte (R60, R61). -/
theorem definedBit_iff (b : Byte) : b.getLsbD 7 = true ↔ 128 ≤ b.toNat := by
  have := b.isLt
  rw [BitVec.getLsbD, Nat.testBit_eq_decide_div_mod_eq, decide_eq_true_eq]
  omega

/-- What holds of every width that a field gives holds of its value, unless that is no width. -/
theorem forall_widthOf {n : Nat} {P : Nat → Prop} :
    (∀ w, widthOf n = some w → P w.toNat) ↔ n ∉ [1, 2, 4, 8] ∨ P n := by
  cases hw : widthOf n with
  | none => simp [widthOf_eq_none.mp hw]
  | some w =>
    obtain rfl := widthOf_eq_some hw
    have isWidth : w.toNat ∈ [1, 2, 4, 8] := by cases w <;> decide
    simp only [Option.some.injEq, forall_eq', isWidth, not_true, false_or]

/-! ### Entries (R59) -/

theorem decodeEntry_idle (i : Nat) {k : Byte} (w r1 r0 p t : Byte) (hk : k.toNat = 0) :
    decodeEntry i [k, w, r1, r0, p, t] = some .idle := by
  rw [(byte_eq_iff (n := 0) (by decide)).mpr hk]
  rfl

/-- R59: the entry of a kind that is not IDLE, with its width, for an index. -/
def entryOfKind (i kind ref : Nat) (tag : Option Byte) (width : Width) : Option Entry :=
  if i % width.toNat ≠ 0 then none
  else if kind = 1 then if ref < 1536 ∧ ref % width.toNat = 0 then some (.source width ref tag) else none
  else if kind = 2 then if ref < 256 then some (.group width ref tag) else none
  else if kind = 3 then if ref < 1536 ∧ ref % width.toNat = 0 then some (.follow width ref tag) else none
  else none

theorem decodeEntry_of_kind (i : Nat) {k : Byte} (w r1 r0 p t : Byte) (hk : k.toNat ≠ 0) :
    decodeEntry i [k, w, r1, r0, p, t] = (widthOf w.toNat).bind (entryOfKind i k.toNat (value2 r1 r0) (tagOf p t)) := by
  have idle : k ≠ 0x00#8 := fun h => hk ((byte_eq_iff (by decide)).mp h)
  cases hw : widthOf w.toNat with
  | none => simp only [decodeEntry, if_neg idle, hw, Option.bind_none]
  | some width =>
    simp only [decodeEntry, entryOfKind, if_neg idle, hw, Option.bind_some, byte_eq_iff (n := 1) (by decide),
      byte_eq_iff (n := 2) (by decide), byte_eq_iff (n := 3) (by decide), slotRefOk_iff, Bool.not_eq_true',
      ← Bool.not_eq_true, aligned_iff]

/-- What R59 refuses of an entry that is not IDLE, beside its width field. -/
def kindRefused (i kind ref width : Nat) : Prop :=
  3 < kind ∨ i % width ≠ 0 ∨ (kind = 1 ∨ kind = 3) ∧ (1536 ≤ ref ∨ ref % width ≠ 0) ∨ kind = 2 ∧ 256 ≤ ref

theorem entryOfKind_eq_none {i kind ref : Nat} {tag : Option Byte} {width : Width} (hk : kind ≠ 0) :
    entryOfKind i kind ref tag width = none ↔ kindRefused i kind ref width.toNat := by
  unfold entryOfKind kindRefused
  generalize width.toNat = w
  by_cases index : i % w = 0
  · by_cases source : kind = 1
    · simp [index, source]; omega
    by_cases group : kind = 2
    · simp [index, group]
    by_cases follow : kind = 3
    · simp [index, follow]; omega
    simp only [index, source, group, follow, ne_eq, not_true, if_false, true_iff]
    omega
  · simp [index]

theorem entryRefused_iff {i : Nat} {k w r1 r0 p t : Byte} :
    entryRefused i [k, w, r1, r0, p, t]
      ↔ k.toNat ≠ 0 ∧ (w.toNat ∉ [1, 2, 4, 8] ∨ kindRefused i k.toNat (value2 r1 r0) w.toNat) := by
  have spelt : entryRefused i [k, w, r1, r0, p, t] ↔ 3 < k.toNat ∨ k.toNat ≠ 0 ∧ (w.toNat ∉ [1, 2, 4, 8]
      ∨ i % w.toNat ≠ 0 ∨ (k.toNat = 1 ∨ k.toNat = 3) ∧ (1536 ≤ value2 r1 r0 ∨ value2 r1 r0 % w.toNat ≠ 0)
      ∨ k.toNat = 2 ∧ 256 ≤ value2 r1 r0) := Iff.rfl
  rw [spelt, kindRefused]
  constructor
  · rintro (unknown | ⟨nonzero, width | rest⟩)
    · exact ⟨by omega, .inr (.inl unknown)⟩
    · exact ⟨nonzero, .inl width⟩
    · exact ⟨nonzero, .inr (.inr rest)⟩
  · rintro ⟨nonzero, width | unknown | rest⟩
    · exact .inr ⟨nonzero, .inl width⟩
    · exact .inl unknown
    · exact .inr ⟨nonzero, .inr rest⟩

/-- R59: the local checks refuse an entry exactly where its bytes give no form. -/
theorem decodeEntry_eq_none {i : Nat} {k w r1 r0 p t : Byte} :
    decodeEntry i [k, w, r1, r0, p, t] = none ↔ entryRefused i [k, w, r1, r0, p, t] := by
  rw [entryRefused_iff]
  by_cases hk : k.toNat = 0
  · simp [decodeEntry_idle i w r1 r0 p t hk, hk]
  · rw [decodeEntry_of_kind i w r1 r0 p t hk, Option.bind_eq_none_iff, and_iff_right hk]
    simp only [entryOfKind_eq_none hk]
    exact forall_widthOf

/-! ### Profiles and groups (R60, R61) -/

theorem decodeProfile_undefined (i : Nat) {b0 : Byte} (b1 b2 b3 : Byte) (h : b0.toNat < 128) :
    decodeProfile i [b0, b1, b2, b3] = some none := by
  have bit : ¬b0.getLsbD 7 = true := by rw [definedBit_iff]; omega
  simp only [decodeProfile, Bool.not_eq_true _ ▸ bit, Bool.not_false, if_true]

/-- The checks of a defined profile (R60). -/
theorem decodeProfile_defined (i : Nat) {b0 : Byte} (b1 b2 b3 : Byte) (h : 128 ≤ b0.toNat) :
    decodeProfile i [b0, b1, b2, b3] = (widthOf (b0.toNat % 16)).bind fun width =>
      if i % width.toNat = 0 then some (some ⟨width, if b0.getLsbD 6 then some b1 else none, value2 b2 b3⟩) else none := by
  have bit : b0.getLsbD 7 = true := (definedBit_iff b0).mpr h
  cases hw : widthOf (b0.toNat % 16) with
  | none => simp only [decodeProfile, bit, hw, Bool.not_true, Bool.false_eq_true, if_false, Option.bind_none]
  | some width =>
    simp only [decodeProfile, bit, hw, Bool.not_true, Bool.false_eq_true, if_false, Option.bind_some, aligned_iff]

/-- R60: the local checks refuse a profile exactly where its bytes give no form. -/
theorem decodeProfile_eq_none {i : Nat} {b0 b1 b2 b3 : Byte} :
    decodeProfile i [b0, b1, b2, b3] = none ↔ profileRefused i [b0, b1, b2, b3] := by
  change _ ↔ 128 ≤ b0.toNat ∧ (b0.toNat % 16 ∉ [1, 2, 4, 8] ∨ i % (b0.toNat % 16) ≠ 0)
  by_cases h : 128 ≤ b0.toNat
  · rw [decodeProfile_defined i b1 b2 b3 h, Option.bind_eq_none_iff, and_iff_right h]
    simp only [ite_eq_right_iff, reduceCtorEq, imp_false]
    exact forall_widthOf (P := fun width => i % width ≠ 0)
  · simp [decodeProfile_undefined i b1 b2 b3 (Nat.lt_of_not_le h), h]

theorem decodeGroup_undefined {b0 : Byte} (b1 b2 b3 b4 b5 b6 b7 : Byte) (h : b0.toNat < 128) :
    decodeGroup [b0, b1, b2, b3, b4, b5, b6, b7] = some none := by
  have bit : ¬b0.getLsbD 7 = true := by rw [definedBit_iff]; omega
  simp only [decodeGroup, Bool.not_eq_true _ ▸ bit, Bool.not_false, if_true]

/-- The checks of a defined group (R61). -/
theorem decodeGroup_defined {b0 : Byte} (b1 b2 b3 b4 b5 b6 b7 : Byte) (h : 128 ≤ b0.toNat) :
    decodeGroup [b0, b1, b2, b3, b4, b5, b6, b7] = (widthOf (b0.toNat % 16)).bind fun width =>
      if (value2 b1 b2 < 1536 ∧ value2 b1 b2 % width.toNat = 0) ∧ value2 b3 b4 < 1536 ∧ value2 b3 b4 % width.toNat = 0 then
        some (some ⟨width, value2 b1 b2, value2 b3 b4, b0.getLsbD 6, b5.toNat, b6.toNat⟩)
      else none := by
  have bit : b0.getLsbD 7 = true := (definedBit_iff b0).mpr h
  cases hw : widthOf (b0.toNat % 16) with
  | none => simp only [decodeGroup, bit, hw, Bool.not_true, Bool.false_eq_true, if_false, Option.bind_none]
  | some width =>
    simp only [decodeGroup, bit, hw, Bool.not_true, Bool.false_eq_true, if_false, Option.bind_some, Bool.and_eq_true,
      slotRefOk_iff]

/-- R61: the local checks refuse a group exactly where its bytes give no form. -/
theorem decodeGroup_eq_none {b0 b1 b2 b3 b4 b5 b6 b7 : Byte} :
    decodeGroup [b0, b1, b2, b3, b4, b5, b6, b7] = none ↔ groupRefused [b0, b1, b2, b3, b4, b5, b6, b7] := by
  change _ ↔ 128 ≤ b0.toNat ∧ (b0.toNat % 16 ∉ [1, 2, 4, 8] ∨ 1536 ≤ value2 b1 b2 ∨ value2 b1 b2 % (b0.toNat % 16) ≠ 0
    ∨ 1536 ≤ value2 b3 b4 ∨ value2 b3 b4 % (b0.toNat % 16) ≠ 0)
  by_cases h : 128 ≤ b0.toNat
  · rw [decodeGroup_defined b1 b2 b3 b4 b5 b6 b7 h, Option.bind_eq_none_iff, and_iff_right h]
    simp only [ite_eq_right_iff, reduceCtorEq, imp_false, not_and_or, Nat.not_lt, or_assoc]
    exact forall_widthOf (P := fun width => 1536 ≤ value2 b1 b2 ∨ value2 b1 b2 % width ≠ 0 ∨ 1536 ≤ value2 b3 b4
      ∨ value2 b3 b4 % width ≠ 0)
  · simp [decodeGroup_undefined b1 b2 b3 b4 b5 b6 b7 (Nat.lt_of_not_le h), h]

end Sys2Proof.Machine
end

section
/-! SUPPORT. Which arguments each catalogue command refuses with BAD_ARGUMENT (R51, R59 to R61, R184, file 12): the judgement
of each, case by case. -/

namespace Sys2Proof.Machine

/-! ### Lengths and values of arguments -/

/-- An argument of a length is its bytes one by one. -/
theorem eq_map_getD {l : List Byte} {n : Nat} (h : l.length = n) : l = (List.range n).map (fun k => l.getD k 0x00#8) := by
  subst h
  refine List.ext_getElem (by simp) (fun k hk _ => ?_)
  simp [hk]

/-- A judgement refuses with BAD_ARGUMENT, and does nothing, exactly the arguments of another length and those with a refused
value. -/
def JudgesArguments (lengths : List Nat) (bad : List Byte → Prop) (judge : List Byte → State → Judged) : Prop :=
  ∀ args s,
    judge args s = refused s .badArgument ∧ (args.length ∉ lengths ∨ bad args)
      ∨ (judge args s).2.outcome ≠ .badArgument ∧ args.length ∈ lengths ∧ ¬bad args

namespace JudgesArguments

variable {lengths : List Nat} {bad : List Byte → Prop} {judge : List Byte → State → Judged}
  (h : JudgesArguments lengths bad judge)
include h

theorem refuses {args : List Byte} (ha : args.length ∉ lengths ∨ bad args) (s : State) :
    judge args s = refused s .badArgument := by
  rcases h args s with ⟨heq, -⟩ | ⟨-, hl, hv⟩
  · exact heq
  · exact (ha.elim (· hl) hv).elim

theorem answers {args : List Byte} (hl : args.length ∈ lengths) (hv : ¬bad args) (s : State) :
    (judge args s).2.outcome ≠ .badArgument := by
  rcases h args s with ⟨-, ha⟩ | ⟨hn, -⟩
  · exact (ha.elim (· hl) hv).elim
  · exact hn

end JudgesArguments

/-! ### Codes that name nothing -/

/-- A byte with the two codes 00h and 01h names nothing from 02h on. -/
theorem twoCodes_eq_none {α : Type} {b : Byte} {x y : α} :
    (if b = 0x00#8 then some x else if b = 0x01#8 then some y else none) = none ↔ 1 < b.toNat := by
  simp only [byte_eq_iff (n := 0) (by decide), byte_eq_iff (n := 1) (by decide)]
  split
  · simp; omega
  · split
    · simp; omega
    · simp; omega

theorem flagOf_eq_none {b : Byte} : flagOf b = none ↔ 1 < b.toNat := twoCodes_eq_none
theorem watchLevelOf_eq_none {b : Byte} : watchLevelOf b = none ↔ 1 < b.toNat := twoCodes_eq_none
theorem watchTypeOf_eq_none {b : Byte} : watchTypeOf b = none ↔ 1 < b.toNat := twoCodes_eq_none

theorem patternFieldOf_eq_none {b : Byte} : patternFieldOf b = none ↔ 7 < b.toNat ∧ b.toNat ≠ 0xFF := by
  unfold patternFieldOf
  simp only [byte_eq_iff (n := 255) (by decide)]
  (repeat' split) <;> simp_all

theorem controllerKind_eq_none {b : Byte} : controllerKind b = none ↔ b.toNat ∉ [2, 3, 7, 9] := by
  unfold controllerKind
  simp only [byte_eq_iff (n := 2) (by decide), byte_eq_iff (n := 3) (by decide), byte_eq_iff (n := 7) (by decide),
    byte_eq_iff (n := 9) (by decide)]
  (repeat' split) <;> simp_all

/-- R122: the bytes of a watch entry with a field that names nothing. -/
theorem decodeWatch_eq_none {latch : Bool} {en lv pol ty cls pat : Byte} :
    decodeWatch latch [en, lv, pol, ty, cls, pat] = none ↔
      (1 < en.toNat ∨ 1 < lv.toNat ∨ 1 < pol.toNat ∨ 1 < ty.toNat) ∨ 15 < cls.toNat
        ∨ 7 < pat.toNat ∧ pat.toNat ≠ 0xFF := by
  rw [← flagOf_eq_none, ← watchLevelOf_eq_none, ← flagOf_eq_none (b := pol), ← watchTypeOf_eq_none,
    ← patternFieldOf_eq_none]
  unfold decodeWatch
  dsimp only
  split
  · rename_i he hl hp ht hs
    simp [he, hl, hp, ht, hs]
  · rename_i absent
    refine iff_of_true rfl ?_
    by_contra named
    simp only [not_or, ← ne_eq, Option.ne_none_iff_exists'] at named
    obtain ⟨⟨⟨e, he⟩, ⟨l, hl⟩, ⟨p, hp⟩, ⟨t, ht⟩⟩, -, ⟨k, hk⟩⟩ := named
    exact absent e l p t k he hl hp ht hk

/-! ### Commands by the number of their argument bytes -/

theorem judgesEmpty {judge : List Byte → State → Judged} (empty : ∀ s, (judge [] s).2.outcome ≠ .badArgument)
    (more : ∀ a l s, judge (a :: l) s = refused s .badArgument) : JudgesArguments [0] (fun _ => False) judge
  | [], s => .inr ⟨empty s, by simp, id⟩
  | a :: l, s => .inl ⟨more a l s, .inl (by simp)⟩

theorem judgesOne {judge : List Byte → State → Judged} {bad : Nat → Prop}
    (one : ∀ a s, judge [a] s = refused s .badArgument ∧ bad a.toNat
      ∨ (judge [a] s).2.outcome ≠ .badArgument ∧ ¬bad a.toNat)
    (empty : ∀ s, judge [] s = refused s .badArgument)
    (more : ∀ a b l s, judge (a :: b :: l) s = refused s .badArgument) :
    JudgesArguments [1] (fun args => bad (argByte args 0)) judge
  | [], s => .inl ⟨empty s, .inl (by simp)⟩
  | [a], s => (one a s).imp (.imp_right .inr) (.imp_right fun good => ⟨by simp, good⟩)
  | a :: b :: l, s => .inl ⟨more a b l s, .inl (by simp)⟩

theorem judgesTwo {judge : List Byte → State → Judged} {bad : List Byte → Prop}
    (two : ∀ a b s, judge [a, b] s = refused s .badArgument ∧ bad [a, b]
      ∨ (judge [a, b] s).2.outcome ≠ .badArgument ∧ ¬bad [a, b])
    (empty : ∀ s, judge [] s = refused s .badArgument) (one : ∀ a s, judge [a] s = refused s .badArgument)
    (more : ∀ a b c l s, judge (a :: b :: c :: l) s = refused s .badArgument) : JudgesArguments [2] bad judge
  | [], s => .inl ⟨empty s, .inl (by simp)⟩
  | [a], s => .inl ⟨one a s, .inl (by simp)⟩
  | [a, b], s => (two a b s).imp (.imp_right .inr) (.imp_right fun good => ⟨by simp, good⟩)
  | a :: b :: c :: l, s => .inl ⟨more a b c l s, .inl (by simp)⟩

/-! ### Device commands -/

theorem judgeReadStatus_arguments (x : Link) : JudgesArguments [0] (fun _ => False) (judgeReadStatus x) :=
  judgesEmpty (fun _ => nofun) (fun _ _ _ => rfl)

theorem judgeLinkReset_arguments (x : Link) : JudgesArguments [0] (fun _ => False) (judgeLinkReset x) :=
  judgesEmpty (fun _ => nofun) (fun _ _ _ => rfl)

theorem judgeReadTime_arguments : JudgesArguments [0] (fun _ => False) judgeReadTime :=
  judgesEmpty (fun _ => nofun) (fun _ _ _ => rfl)

theorem judgeReadLines_arguments : JudgesArguments [0] (fun _ => False) judgeReadLines :=
  judgesEmpty (fun _ => nofun) (fun _ _ _ => rfl)

theorem judgeSetParameters_arguments : JudgesArguments [0, 6] (fun _ => False) judgeSetParameters := by
  intro args s
  unfold judgeSetParameters
  split
  · exact .inr ⟨nofun, by simp, id⟩
  · exact .inr ⟨nofun, by simp, id⟩
  · rename_i empty other
    refine .inl ⟨rfl, .inl fun hl => ?_⟩
    rcases List.mem_pair.mp hl with hl | hl
    · exact empty (eq_map_getD hl)
    · exact other _ _ _ _ _ _ (eq_map_getD hl)

theorem judgeSubscribe_arguments (x : Link) : JudgesArguments [0, 2] (fun _ => False) (judgeSubscribe x) := by
  intro args s
  unfold judgeSubscribe
  split
  · exact .inr ⟨nofun, by simp, id⟩
  · exact .inr ⟨nofun, by simp, id⟩
  · rename_i empty other
    refine .inl ⟨rfl, .inl fun hl => ?_⟩
    rcases List.mem_pair.mp hl with hl | hl
    · exact empty (eq_map_getD hl)
    · exact other _ _ (eq_map_getD hl)

theorem judgeSetAlert_arguments (x : Link) : JudgesArguments [0, 3] (fun _ => False) (judgeSetAlert x) := by
  intro args s
  unfold judgeSetAlert
  split
  · exact .inr ⟨nofun, by simp, id⟩
  · exact .inr ⟨nofun, by simp, id⟩
  · rename_i empty other
    refine .inl ⟨rfl, .inl fun hl => ?_⟩
    rcases List.mem_pair.mp hl with hl | hl
    · exact empty (eq_map_getD hl)
    · exact other _ _ _ (eq_map_getD hl)

theorem judgeReadNotices_arguments (x : Link) :
    JudgesArguments [1] (fun a => argByte a 0 = 0) (judgeReadNotices x) := by
  refine judgesOne (bad := (· = 0)) (fun n s => ?_) (fun _ => rfl) (fun _ _ _ _ => rfl)
  unfold judgeReadNotices
  dsimp only
  split
  · rename_i zero
    exact .inl ⟨rfl, (byte_eq_iff (by decide)).mp zero⟩
  · rename_i nonzero
    exact .inr ⟨nofun, fun bad => nonzero ((byte_eq_iff (by decide)).mpr bad)⟩

theorem judgeSetTime_arguments : JudgesArguments [4] (fun _ => False) judgeSetTime := by
  intro args s
  unfold judgeSetTime
  split
  · exact .inr ⟨nofun, by simp, id⟩
  · rename_i other
    exact .inl ⟨rfl, .inl fun hl => other _ _ _ _ (eq_map_getD (List.mem_singleton.mp hl))⟩

/-! ### Bank commands -/

theorem bankOf_le {b : Byte} {k : BankNo} (h : bankOf b = some k) : ¬2 < b.toNat := by
  rw [← bankOf_eq_none, h]
  nofun

theorem judgeWrite_outcome {b : BankNo} {index : List Byte} {clamped : Bool} {put : Bank → Bank}
    {record : Bank → List Byte} {s : State} : (judgeWrite b index clamped put record s).2.outcome ≠ .badArgument := by
  unfold judgeWrite
  (repeat' split) <;> nofun

theorem judgeRead_outcome {b : BankNo} {size limit first count : Nat} {index : List Byte}
    {record : Bank → Nat → List Byte} {s : State} :
    (judgeRead b size limit first count index record s).2.outcome ≠ .badArgument := by
  unfold judgeRead
  split <;> nofun

theorem judgeWriteEntry_arguments : JudgesArguments [9]
    (fun a => 2 < argByte a 0 ∨ 1536 ≤ argPair a 1 ∨ entryRefused (argPair a 1) (a.drop 3)) judgeWriteEntry := by
  intro args s
  unfold judgeWriteEntry
  split
  · split
    · rename_i absent
      exact .inl ⟨rfl, .inr (.inl (bankOf_eq_none.mp absent))⟩
    · rename_i bank
      split
      · rename_i inside
        split
        · rename_i absent
          exact .inl ⟨rfl, .inr (.inr (.inr (decodeEntry_eq_none.mp absent)))⟩
        · rename_i record
          refine .inr ⟨judgeWrite_outcome, by simp, ?_⟩
          rintro (bad | bad | bad)
          · exact bankOf_le bank bad
          · exact Nat.not_lt.mpr bad inside
          · exact nomatch record.symm.trans (decodeEntry_eq_none.mpr bad)
      · rename_i outside
        exact .inl ⟨rfl, .inr (.inr (.inl (Nat.not_lt.mp outside)))⟩
  · rename_i other
    exact .inl ⟨rfl, .inl fun hl => other _ _ _ _ _ _ _ _ _ (eq_map_getD (List.mem_singleton.mp hl))⟩

theorem judgeWriteProfile_arguments : JudgesArguments [7]
    (fun a => 2 < argByte a 0 ∨ 1536 ≤ argPair a 1 ∨ profileRefused (argPair a 1) (a.drop 3)) judgeWriteProfile := by
  intro args s
  unfold judgeWriteProfile
  split
  · split
    · rename_i absent
      exact .inl ⟨rfl, .inr (.inl (bankOf_eq_none.mp absent))⟩
    · rename_i bank
      split
      · rename_i inside
        split
        · rename_i absent
          exact .inl ⟨rfl, .inr (.inr (.inr (decodeProfile_eq_none.mp absent)))⟩
        · rename_i record
          refine .inr ⟨judgeWrite_outcome, by simp, ?_⟩
          rintro (bad | bad | bad)
          · exact bankOf_le bank bad
          · exact Nat.not_lt.mpr bad inside
          · exact nomatch record.symm.trans (decodeProfile_eq_none.mpr bad)
      · rename_i outside
        exact .inl ⟨rfl, .inr (.inr (.inl (Nat.not_lt.mp outside)))⟩
  · rename_i other
    exact .inl ⟨rfl, .inl fun hl => other _ _ _ _ _ _ _ (eq_map_getD (List.mem_singleton.mp hl))⟩

theorem judgeWriteGroup_arguments :
    JudgesArguments [10] (fun a => 2 < argByte a 0 ∨ groupRefused (a.drop 2)) judgeWriteGroup := by
  intro args s
  unfold judgeWriteGroup
  split
  · split
    · rename_i absent
      exact .inl ⟨rfl, .inr (.inl (bankOf_eq_none.mp absent))⟩
    · rename_i bank
      split
      · rename_i absent
        exact .inl ⟨rfl, .inr (.inr (decodeGroup_eq_none.mp absent))⟩
      · rename_i record
        refine .inr ⟨judgeWrite_outcome, by simp, ?_⟩
        rintro (bad | bad)
        · exact bankOf_le bank bad
        · exact nomatch record.symm.trans (decodeGroup_eq_none.mpr bad)
  · rename_i other
    exact .inl ⟨rfl, .inl fun hl => other _ _ _ _ _ _ _ _ _ _ (eq_map_getD (List.mem_singleton.mp hl))⟩

theorem judgeReadEntries_arguments : JudgesArguments [4]
    (fun a => 2 < argByte a 0 ∨ 1536 ≤ argPair a 1 ∨ argByte a 3 = 0) judgeReadEntries := by
  intro args s
  unfold judgeReadEntries
  split
  · split
    · rename_i absent
      exact .inl ⟨rfl, .inr (.inl (bankOf_eq_none.mp absent))⟩
    · rename_i bank
      split
      · rename_i good
        refine .inr ⟨judgeRead_outcome, by simp, ?_⟩
        rintro (bad | bad | bad)
        · exact bankOf_le bank bad
        · exact Nat.not_lt.mpr bad good.1
        · exact good.2 ((byte_eq_iff (by decide)).mpr bad)
      · rename_i bad
        rw [not_and_or, Nat.not_lt, ne_eq, not_not] at bad
        exact .inl ⟨rfl, .inr (.inr (bad.imp_right (byte_eq_iff (by decide)).mp))⟩
  · rename_i other
    exact .inl ⟨rfl, .inl fun hl => other _ _ _ _ (eq_map_getD (List.mem_singleton.mp hl))⟩

theorem judgeReadProfiles_arguments : JudgesArguments [4]
    (fun a => 2 < argByte a 0 ∨ 1536 ≤ argPair a 1 ∨ argByte a 3 = 0) judgeReadProfiles := by
  intro args s
  unfold judgeReadProfiles
  split
  · split
    · rename_i absent
      exact .inl ⟨rfl, .inr (.inl (bankOf_eq_none.mp absent))⟩
    · rename_i bank
      split
      · rename_i good
        refine .inr ⟨judgeRead_outcome, by simp, ?_⟩
        rintro (bad | bad | bad)
        · exact bankOf_le bank bad
        · exact Nat.not_lt.mpr bad good.1
        · exact good.2 ((byte_eq_iff (by decide)).mpr bad)
      · rename_i bad
        rw [not_and_or, Nat.not_lt, ne_eq, not_not] at bad
        exact .inl ⟨rfl, .inr (.inr (bad.imp_right (byte_eq_iff (by decide)).mp))⟩
  · rename_i other
    exact .inl ⟨rfl, .inl fun hl => other _ _ _ _ (eq_map_getD (List.mem_singleton.mp hl))⟩

theorem judgeReadGroups_arguments :
    JudgesArguments [3] (fun a => 2 < argByte a 0 ∨ argByte a 2 = 0) judgeReadGroups := by
  intro args s
  unfold judgeReadGroups
  split
  · split
    · rename_i absent
      exact .inl ⟨rfl, .inr (.inl (bankOf_eq_none.mp absent))⟩
    · rename_i bank
      split
      · rename_i nonzero
        refine .inr ⟨judgeRead_outcome, by simp, ?_⟩
        rintro (bad | bad)
        · exact bankOf_le bank bad
        · exact nonzero ((byte_eq_iff (by decide)).mpr bad)
      · rename_i zero
        exact .inl ⟨rfl, .inr (.inr ((byte_eq_iff (by decide)).mp (not_not.mp zero)))⟩
  · rename_i other
    exact .inl ⟨rfl, .inl fun hl => other _ _ _ (eq_map_getD (List.mem_singleton.mp hl))⟩

/-- The commands whose argument is one byte, a bank (R80, R177). -/
theorem judgesBank {judge : List Byte → State → Judged}
    (absent : ∀ b s, bankOf b = none → judge [b] s = refused s .badArgument)
    (present : ∀ b k s, bankOf b = some k → (judge [b] s).2.outcome ≠ .badArgument)
    (empty : ∀ s, judge [] s = refused s .badArgument)
    (more : ∀ a b l s, judge (a :: b :: l) s = refused s .badArgument) :
    JudgesArguments [1] (fun a => 2 < argByte a 0) judge := by
  refine judgesOne (bad := (2 < ·)) (fun b s => ?_) empty more
  cases bank : bankOf b with
  | none => exact .inl ⟨absent b s bank, bankOf_eq_none.mp bank⟩
  | some k => exact .inr ⟨present b k s bank, bankOf_le bank⟩

theorem judgeClearBank_arguments : JudgesArguments [1] (fun a => 2 < argByte a 0) judgeClearBank := by
  refine judgesBank (fun b s h => by simp only [judgeClearBank, h]) (fun b k s h => ?_) (fun _ => rfl) (fun _ _ _ _ => rfl)
  simp only [judgeClearBank, h]
  (repeat' split) <;> nofun

theorem judgeVerifyBank_arguments : JudgesArguments [1] (fun a => 2 < argByte a 0) judgeVerifyBank := by
  refine judgesBank (fun b s h => by simp only [judgeVerifyBank, h]) (fun b k s h => ?_) (fun _ => rfl) (fun _ _ _ _ => rfl)
  simp only [judgeVerifyBank, h]
  (repeat' split) <;> nofun

theorem judgeCopyBank_arguments : JudgesArguments [2]
    (fun a => 2 < argByte a 0 ∨ 2 < argByte a 1 ∨ argByte a 0 = argByte a 1) judgeCopyBank := by
  refine judgesTwo (fun b d s => ?_) (fun _ => rfl) (fun _ _ => rfl) (fun _ _ _ _ _ => rfl)
  unfold judgeCopyBank
  dsimp only
  split
  · rename_i src dst source destination
    split
    · rename_i same
      subst same
      exact .inl ⟨rfl, .inr (.inr ((bankOf_eq_some.mp source).trans (bankOf_eq_some.mp destination).symm))⟩
    · rename_i different
      refine .inr ⟨by (repeat' split) <;> nofun, ?_⟩
      rintro (bad | bad | bad)
      · exact bankOf_le source bad
      · exact bankOf_le destination bad
      · exact different (Fin.ext ((bankOf_eq_some.mp source).symm.trans (bad.trans (bankOf_eq_some.mp destination))))
  · rename_i absent
    refine .inl ⟨rfl, ?_⟩
    cases source : bankOf b with
    | none => exact .inl (bankOf_eq_none.mp source)
    | some src =>
      cases destination : bankOf d with
      | none => exact .inr (.inl (bankOf_eq_none.mp destination))
      | some dst => exact (absent src dst source destination).elim

theorem judgeActivate_outcome {bank : BankNo} {expected : Option Half} {s : State} :
    (judgeActivate bank expected s).2.outcome ≠ .badArgument := by
  unfold judgeActivate
  dsimp only
  (repeat' split) <;> nofun

theorem judgeActivateBank_arguments : JudgesArguments [1, 3] (fun a => 2 < argByte a 0) judgeActivateBank := by
  have onBank : ∀ (b : Byte) (expected : Option Half) (args : List Byte) (s : State),
      activateArgument args = some (b, expected) →
      judgeActivateBank args s = refused s .badArgument ∧ 2 < b.toNat
        ∨ (judgeActivateBank args s).2.outcome ≠ .badArgument ∧ ¬2 < b.toNat := by
    intro b expected args s argument
    unfold judgeActivateBank
    rw [argument]
    dsimp only
    split
    · rename_i absent
      exact .inl ⟨rfl, bankOf_eq_none.mp absent⟩
    · rename_i bank
      exact .inr ⟨judgeActivate_outcome, bankOf_le bank⟩
  intro args s
  cases argument : activateArgument args with
  | none =>
    refine .inl ⟨by unfold judgeActivateBank; rw [argument], .inl fun hl => ?_⟩
    rcases List.mem_pair.mp hl with hl | hl
    · rw [eq_map_getD hl] at argument
      cases argument
    · rw [eq_map_getD hl] at argument
      cases argument
  | some found =>
    have judged := onBank found.1 found.2 args s argument
    unfold activateArgument at argument
    split at argument
    · cases argument
      exact judged.imp (.imp_right .inr) (.imp_right fun good => ⟨by simp, good⟩)
    · cases argument
      exact judged.imp (.imp_right .inr) (.imp_right fun good => ⟨by simp, good⟩)
    · cases argument

/-! ### Protection commands -/

theorem judgePushRequest_arguments (x : Link) :
    JudgesArguments [2] (fun a => argByte a 1 ∉ [2, 3, 7, 9]) (judgePushRequest x) := by
  refine judgesTwo (fun g k s => ?_) (fun _ => rfl) (fun _ _ => rfl) (fun _ _ _ _ _ => rfl)
  unfold judgePushRequest
  dsimp only
  split
  · rename_i unnamed
    exact .inl ⟨rfl, controllerKind_eq_none.mp unnamed⟩
  · rename_i named
    exact .inr ⟨by (repeat' split) <;> nofun, fun bad => nomatch named.symm.trans (controllerKind_eq_none.mpr bad)⟩

theorem judgeWithdrawRequest_arguments :
    JudgesArguments [2] (fun a => argByte a 1 ∉ [2, 3, 7, 9]) judgeWithdrawRequest := by
  refine judgesTwo (fun g k s => ?_) (fun _ => rfl) (fun _ _ => rfl) (fun _ _ _ _ _ => rfl)
  unfold judgeWithdrawRequest
  dsimp only
  split
  · rename_i unnamed
    exact .inl ⟨rfl, controllerKind_eq_none.mp unnamed⟩
  · rename_i named
    exact .inr ⟨by (repeat' split) <;> nofun, fun bad => nomatch named.symm.trans (controllerKind_eq_none.mpr bad)⟩

theorem judgeWithdrawAll_arguments : JudgesArguments [1] (fun _ => False) judgeWithdrawAll := by
  refine judgesOne (bad := fun _ => False) (fun g s => .inr ⟨?_, id⟩) (fun _ => rfl) (fun _ _ _ _ => rfl)
  unfold judgeWithdrawAll
  dsimp only
  split <;> nofun

theorem judgeReadGroupState_arguments : JudgesArguments [1] (fun _ => False) judgeReadGroupState :=
  judgesOne (bad := fun _ => False) (fun _ _ => .inr ⟨nofun, id⟩) (fun _ => rfl) (fun _ _ _ _ => rfl)

theorem judgeReadStamp_arguments : JudgesArguments [1] (fun _ => False) judgeReadStamp :=
  judgesOne (bad := fun _ => False) (fun _ _ => .inr ⟨nofun, id⟩) (fun _ => rfl) (fun _ _ _ _ => rfl)

theorem judgeSetStampLock_arguments : JudgesArguments [2] (fun a => 1 < argByte a 1) judgeSetStampLock := by
  refine judgesTwo (fun g v s => ?_) (fun _ => rfl) (fun _ _ => rfl) (fun _ _ _ _ _ => rfl)
  unfold judgeSetStampLock
  dsimp only
  split
  · rename_i unnamed
    exact .inl ⟨rfl, flagOf_eq_none.mp unnamed⟩
  · rename_i named
    exact .inr ⟨by split <;> nofun, fun bad => nomatch named.symm.trans (flagOf_eq_none.mpr bad)⟩

/-! ### Source commands -/

theorem judgeReadSource_arguments : JudgesArguments [2] (fun a => 1536 ≤ argPair a 0) judgeReadSource := by
  refine judgesTwo (fun i1 i0 s => ?_) (fun _ => rfl) (fun _ _ => rfl) (fun _ _ _ _ _ => rfl)
  unfold judgeReadSource
  dsimp only
  split
  · rename_i inside
    exact .inr ⟨nofun, fun bad => Nat.not_lt.mpr bad inside⟩
  · rename_i outside
    exact .inl ⟨rfl, Nat.not_lt.mp outside⟩

theorem judgeAckLatch_arguments : JudgesArguments [2] (fun a => 1536 ≤ argPair a 0) judgeAckLatch := by
  refine judgesTwo (fun i1 i0 s => ?_) (fun _ => rfl) (fun _ _ => rfl) (fun _ _ _ _ _ => rfl)
  unfold judgeAckLatch
  dsimp only
  split
  · rename_i inside
    exact .inr ⟨nofun, fun bad => Nat.not_lt.mpr bad inside⟩
  · rename_i outside
    exact .inl ⟨rfl, Nat.not_lt.mp outside⟩

theorem judgeReadLatches_arguments :
    JudgesArguments [0, 2] (fun a => a ≠ [] ∧ 1536 ≤ argPair a 0) judgeReadLatches := by
  intro args s
  unfold judgeReadLatches
  split
  · exact .inr ⟨nofun, by simp, fun bad => bad.1 rfl⟩
  · split
    · rename_i inside
      exact .inr ⟨nofun, by simp, fun bad => Nat.not_lt.mpr bad.2 inside⟩
    · rename_i outside
      exact .inl ⟨rfl, .inr ⟨nofun, Nat.not_lt.mp outside⟩⟩
  · rename_i empty other
    refine .inl ⟨rfl, .inl fun hl => ?_⟩
    rcases List.mem_pair.mp hl with hl | hl
    · exact empty (eq_map_getD hl)
    · exact other _ _ (eq_map_getD hl)

/-- R122: the flags and codes of a watch entry stand at the places 2 to 5 of the argument. -/
theorem watchCodes_iff {i1 i0 en lv pol ty cls pat : Byte} :
    (∃ k ∈ [2, 3, 4, 5], 1 < argByte [i1, i0, en, lv, pol, ty, cls, pat] k)
      ↔ 1 < en.toNat ∨ 1 < lv.toNat ∨ 1 < pol.toNat ∨ 1 < ty.toNat := by
  simp [argByte]

theorem judgeSetWatch_arguments : JudgesArguments [8] (fun a =>
    1536 ≤ argPair a 0 ∨ (∃ k ∈ [2, 3, 4, 5], 1 < argByte a k) ∨ 15 < argByte a 6
      ∨ 7 < argByte a 7 ∧ argByte a 7 ≠ 0xFF) judgeSetWatch := by
  intro args s
  unfold judgeSetWatch
  split
  · dsimp only
    split
    · rename_i inside
      split
      · rename_i unnamed
        exact .inl ⟨rfl, .inr (.inr ((decodeWatch_eq_none.mp unnamed).imp_left watchCodes_iff.mpr))⟩
      · rename_i named
        refine .inr ⟨nofun, by simp, ?_⟩
        rintro (bad | bad)
        · exact Nat.not_lt.mpr bad inside
        · exact nomatch named.symm.trans (decodeWatch_eq_none.mpr (bad.imp_left watchCodes_iff.mp))
    · rename_i outside
      exact .inl ⟨rfl, .inr (.inl (Nat.not_lt.mp outside))⟩
  · rename_i other
    exact .inl ⟨rfl, .inl fun hl => other _ _ _ _ _ _ _ _ (eq_map_getD (List.mem_singleton.mp hl))⟩

theorem judgeSetPattern_arguments : JudgesArguments [3]
    (fun a => 7 < argByte a 0 ∨ 1 < argByte a 1 ∨ 15 < argByte a 2) judgeSetPattern := by
  intro args s
  unfold judgeSetPattern
  split
  · split
    · rename_i unnamed
      exact .inl ⟨rfl, .inr (.inr (.inl (flagOf_eq_none.mp unnamed)))⟩
    · rename_i named
      split
      · rename_i inside
        refine .inr ⟨nofun, by simp, ?_⟩
        rintro (bad | bad | bad)
        · exact Nat.not_lt.mpr inside.1 bad
        · exact nomatch named.symm.trans (flagOf_eq_none.mpr bad)
        · exact Nat.not_lt.mpr inside.2 bad
      · rename_i outside
        rw [not_and_or, Nat.not_le, Nat.not_le] at outside
        exact .inl ⟨rfl, .inr (outside.imp_right .inr)⟩
  · rename_i other
    exact .inl ⟨rfl, .inl fun hl => other _ _ _ (eq_map_getD (List.mem_singleton.mp hl))⟩

theorem judgeAckPattern_arguments : JudgesArguments [1] (fun a => 7 < argByte a 0) judgeAckPattern := by
  refine judgesOne (bad := (7 < ·)) (fun p s => ?_) (fun _ => rfl) (fun _ _ _ _ => rfl)
  unfold judgeAckPattern
  dsimp only
  split
  · rename_i inside
    exact .inr ⟨nofun, Nat.not_lt.mpr inside⟩
  · rename_i outside
    exact .inl ⟨rfl, Nat.not_le.mp outside⟩

/-! ### Image commands -/

theorem judgeImage_outcome {op : ImageOpName} {name : OpName} {bank : BankNo} {kind : HoldKind} {s : State} :
    (judgeImage op name bank kind s).2.outcome ≠ .badArgument := by
  unfold judgeImage
  dsimp only
  (repeat' split) <;> nofun

theorem judgeSaveImage_arguments : JudgesArguments [1] (fun a => 2 < argByte a 0) judgeSaveImage := by
  refine judgesBank (fun b s h => by simp only [judgeSaveImage, h]) (fun b k s h => ?_) (fun _ => rfl) (fun _ _ _ _ => rfl)
  simp only [judgeSaveImage, h]
  exact judgeImage_outcome

theorem judgeLoadImage_arguments : JudgesArguments [1] (fun a => 2 < argByte a 0) judgeLoadImage := by
  refine judgesBank (fun b s h => by simp only [judgeLoadImage, h]) (fun b k s h => ?_) (fun _ => rfl) (fun _ _ _ _ => rfl)
  simp only [judgeLoadImage, h]
  split
  · nofun
  · exact judgeImage_outcome

theorem judgeVerifyImage_arguments : JudgesArguments [1] (fun a => 2 < argByte a 0) judgeVerifyImage := by
  refine judgesBank (fun b s h => by simp only [judgeVerifyImage, h]) (fun b k s h => ?_) (fun _ => rfl)
    (fun _ _ _ _ => rfl)
  simp only [judgeVerifyImage, h]
  exact judgeImage_outcome

/-! ### Every catalogue command -/

/-- A row of the table of argument rules: the command is the take of a judgement that refuses exactly what the row says. -/
def ArgumentRuleHolds (x : Link) (rule : Byte × List Nat × Instr × (List Byte → Prop)) : Prop :=
  ∃ duringStartUp judge, exec rule.2.2.1 = takeCommand rule.1 duringStartUp x judge
    ∧ JudgesArguments rule.2.1 rule.2.2.2 judge

theorem argumentRules_hold (x : Link) : ∀ rule ∈ argumentRules x, ArgumentRuleHolds x rule := by
  simp only [argumentRules, List.forall_mem_cons]
  exact ⟨⟨_, _, rfl, judgeReadStatus_arguments x⟩, ⟨_, _, rfl, judgeSetParameters_arguments⟩,
    ⟨_, _, rfl, judgeLinkReset_arguments x⟩, ⟨_, _, rfl, judgeSubscribe_arguments x⟩,
    ⟨_, _, rfl, judgeSetAlert_arguments x⟩, ⟨_, _, rfl, judgeReadNotices_arguments x⟩,
    ⟨_, _, rfl, judgeSetTime_arguments⟩, ⟨_, _, rfl, judgeReadTime_arguments⟩, ⟨_, _, rfl, judgeReadLines_arguments⟩,
    ⟨_, _, rfl, judgeWriteEntry_arguments⟩, ⟨_, _, rfl, judgeWriteProfile_arguments⟩,
    ⟨_, _, rfl, judgeWriteGroup_arguments⟩, ⟨_, _, rfl, judgeReadEntries_arguments⟩,
    ⟨_, _, rfl, judgeReadProfiles_arguments⟩, ⟨_, _, rfl, judgeReadGroups_arguments⟩,
    ⟨_, _, rfl, judgeClearBank_arguments⟩, ⟨_, _, rfl, judgeCopyBank_arguments⟩,
    ⟨_, _, rfl, judgeVerifyBank_arguments⟩, ⟨_, _, rfl, judgeActivateBank_arguments⟩,
    ⟨_, _, rfl, judgePushRequest_arguments x⟩, ⟨_, _, rfl, judgeWithdrawRequest_arguments⟩,
    ⟨_, _, rfl, judgeWithdrawAll_arguments⟩, ⟨_, _, rfl, judgeReadGroupState_arguments⟩,
    ⟨_, _, rfl, judgeReadStamp_arguments⟩, ⟨_, _, rfl, judgeSetStampLock_arguments⟩,
    ⟨_, _, rfl, judgeReadSource_arguments⟩, ⟨_, _, rfl, judgeSetWatch_arguments⟩,
    ⟨_, _, rfl, judgeReadLatches_arguments⟩, ⟨_, _, rfl, judgeAckLatch_arguments⟩,
    ⟨_, _, rfl, judgeSetPattern_arguments⟩, ⟨_, _, rfl, judgeAckPattern_arguments⟩,
    ⟨_, _, rfl, judgeSaveImage_arguments⟩, ⟨_, _, rfl, judgeLoadImage_arguments⟩,
    ⟨_, _, rfl, judgeVerifyImage_arguments⟩, nofun⟩

/-- The outcome that a take writes into the response buffer is its judgement's (R158). -/
theorem takeCommand_outcome {code : Byte} {d : Bool} {x : Link} {judge : List Byte → State → Judged} {s : State}
    {args : List Byte} (h : s.waits x code args) (hs : s.image.finished = true) :
    ∃ t, takeCommand code d x judge s = .next t ∧ (t.link x).response.outcome = (judge args s).2.outcome :=
  ⟨_, takeCommand_waits h (.inl hs), by rw [State.setLink_link, if_pos rfl]; rfl⟩

/-- Settles O4: every row of the table (`argumentRules_hold`), carried through the take of its command. -/
theorem wrongArgumentLengthIsRefused : Obligations.WrongArgumentLengthIsRefused := by
  intro x s args code lengths c bad rule waits finished
  obtain ⟨d, judge, take, judges⟩ := argumentRules_hold x _ rule
  have taken : exec c s = takeCommand code d x judge s := congrFun take s
  rw [taken]
  refine ⟨fun ha => takeCommand_refused waits (.inl finished) (judges.refuses ha s), fun hl hv => ?_⟩
  obtain ⟨t, ht, outcome⟩ := takeCommand_outcome (d := d) (judge := judge) waits finished
  exact ⟨t, ht, outcome ▸ judges.answers hl hv s⟩

end Sys2Proof.Machine
end

section
/-! SUPPORT. The three writes and the three reads of a bank (R58 to R67), and which sources a bank references (R68). -/

namespace Sys2Proof.Machine

/-! ### The local checks (R59 to R61) -/

/-- The bank, index and record of a write's argument read back (R184). -/
theorem writeArgument_reads {b i : Nat} (hb : b < 256) (hi : i < 65536) (bytes : List Byte) :
    argByte (byte1 b ++ byte2 i ++ bytes) 0 = b ∧ argPair (byte1 b ++ byte2 i ++ bytes) 1 = i
      ∧ (byte1 b ++ byte2 i ++ bytes).drop 3 = bytes :=
  ⟨byte1_toNat b hb, value2_byte2 i hi, rfl⟩

/-- Settles O13: the checks are the decoders' (`decodeEntry_eq_none`, `decodeProfile_eq_none`, `decodeGroup_eq_none`), and the
writes refuse what these do. -/
theorem localChecksOfTheWrites : Obligations.LocalChecksOfTheWrites := by
  refine ⟨fun i k w r1 r0 p t _ => ⟨decodeEntry_eq_none, decodeEntry_idle i w r1 r0 p t⟩,
    fun i b0 b1 b2 b3 b4 b5 b6 b7 => ⟨fun h => ⟨decodeProfile_undefined i b1 b2 b3 h,
      decodeGroup_undefined b1 b2 b3 b4 b5 b6 b7 h⟩, decodeProfile_eq_none, decodeGroup_eq_none⟩,
    fun x s b i bytes finished hb hi => ?_⟩
  obtain ⟨bank, index, record⟩ := writeArgument_reads hb hi bytes
  refine ⟨fun _ bad waits => ?_, fun _ bad waits => ?_, fun _ hg bad waits => ?_⟩
  · refine takeCommand_refused waits (.inl finished) (judgeWriteEntry_arguments.refuses (.inr ?_) s)
    rwa [bank, index, record]
  · refine takeCommand_refused waits (.inl finished) (judgeWriteProfile_arguments.refuses (.inr ?_) s)
    rwa [bank, index, record]
  · refine takeCommand_refused waits (.inl finished) (judgeWriteGroup_arguments.refuses (.inr ?_) s)
    refine bad.imp_left fun large => ?_
    rwa [show argByte (byte1 b ++ byte1 i ++ bytes) 0 = b from byte1_toNat b hb]

/-! ### The judgement of a write (R58, R62) -/

section Write

variable {b : BankNo} {index : List Byte} {clamped : Bool} {put : Bank → Bank} {record : Bank → List Byte} {s : State}

/-- R58, step 3. -/
theorem judgeWrite_active (h : s.active = some b) : judgeWrite b index clamped put record s = refused s .activeBank :=
  if_pos h

/-- R58, step 4. -/
theorem judgeWrite_held (ha : s.active ≠ some b) (hh : (s.hold b).mapEngine ≠ none ∨ (s.hold b).image ≠ none) :
    judgeWrite b index clamped put record s = refused s .busy := by
  have held : (s.hold b).noHold = false := by
    rw [HoldRec.noHold_eq_false]
    rintro h
    rw [h] at hh
    exact hh.elim (· rfl) (· rfl)
  simp [judgeWrite, ha, held]

/-- R58, step 5, with the result of R62. -/
theorem judgeWrite_accepted (ha : s.active ≠ some b) (hm : (s.hold b).mapEngine = none) (hi : (s.hold b).image = none) :
    judgeWrite b index clamped put record s = executed (s.setBank b (put (s.bank b)).bumped)
      (.doneClamped clamped (byte1 b.val ++ index ++ byte2 (put (s.bank b)).bumped.revision.toNat
        ++ record (put (s.bank b)).bumped)) := by
  simp [judgeWrite, ha, HoldRec.noHold, hm, hi]

end Write

/-! ### Writes whose argument gives a record -/

theorem judgeWriteEntry_record (b : BankNo) {i : Nat} {bytes : List Byte} {e : Entry} (hi : i < 1536)
    (hl : bytes.length = 6) (hd : decodeEntry i bytes = some e) (s : State) :
    judgeWriteEntry (byte1 b.val ++ byte2 i ++ bytes) s
      = judgeWrite b (byte2 i) false (·.setEntry i e) (fun v => entryBytes (v.entry i)) s := by
  obtain ⟨e0, e1, e2, e3, e4, e5, rfl⟩ : ∃ e0 e1 e2 e3 e4 e5, bytes = [e0, e1, e2, e3, e4, e5] :=
    ⟨_, _, _, _, _, _, eq_map_getD hl⟩
  simp only [judgeWriteEntry, byte1, List.cons_append, List.nil_append, byte2, bankOf_val,
    value2_byte2 i (Nat.lt_trans hi (by decide)), if_pos hi, hd]

theorem judgeWriteProfile_record (b : BankNo) {i : Nat} {bytes : List Byte} {p : Option Profile} (hi : i < 1536)
    (hl : bytes.length = 4) (hd : decodeProfile i bytes = some p) (s : State) :
    judgeWriteProfile (byte1 b.val ++ byte2 i ++ bytes) s
      = judgeWrite b (byte2 i) (p.map Profile.clamp != p) (·.setProfile i (p.map Profile.clamp))
        (fun v => profileBytes (v.profile i)) s := by
  obtain ⟨p0, p1, p2, p3, rfl⟩ : ∃ p0 p1 p2 p3, bytes = [p0, p1, p2, p3] := ⟨_, _, _, _, eq_map_getD hl⟩
  simp only [judgeWriteProfile, byte1, List.cons_append, List.nil_append, byte2, bankOf_val,
    value2_byte2 i (Nat.lt_trans hi (by decide)), if_pos hi, hd]

theorem judgeWriteGroup_record (b : BankNo) {g : Nat} {bytes : List Byte} {d : Option GroupDef} (hg : g < 256)
    (hl : bytes.length = 8) (hd : decodeGroup bytes = some d) (s : State) :
    judgeWriteGroup (byte1 b.val ++ byte1 g ++ bytes) s
      = judgeWrite b (byte1 g) (d.map GroupDef.clamp != d) (·.setGroupDef g (d.map GroupDef.clamp))
        (fun v => groupBytes (v.groupDef g)) s := by
  obtain ⟨g0, g1, g2, g3, g4, g5, g6, g7, rfl⟩ : ∃ g0 g1 g2 g3 g4 g5 g6 g7, bytes = [g0, g1, g2, g3, g4, g5, g6, g7] :=
    ⟨_, _, _, _, _, _, _, _, eq_map_getD hl⟩
  simp only [judgeWriteGroup, byte1, List.cons_append, List.nil_append, bankOf_val, byte1_toNat g hg, hd]

/-- Every write whose argument gives a record is judged by `judgeWrite` on its bank. -/
theorem write_judged {x : Link} {s : State} {b : BankNo} {i : Nat} {bytes : List Byte} {code : Byte} {c : Instr}
    (h : c = .writeEntry x ∧ code = 0x10#8 ∧ i < 1536 ∧ bytes.length = 6 ∧ (decodeEntry i bytes).isSome
        ∧ s.waits x code (byte1 b.val ++ byte2 i ++ bytes)
      ∨ c = .writeProfile x ∧ code = 0x11#8 ∧ i < 1536 ∧ bytes.length = 4 ∧ (decodeProfile i bytes).isSome
        ∧ s.waits x code (byte1 b.val ++ byte2 i ++ bytes)
      ∨ c = .writeGroup x ∧ code = 0x12#8 ∧ i < 256 ∧ bytes.length = 8 ∧ (decodeGroup bytes).isSome
        ∧ s.waits x code (byte1 b.val ++ byte1 i ++ bytes)) :
    ∃ judge args index clamped put record, exec c = takeCommand code false x judge ∧ s.waits x code args
      ∧ judge args s = judgeWrite b index clamped put record s := by
  rcases h with ⟨rfl, rfl, hi, hl, hd, waits⟩ | ⟨rfl, rfl, hi, hl, hd, waits⟩ | ⟨rfl, rfl, hi, hl, hd, waits⟩
  · obtain ⟨e, hd⟩ := Option.isSome_iff_exists.mp hd
    exact ⟨_, _, _, _, _, _, rfl, waits, judgeWriteEntry_record b hi hl hd s⟩
  · obtain ⟨p, hd⟩ := Option.isSome_iff_exists.mp hd
    exact ⟨_, _, _, _, _, _, rfl, waits, judgeWriteProfile_record b hi hl hd s⟩
  · obtain ⟨d, hd⟩ := Option.isSome_iff_exists.mp hd
    exact ⟨_, _, _, _, _, _, rfl, waits, judgeWriteGroup_record b hi hl hd s⟩

/-- Settles O12: the three writes come to one judgement of the bank (`write_judged`), whose first two tests refuse. -/
theorem refusedWriteChangesNothing : Obligations.RefusedWriteChangesNothing := by
  intro x s b i bytes code c finished write
  obtain ⟨judge, args, index, clamped, put, record, take, waits, judged⟩ := write_judged write
  rw [take]
  exact ⟨fun active => takeCommand_refused waits (.inl finished) (judged.trans (judgeWrite_active active)),
    fun active held => takeCommand_refused waits (.inl finished) (judged.trans (judgeWrite_held active held))⟩

/-! ### Clamps (R60, R61) -/

theorem GroupDef.clamp_eq (d : GroupDef) : d.clamp = { d with
    holdOff := min d.holdOff 100
    restoreWait := if d.restoreWait = 0 then 1 else if 72 < d.restoreWait then 72 else d.restoreWait } := by
  have wait : max 1 (min d.restoreWait 72)
      = if d.restoreWait = 0 then 1 else if 72 < d.restoreWait then 72 else d.restoreWait := by
    (repeat' split) <;> omega
  rw [GroupDef.clamp, wait]

theorem bne_eq_decide_ne {α : Type} [BEq α] [LawfulBEq α] [DecidableEq α] (p q : α) : (p != q) = decide (p ≠ q) := by
  rw [Bool.eq_iff_iff, bne_iff_ne, decide_eq_true_eq]

/-- Settles O11: the argument gives the record (`judgeWriteEntry_record` and its like), and `judgeWrite_accepted` replaces
it, clamped. -/
theorem acceptedWriteReplacesOneRecord : Obligations.AcceptedWriteReplacesOneRecord := by
  intro x s b i bytes finished active mapEngine image
  refine ⟨fun e hi hl hd waits => ?_, fun p hi hl hd waits => ?_, fun d hi hl hd waits => ?_⟩
  · refine takeCommand_executed waits (.inl finished)
      (((judgeWriteEntry_record b hi hl hd s).trans (judgeWrite_accepted active mapEngine image)).trans ?_)
    simp only [Bank.entry, Bank.setEntry, Bank.bumped, Table.get_set_self]
    rfl
  · refine takeCommand_executed waits (.inl finished)
      (((judgeWriteProfile_record b hi hl hd s).trans (judgeWrite_accepted active mapEngine image)).trans ?_)
    simp only [Bank.profile, Bank.setProfile, Bank.bumped, Table.get_set_self, bne_eq_decide_ne]
    rfl
  · refine takeCommand_executed waits (.inl finished)
      (((judgeWriteGroup_record b hi hl hd s).trans (judgeWrite_accepted active mapEngine image)).trans ?_)
    simp only [Bank.groupDef, Bank.setGroupDef, Bank.bumped, Table.get_set_self, bne_eq_decide_ne,
      funext GroupDef.clamp_eq]
    rfl

/-! ### Reads (R64 to R67) -/

section Read

variable {b : BankNo} {size limit first count : Nat} {index : List Byte} {record : Bank → Nat → List Byte} {s : State}

/-- R67: a write-held bank is not read. -/
theorem judgeRead_held (h : (s.hold b).mapEngine = some .write ∨ (s.hold b).image = some .write) :
    judgeRead b size limit first count index record s = refused s .busy :=
  if_pos ((HoldRec.writeHeld_eq_true _).mpr h)

/-- R64 to R67: what a read reports. -/
theorem judgeRead_reports (h : ¬((s.hold b).mapEngine = some .write ∨ (s.hold b).image = some .write)) :
    judgeRead b size limit first count index record s = executed s ⟨.done, decide (limit < count),
      byte1 b.val ++ byte2 (s.bank b).revision.toNat ++ [if s.active = some b then 0x01#8 else 0x00#8] ++ index
        ++ byte1 (min (min count limit) (size - first))
        ++ (List.range (min (min count limit) (size - first))).flatMap (fun j => record (s.bank b) (first + j))⟩ := by
  have active : flagByte (s.active == some b) = if s.active = some b then 0x01#8 else 0x00#8 := by
    simp only [flagByte, beq_iff_eq]
  rw [← HoldRec.writeHeld_eq_true] at h
  rw [← active]
  exact if_neg h

/-- A read of a bank, taken: refused while the bank is write-held, else reported. -/
theorem read_taken {x : Link} {code : Byte} {args : List Byte} {judge : List Byte → State → Judged}
    (waits : s.waits x code args) (finished : s.image.finished = true)
    (judged : judge args s = judgeRead b size limit first count index record s) :
    ((s.hold b).mapEngine = some .write ∨ (s.hold b).image = some .write →
      takeCommand code false x judge s = .next (s.answered x code ⟨.busy, false, []⟩))
    ∧ (¬((s.hold b).mapEngine = some .write ∨ (s.hold b).image = some .write) →
      takeCommand code false x judge s = .next (s.answered x code ⟨.done, decide (limit < count),
        byte1 b.val ++ byte2 (s.bank b).revision.toNat ++ [if s.active = some b then 0x01#8 else 0x00#8] ++ index
          ++ byte1 (min (min count limit) (size - first))
          ++ (List.range (min (min count limit) (size - first))).flatMap (fun j => record (s.bank b) (first + j))⟩)) :=
  ⟨fun held => takeCommand_refused waits (.inl finished) (judged.trans (judgeRead_held held)),
    fun free => takeCommand_executed waits (.inl finished) (judged.trans (judgeRead_reports free))⟩

end Read

/-- A count of 1 to 255 is no byte 00h and reads back. -/
theorem count_reads {n : Nat} (h0 : 0 < n) (hn : n < 256) :
    BitVec.ofNat 8 n ≠ 0x00#8 ∧ (BitVec.ofNat 8 n).toNat = n := by
  have back := byte1_toNat n hn
  exact ⟨fun zero => by rw [zero] at back; exact absurd back (Nat.ne_of_lt h0), back⟩

/-- Settles O14: each read comes to `judgeRead` on its bank, index and count (`read_taken`). -/
theorem bankReadsReportAndChangeNothing : Obligations.BankReadsReportAndChangeNothing := by
  intro x s b i n finished h0 hn
  obtain ⟨nonzero, back⟩ := count_reads h0 hn
  refine ⟨fun hi waits => ?_, fun hi waits => ?_, fun hi waits => ?_⟩
  · refine read_taken (judge := judgeReadEntries) (size := 1536) (limit := 40)
      (record := fun v j => entryBytes (v.entry j)) waits finished ?_
    simp only [judgeReadEntries, byte1, byte2, List.cons_append, List.nil_append, bankOf_val,
      value2_byte2 i (Nat.lt_trans hi (by decide)), if_pos (And.intro hi nonzero), back]
  · refine read_taken (judge := judgeReadProfiles) (size := 1536) (limit := 60)
      (record := fun v j => profileBytes (v.profile j)) waits finished ?_
    simp only [judgeReadProfiles, byte1, byte2, List.cons_append, List.nil_append, bankOf_val,
      value2_byte2 i (Nat.lt_trans hi (by decide)), if_pos (And.intro hi nonzero), back]
  · refine read_taken (judge := judgeReadGroups) (size := 256) (limit := 30)
      (record := fun v j => groupBytes (v.groupDef j)) waits finished ?_
    simp only [judgeReadGroups, byte1, List.cons_append, List.nil_append, bankOf_val, byte1_toNat i hi, if_pos nonzero,
      back]

/-! ### Referenced sources (R68) -/

/-- An entry that is not IDLE is listed. -/
theorem Bank.mem_map_keys {b : Bank} {h : Nat} (he : b.entry h ≠ .idle) : h ∈ b.map.keys :=
  Table.mem_keys_of_get_ne _ _ _ he

/-- A defined group is listed. -/
theorem Bank.mem_groups_keys {b : Bank} {g : Nat} (hg : b.groupDef g ≠ none) : g ∈ b.groups.keys :=
  Table.mem_keys_of_get_ne _ _ _ hg

theorem Bank.mem_sourcesOfEntries {b : Bank} {n : Nat} :
    n ∈ b.map.keys.filterMap (fun k => match b.entry k with | .source _ r _ => some r | _ => none)
      ↔ ∃ h w tag, b.entry h = .source w n tag := by
  rw [List.mem_filterMap]
  constructor
  · rintro ⟨h, -, named⟩
    split at named
    · rename_i w r tag entry
      cases named
      exact ⟨h, w, tag, entry⟩
    · cases named
  · rintro ⟨h, w, tag, entry⟩
    exact ⟨h, Bank.mem_map_keys (by rw [entry]; nofun), by rw [entry]⟩

theorem Bank.mem_sourcesOfGroups {b : Bank} {n : Nat} :
    n ∈ b.groups.keys.flatMap (fun g => match b.groupDef g with | some d => [d.working, d.protect] | none => [])
      ↔ ∃ g d, b.groupDef g = some d ∧ (d.working = n ∨ d.protect = n) := by
  rw [List.mem_flatMap]
  constructor
  · rintro ⟨g, -, named⟩
    split at named
    · rename_i d group
      exact ⟨g, d, group, (List.mem_pair.mp named).imp Eq.symm Eq.symm⟩
    · cases named
  · rintro ⟨g, d, group, named⟩
    refine ⟨g, Bank.mem_groups_keys (by rw [group]; nofun), ?_⟩
    rw [group]
    exact List.mem_pair.mpr (named.imp Eq.symm Eq.symm)

/-- Settles O32: the sorted list has the members of its two parts. -/
theorem referencedMeansNamed : Obligations.ReferencedMeansNamed := by
  intro b n
  rw [Bank.referenced, mem_sortedUnique, List.mem_append]
  exact or_congr Bank.mem_sourcesOfEntries Bank.mem_sourcesOfGroups

end Sys2Proof.Machine
end

section
/-! SUPPORT. The consistency check (R69 to R75): each record's test as the rule states it, and the check as the first record
that fails. -/

namespace Sys2Proof.Machine

/-! ### The first violation of a scan -/

/-- A scan of the numbers below `n` answers with its first hit. -/
theorem findSome?_range_eq_some {α : Type} {f : Nat → Option α} {n : Nat} {v : α} :
    (List.range n).findSome? f = some v ↔ ∃ i < n, f i = some v ∧ ∀ j < i, f j = none := by
  induction n with
  | zero => simp
  | succ n ih =>
    rw [List.range_succ, List.findSome?_append, List.findSome?_singleton, Option.or_eq_some_iff, ih,
      List.findSome?_eq_none_iff]
    simp only [List.mem_range]
    constructor
    · rintro (⟨i, hi, hit, first⟩ | ⟨first, hit⟩)
      · exact ⟨i, Nat.lt_succ_of_lt hi, hit, first⟩
      · exact ⟨n, Nat.lt_succ_self n, hit, fun j hj => first j hj⟩
    · rintro ⟨i, hi, hit, first⟩
      rcases Nat.lt_succ_iff_lt_or_eq.mp hi with hi | rfl
      · exact .inl ⟨i, hi, hit, first⟩
      · exact .inr ⟨fun j hj => first j hj, hit⟩

/-- A test that answers, if at all, with `v` where `P` holds and only there. -/
theorem eq_some_iff_ne_none_and {α : Type} {o : Option α} {v : α} {P : Prop} (h : ∀ w, o = some w → (w = v ↔ P)) :
    o = some v ↔ o ≠ none ∧ P := by
  cases o with
  | none => simp
  | some w => simpa using h w rfl

/-! ### The tables in the order of the check -/

/-- The records of a table. -/
def TableName.size : TableName → Nat
  | .profiles => 1536
  | .groups => 256
  | .map => 1536

/-- A table's turn in the check. -/
def TableName.turn : TableName → Nat
  | .profiles => 1
  | .groups => 2
  | .map => 3

/-- The test of one record. -/
def Bank.checkAt (b : Bank) : TableName → Nat → Option Violation
  | .profiles => b.checkProfile
  | .groups => b.checkGroup
  | .map => b.checkEntry

/-- The scan of one table. -/
def Bank.checkTable (b : Bank) (t : TableName) : Option Violation := (List.range t.size).findSome? (b.checkAt t)

theorem Bank.check_eq_checkTable (b : Bank) :
    b.check = ((b.checkTable .profiles).or (b.checkTable .groups)).or (b.checkTable .map) := rfl

theorem Bank.checkTable_eq_none {b : Bank} {t : TableName} :
    b.checkTable t = none ↔ ∀ i, i < t.size → b.checkAt t i = none := by
  simp [checkTable]

/-! ### The rules (R70 to R75) -/

theorem forall_mem_memberSlots {h : Nat} {w : Width} {P : Nat → Prop} :
    (∀ n ∈ memberSlots h w, P n) ↔ ∀ j, 0 < j → j < w.toNat → P (h + j) := by
  have members : memberSlots h w = (List.range (w.toNat - 1)).map (fun j => h + (j + 1)) := by
    obtain ⟨k, width⟩ : ∃ k, w.toNat = k + 1 := ⟨w.toNat - 1, (Nat.succ_pred_eq_of_pos w.toNat_pos).symm⟩
    rw [memberSlots, coveredSlots, width, List.range_succ_eq_map]
    simp [Function.comp_def]
  rw [members]
  simp only [List.mem_map, List.mem_range, forall_exists_index, and_imp, forall_apply_eq_imp_iff₂]
  constructor
  · intro h j positive below
    simpa [Nat.sub_add_cancel positive] using h (j - 1) (by omega)
  · exact fun h j below => h (j + 1) j.succ_pos (by omega)

theorem Bank.membersIdle_iff {b : Bank} {h : Nat} {w : Width} :
    b.membersIdle h w = true ↔ ∀ j, 0 < j → j < w.toNat → b.entry (h + j) = .idle := by
  simp only [membersIdle, List.all_eq_true, beq_iff_eq]
  exact forall_mem_memberSlots

theorem Bank.definedWith_iff {b : Bank} {n : Nat} {w : Width} :
    b.definedWith n w = true ↔ ∃ p, b.profile n = some p ∧ p.width = w := by
  rw [definedWith, beq_iff_eq, sourceWidth, Option.map_eq_some_iff]

/-- R70 (C1). -/
theorem Bank.checkProfile_eq_none {b : Bank} {h : Nat} : b.checkProfile h = none ↔
    ∀ p, b.profile h = some p → ∀ j, 0 < j → j < p.width.toNat → b.profile (h + j) = none := by
  unfold checkProfile
  cases b.profile h with
  | none => simp
  | some p =>
    simp only [Option.some.injEq, forall_eq', ite_eq_left_iff, reduceCtorEq, imp_false, not_not, List.all_eq_true,
      Option.isNone_iff_eq_none]
    exact forall_mem_memberSlots

theorem Bank.checkProfile_violation {b : Bank} {h : Nat} {v : Violation} (hv : b.checkProfile h = some v) :
    v = ⟨.profiles, h, 1⟩ := by
  unfold checkProfile at hv
  split at hv
  · cases hv
  · exact (Option.some.inj ((Option.ite_none_left_eq_some.mp hv).2)).symm

/-- R71 (C2). -/
theorem Bank.checkGroup_eq_none {b : Bank} {g : Nat} : b.checkGroup g = none ↔
    ∀ d, b.groupDef g = some d → d.working ≠ d.protect
      ∧ (∃ p, b.profile d.working = some p ∧ p.width = d.width)
      ∧ ∃ p, b.profile d.protect = some p ∧ p.width = d.width := by
  unfold checkGroup
  cases b.groupDef g with
  | none => simp
  | some d =>
    simp only [Option.some.injEq, forall_eq', ite_eq_left_iff, reduceCtorEq, imp_false, not_not, Bool.and_eq_true,
      bne_iff_ne, definedWith_iff, and_assoc]

theorem Bank.checkGroup_violation {b : Bank} {g : Nat} {v : Violation} (hv : b.checkGroup g = some v) :
    v = ⟨.groups, g, 2⟩ := by
  unfold checkGroup at hv
  split at hv
  · cases hv
  · exact (Option.some.inj ((Option.ite_none_left_eq_some.mp hv).2)).symm

/-- R73 to R75 (C4 to C6). -/
theorem Bank.referenceFault_eq_none {b : Bank} {e : Entry} : b.referenceFault e = none ↔
    match e with
    | .source w r _ => ∃ p, b.profile r = some p ∧ p.width = w
    | .group w g _ => ∃ d, b.groupDef g = some d ∧ d.width = w
    | .follow w h _ => ∃ r t, b.entry h = .source w r t ∨ b.entry h = .group w r t
    | .idle => True := by
  cases e with
  | idle => simp [referenceFault]
  | source w r t => simp [referenceFault, definedWith_iff]
  | group w g t => simp [referenceFault]
  | follow w h t =>
    simp only [referenceFault]
    cases b.entry h <;> simp [eq_comm]

/-- The rule of an entry's kind (R73 to R75). -/
def Entry.kindRule : Entry → Nat
  | .source _ _ _ => 4
  | .group _ _ _ => 5
  | .follow _ _ _ => 6
  | .idle => 0

theorem Bank.referenceFault_rule {b : Bank} {e : Entry} {r : Nat} (h : b.referenceFault e = some r) : r = e.kindRule := by
  cases e with
  | idle => cases h
  | source w n t => exact (Option.some.inj ((Option.ite_none_left_eq_some.mp h).2)).symm
  | group w n t => exact (Option.some.inj ((Option.ite_none_left_eq_some.mp h).2)).symm
  | follow w n t =>
    simp only [referenceFault] at h
    split at h
    · exact (Option.some.inj ((Option.ite_none_left_eq_some.mp h).2)).symm
    · exact (Option.some.inj ((Option.ite_none_left_eq_some.mp h).2)).symm
    · exact (Option.some.inj h).symm
    · exact (Option.some.inj h).symm

theorem Bank.referenceFault_eq_none_of_width {b : Bank} {e : Entry} (h : e.width? = none) : b.referenceFault e = none := by
  cases e with
  | idle => rfl
  | source => cases h
  | group => cases h
  | follow => cases h

/-- R72 (C3): the other slots that an egress head covers are IDLE. -/
def Bank.headAlone (b : Bank) (h : Nat) : Prop :=
  ∀ w, (b.entry h).width? = some w → ∀ j, 0 < j → j < w.toNat → b.entry (h + j) = .idle

theorem Bank.headAlone_iff_membersIdle {b : Bank} {h : Nat} {w : Width} (hw : (b.entry h).width? = some w) :
    b.headAlone h ↔ b.membersIdle h w = true := by
  simp only [headAlone, hw, Option.some.injEq, forall_eq', membersIdle_iff]

/-- R72 to R75 (C3 to C6). -/
theorem Bank.checkEntry_eq_none {b : Bank} {h : Nat} :
    b.checkEntry h = none ↔ b.headAlone h ∧ b.referenceFault (b.entry h) = none := by
  unfold checkEntry
  split
  · rename_i width
    simp [headAlone, width, referenceFault_eq_none_of_width width]
  · rename_i w width
    rw [headAlone_iff_membersIdle width]
    split <;> simp [*]

/-- C3 is tested before the rule of the kind. -/
theorem Bank.checkEntry_violation_member {b : Bank} {h : Nat} {v : Violation} (hv : b.checkEntry h = some v)
    (member : ¬b.headAlone h) : v = ⟨.map, h, 3⟩ := by
  unfold checkEntry at hv
  split at hv
  · cases hv
  · rename_i w width
    rw [headAlone_iff_membersIdle width] at member
    exact (Option.some.inj ((if_neg member).symm.trans hv)).symm

theorem Bank.checkEntry_violation_alone {b : Bank} {h : Nat} {v : Violation} (hv : b.checkEntry h = some v)
    (alone : b.headAlone h) : v = ⟨.map, h, (b.entry h).kindRule⟩ := by
  unfold checkEntry at hv
  split at hv
  · cases hv
  · rename_i w width
    rw [if_pos ((headAlone_iff_membersIdle width).mp alone)] at hv
    obtain ⟨r, fault, rfl⟩ := Option.map_eq_some_iff.mp hv
    rw [referenceFault_rule fault]

/-! ### The check as the first record that fails (R69) -/

/-- A record's violation names the record. -/
theorem Bank.checkAt_names {b : Bank} {t : TableName} {i : Nat} {v : Violation} (h : b.checkAt t i = some v) :
    v.table = t ∧ v.index = i := by
  cases t with
  | profiles => cases checkProfile_violation h; exact ⟨rfl, rfl⟩
  | groups => cases checkGroup_violation h; exact ⟨rfl, rfl⟩
  | map =>
    by_cases alone : b.headAlone i
    · cases checkEntry_violation_alone h alone; exact ⟨rfl, rfl⟩
    · cases checkEntry_violation_member h alone; exact ⟨rfl, rfl⟩

theorem Bank.checkTable_eq_some {b : Bank} {u t : TableName} {i r : Nat} :
    b.checkTable u = some ⟨t, i, r⟩ ↔
      u = t ∧ i < t.size ∧ b.checkAt t i = some ⟨t, i, r⟩ ∧ ∀ j < i, b.checkAt t j = none := by
  rw [checkTable, findSome?_range_eq_some]
  constructor
  · rintro ⟨j, below, hit, first⟩
    obtain ⟨rfl, rfl⟩ := checkAt_names hit
    exact ⟨rfl, below, hit, first⟩
  · rintro ⟨rfl, below, hit, first⟩
    exact ⟨i, below, hit, first⟩

theorem Bank.check_eq_none_iff {b : Bank} : b.check = none ↔ ∀ t i, i < t.size → b.checkAt t i = none := by
  simp only [check_eq_checkTable, Option.or_eq_none_iff, ← checkTable_eq_none]
  constructor
  · rintro ⟨⟨profiles, groups⟩, map⟩ t
    cases t with
    | profiles => exact profiles
    | groups => exact groups
    | map => exact map
  · exact fun h => ⟨⟨h .profiles, h .groups⟩, h .map⟩

/-- The check answers with the table whose scan is the first to hit. -/
theorem Bank.check_eq_some_iff_table {b : Bank} {v : Violation} :
    b.check = some v ↔ ∃ u, b.checkTable u = some v ∧ ∀ t, t.turn < u.turn → b.checkTable t = none := by
  rw [check_eq_checkTable, Option.or_eq_some_iff, Option.or_eq_some_iff, Option.or_eq_none_iff]
  constructor
  · rintro ((hit | ⟨profiles, hit⟩) | ⟨⟨profiles, groups⟩, hit⟩)
    · exact ⟨.profiles, hit, fun t before => by cases t <;> simp [TableName.turn] at before⟩
    · refine ⟨.groups, hit, fun t before => ?_⟩
      cases t with
      | profiles => exact profiles
      | groups => simp at before
      | map => simp [TableName.turn] at before
    · refine ⟨.map, hit, fun t before => ?_⟩
      cases t with
      | profiles => exact profiles
      | groups => exact groups
      | map => simp at before
  · rintro ⟨u, hit, before⟩
    cases u with
    | profiles => exact .inl (.inl hit)
    | groups => exact .inl (.inr ⟨before .profiles (by decide), hit⟩)
    | map => exact .inr ⟨⟨before .profiles (by decide), before .groups (by decide)⟩, hit⟩

theorem Bank.check_eq_some_iff {b : Bank} {t : TableName} {i r : Nat} :
    b.check = some ⟨t, i, r⟩ ↔ i < t.size ∧ b.checkAt t i = some ⟨t, i, r⟩
      ∧ ∀ u j, j < u.size → u.turn < t.turn ∨ u = t ∧ j < i → b.checkAt u j = none := by
  simp only [check_eq_some_iff_table, checkTable_eq_some, checkTable_eq_none]
  constructor
  · rintro ⟨_, ⟨rfl, below, hit, first⟩, before⟩
    refine ⟨below, hit, fun u j inside earlier => ?_⟩
    rcases earlier with earlier | ⟨rfl, earlier⟩
    · exact before u earlier j inside
    · exact first j earlier
  · rintro ⟨below, hit, first⟩
    exact ⟨t, ⟨rfl, below, hit, fun j earlier => first t j (Nat.lt_trans earlier below) (.inr ⟨rfl, earlier⟩)⟩,
      fun u earlier j inside => first u j inside (.inl earlier)⟩

/-- The rule that a failing record breaks. -/
theorem Bank.checkAt_eq_some {b : Bank} {t : TableName} {i r : Nat} : b.checkAt t i = some ⟨t, i, r⟩ ↔
    b.checkAt t i ≠ none ∧ match t with
      | .profiles => r = 1
      | .groups => r = 2
      | .map => (¬b.headAlone i → r = 3) ∧ (b.headAlone i → r = (b.entry i).kindRule) := by
  refine eq_some_iff_ne_none_and fun v hit => ?_
  cases t with
  | profiles => simp [checkProfile_violation hit, eq_comm]
  | groups => simp [checkGroup_violation hit, eq_comm]
  | map =>
    by_cases alone : b.headAlone i
    · simp [checkEntry_violation_alone hit alone, alone, eq_comm]
    · simp [checkEntry_violation_member hit alone, alone, eq_comm]

/-- Settles O20: the check is the first record that fails (`Bank.check_eq_none_iff`, `Bank.check_eq_some_iff`), and each
record's test is its rule. -/
theorem checkPassesExactlyWhenConsistent : Obligations.CheckPassesExactlyWhenConsistent := by
  intro b has membersIdle passes size turn
  have size_eq : size = TableName.size := by funext t; cases t <;> rfl
  have turn_eq : turn = TableName.turn := by funext t; cases t <;> rfl
  have passes_iff : ∀ t i, b.checkAt t i = none ↔ passes t i := by
    intro t i
    cases t with
    | profiles => exact Bank.checkProfile_eq_none
    | groups => exact Bank.checkGroup_eq_none
    | map => exact Bank.checkEntry_eq_none.trans (and_congr_right' Bank.referenceFault_eq_none)
  simp only [← passes_iff, size_eq, turn_eq]
  refine ⟨Bank.check_eq_none_iff, fun t i r => Bank.check_eq_some_iff.trans (and_congr_right' ?_)⟩
  rw [Bank.checkAt_eq_some, and_right_comm, and_assoc]
  cases t with
  | profiles => exact Iff.rfl
  | groups => exact Iff.rfl
  | map => exact Iff.rfl

end Sys2Proof.Machine
end

section
/-! SUPPORT. What an event that adopts no bank leaves of banks, holds and engines, of the stores' states and widths, and of
groups, watches and pattern sets (R89, R90). -/

namespace Sys2Proof.Machine

/-! ### What evolves and what stays -/

/-- The banks, their holds, the active and the pending bank, and both engines. -/
def State.banking (s : State) : State :=
  { State.reset with
    banks := s.banks, holds := s.holds, active := s.active, pendingAct := s.pendingAct, mapEngine := s.mapEngine
    image := s.image }

/-- A store stays IDLE or stays otherwise, with its width (R19, R21). -/
structure Store.KeepsPlace (st st' : Store) : Prop where
  idle  : st'.state = .idle ↔ st.state = .idle
  width : st'.width = st.width

theorem Store.KeepsPlace.refl (st : Store) : st.KeepsPlace st := ⟨Iff.rfl, rfl⟩

theorem Store.KeepsPlace.trans {a b c : Store} (h : a.KeepsPlace b) (k : b.KeepsPlace c) : a.KeepsPlace c :=
  ⟨k.idle.trans h.idle, k.width.trans h.width⟩

/-- A group keeps its settings and stamp lock, and of its requests those that no evaluation has displaced; an undefined
group keeps its record (R130, R141, R143). -/
structure GroupRec.Evolves (r r' : GroupRec) : Prop where
  settings  : r'.settings = r.settings
  lock      : r'.lock = r.lock
  requests  : r'.requests.Sublist r.requests
  undefined : r.settings = none → r' = r

theorem GroupRec.Evolves.refl (r : GroupRec) : r.Evolves r := ⟨rfl, rfl, .refl _, fun _ => rfl⟩

theorem GroupRec.Evolves.trans {a b c : GroupRec} (h : a.Evolves b) (k : b.Evolves c) : a.Evolves c where
  settings := k.settings.trans h.settings
  lock := k.lock.trans h.lock
  requests := k.requests.trans h.requests
  undefined none := (k.undefined (h.settings.trans none)).trans (h.undefined none)

/-- A watch keeps its entry, and a latch that is set (R117, R121). -/
structure Watch.Evolves (w w' : Watch) : Prop where
  entry : w'.besideLatch = w.besideLatch
  latch : w.latch = true → w'.latch = true

/-- What an event leaves that adopts no bank and carries out no command: banks, holds and engines, which stores are IDLE, and
of groups, watches and pattern sets all but latches, conditions, timers, requests and switches. -/
structure State.Evolves (s t : State) : Prop where
  banking  : t.banking = s.banking
  stores   : ∀ n, (s.store n).KeepsPlace (t.store n)
  groups   : ∀ g, (s.group g).Evolves (t.group g)
  watches  : ∀ n, (s.watch n).Evolves (t.watch n)
  patterns : ∀ p, (t.pattern p).besideLatch = (s.pattern p).besideLatch

namespace State.Evolves

theorem refl (s : State) : s.Evolves s :=
  ⟨rfl, fun _ => .refl _, fun _ => .refl _, fun _ => ⟨rfl, id⟩, fun _ => rfl⟩

theorem trans {s t u : State} (h : s.Evolves t) (k : t.Evolves u) : s.Evolves u where
  banking := k.banking.trans h.banking
  stores n := (h.stores n).trans (k.stores n)
  groups g := (h.groups g).trans (k.groups g)
  watches n := ⟨(k.watches n).entry.trans (h.watches n).entry, (k.watches n).latch ∘ (h.watches n).latch⟩
  patterns p := (k.patterns p).trans (h.patterns p)

/-- A change of other parts of the state. -/
theorem of_same {s t : State} (banking : t.banking = s.banking) (stores : t.stores = s.stores)
    (groups : t.groups = s.groups) (watches : t.watches = s.watches) (patterns : t.patterns = s.patterns) :
    s.Evolves t where
  banking := banking
  stores n := by
    have same : t.store n = s.store n := by simp only [State.store, stores]
    exact same ▸ .refl _
  groups g := by
    have same : t.group g = s.group g := by simp only [State.group, groups]
    exact same ▸ .refl _
  watches n := by
    have same : t.watch n = s.watch n := by simp only [State.watch, watches]
    exact same ▸ ⟨rfl, id⟩
  patterns p := by simp only [State.pattern, patterns]

theorem setStore (s : State) {n : Nat} {st : Store} (h : (s.store n).KeepsPlace st) : s.Evolves (s.setStore n st) where
  banking := rfl
  stores m := by
    rw [State.setStore_store]
    split
    · subst m; exact h
    · exact .refl _
  groups _ := .refl _
  watches _ := ⟨rfl, id⟩
  patterns _ := rfl

theorem setGroup (s : State) {g : Nat} {r : GroupRec} (h : (s.group g).Evolves r) : s.Evolves (s.setGroup g r) where
  banking := rfl
  stores _ := .refl _
  groups k := by
    rw [State.setGroup_group]
    split
    · subst k; exact h
    · exact .refl _
  watches _ := ⟨rfl, id⟩
  patterns _ := rfl

theorem setWatch (s : State) {n : Nat} {w : Watch} (h : (s.watch n).Evolves w) : s.Evolves (s.setWatch n w) where
  banking := rfl
  stores _ := .refl _
  groups _ := .refl _
  watches m := by
    rw [State.setWatch_watch]
    split
    · subst m; exact h
    · exact ⟨rfl, id⟩
  patterns _ := rfl

theorem setPattern (s : State) {p : Nat} {t : Pattern} (h : t.besideLatch = (s.pattern p).besideLatch) :
    s.Evolves (s.setPattern p t) where
  banking := rfl
  stores _ := .refl _
  groups _ := .refl _
  watches _ := ⟨rfl, id⟩
  patterns q := by
    rw [State.setPattern_pattern]
    split
    · subst q; exact h
    · rfl

end State.Evolves

/-- Parts of an event that each leave this, one after the other, leave it. -/
theorem Ev.foldl_evolves {α : Type} {f : Ev → α → Ev} (h : ∀ (e : Ev) (a : α), e.st.Evolves (f e a).st)
    (l : List α) (e : Ev) : e.st.Evolves (l.foldl f e).st :=
  List.foldlRecOn (motive := fun e' : Ev => e.st.Evolves e'.st) l _ (.refl _) fun e' he a _ => he.trans (h e' a)

/-! ### Groups -/

theorem GroupRec.keptRequests_sublist (cand : ReqKind) (r : GroupRec) : (r.keptRequests cand).Sublist r.requests := by
  unfold GroupRec.keptRequests
  split
  · exact List.filter_sublist
  · exact .refl _

/-- An evaluation removes requests or none, and does nothing to an undefined group (R141, R143). -/
theorem GroupRec.evaluate_evolves (g : Nat) (sec : Word) (fr : Nat) (r : GroupRec) :
    r.Evolves (r.evaluate g sec fr).1 where
  settings := GroupRec.evaluate_settings g sec fr r
  lock := GroupRec.evaluate_lock g sec fr r
  requests := by
    have kept : ∀ (d : GroupDef) (c : ReqKind), ((r.settle d).keptRequests c).Sublist r.requests := fun d c => by
      rw [← GroupRec.settle_requests d r]
      exact GroupRec.keptRequests_sublist c _
    unfold GroupRec.evaluate
    split
    · exact .refl _
    · dsimp only
      split
      · exact kept _ _
      · exact kept _ _
  undefined none := by
    unfold GroupRec.evaluate
    rw [none]

theorem GroupRec.takeChanges_evolves (c : List RawChange) (r : GroupRec) : r.Evolves (r.takeChanges c) where
  settings := GroupRec.takeChanges_settings c r
  lock := GroupRec.takeChanges_lock c r
  requests := by rw [GroupRec.takeChanges_requests]
  undefined none := by unfold GroupRec.takeChanges; rw [none]

theorem GroupRec.countTimers_evolves (before r : GroupRec) : r.Evolves (before.countTimers r) where
  settings := by unfold GroupRec.countTimers; split <;> simp_all
  lock := by unfold GroupRec.countTimers; split <;> simp_all
  requests := by rw [GroupRec.countTimers_requests]
  undefined none := by unfold GroupRec.countTimers; rw [none]

theorem Ev.evaluateGroup_evolves (g : Nat) {r : GroupRec} (e : Ev) (h : (e.st.group g).Evolves r) :
    e.st.Evolves (e.evaluateGroup g r).st := by
  rw [Ev.evaluateGroup_st]
  exact .setGroup _ (h.trans (GroupRec.evaluate_evolves ..))

theorem Ev.deliverChanges_evolves (c : List RawChange) (e : Ev) : e.st.Evolves (e.deliverChanges c).st := by
  refine Ev.foldl_evolves (fun e g => ?_) _ e
  split
  · exact Ev.evaluateGroup_evolves g e (GroupRec.takeChanges_evolves c _)
  · exact .refl _

theorem Ev.countTimers_evolves (start : State) (which : Nat → Bool) (e : Ev) :
    e.st.Evolves (e.countTimers start which).st := by
  refine Ev.foldl_evolves (fun e g => ?_) _ e
  have counted := GroupRec.countTimers_evolves (start.group g) (e.st.group g)
  split
  · unfold Ev.countGroup
    dsimp only
    split
    · exact Ev.evaluateGroup_evolves g e counted
    · exact .setGroup _ counted
  · exact .refl _

/-! ### Watches and pattern sets -/

theorem Ev.latchWatch_evolves (n : Nat) (e : Ev) : e.st.Evolves (e.latchWatch n).st := by
  unfold Ev.latchWatch
  dsimp only
  split
  · rw [Ev.raise_st]
    exact .setWatch _ ⟨rfl, fun _ => rfl⟩
  · exact .refl _

theorem Ev.evalLevelWatch_evolves (n : Nat) (e : Ev) : e.st.Evolves (e.evalLevelWatch n).st := by
  unfold Ev.evalLevelWatch
  split
  · exact Ev.latchWatch_evolves n e
  · exact .refl _

theorem Ev.evalWatchAtChange_evolves (c : RawChange) (e : Ev) : e.st.Evolves (e.evalWatchAtChange c).st := by
  unfold Ev.evalWatchAtChange
  split
  · exact Ev.evalLevelWatch_evolves _ e
  · split
    · exact Ev.latchWatch_evolves _ e
    · exact .refl _

theorem Ev.evalWatchAtAdoption_evolves (c : List RawChange) (n : Nat) (e : Ev) :
    e.st.Evolves (e.evalWatchAtAdoption c n).st := by
  unfold Ev.evalWatchAtAdoption
  split
  · exact Ev.evalLevelWatch_evolves _ e
  · split
    · split
      · exact Ev.latchWatch_evolves _ e
      · exact .refl _
    · exact .refl _

theorem Ev.evalPattern_evolves (p : Nat) (e : Ev) : e.st.Evolves (e.evalPattern p).st := by
  unfold Ev.evalPattern
  dsimp only
  split
  · rw [Ev.raise_st]
    exact .setPattern _ rfl
  · exact .refl _

theorem Ev.evalPatterns_evolves (e : Ev) : e.st.Evolves e.evalPatterns.st :=
  Ev.foldl_evolves (fun e p => Ev.evalPattern_evolves p e) _ e

/-! ### The end of an event at the Defect Monitor, reports, window ends -/

theorem State.storeRaw_evolves (c : List RawChange) (s : State) : s.Evolves (s.storeRaw c) :=
  have rest := State.storeRaw_rest c s
  .of_same (congrArg State.banking rest :) (congrArg State.stores rest :) (congrArg State.groups rest :)
    (congrArg State.watches rest :) (congrArg State.patterns rest :)

theorem Ev.settleRaw_evolves (touched : List Nat) (e : Ev) : e.st.Evolves (e.settleRaw touched).st := by
  unfold Ev.settleRaw
  dsimp only
  split
  · exact .refl _
  · have stored := State.storeRaw_evolves (e.st.rawChanges touched) e.st
    have delivered := stored.trans (Ev.deliverChanges_evolves (e.st.rawChanges touched)
      (e.modify (·.storeRaw (e.st.rawChanges touched))))
    exact (delivered.trans (Ev.foldl_evolves (fun e c => Ev.evalWatchAtChange_evolves c e) _ _)).trans
      (Ev.evalPatterns_evolves _)

theorem Ev.lineReport_evolves (l : Nat) (f : LineDefects → LineDefects) (e : Ev) :
    e.st.Evolves (e.lineReport l f).st :=
  have set : e.st.Evolves (e.modify fun s => s.setLineDefect l (f (s.lineDefect l))).st := .of_same rfl rfl rfl rfl rfl
  set.trans (Ev.settleRaw_evolves _ _)

theorem Ev.sourceReport_evolves (n : Nat) (f : DefectRec → DefectRec) (e : Ev) :
    e.st.Evolves (e.sourceReport n f).st := by
  unfold Ev.sourceReport
  split
  · have set : e.st.Evolves (e.modify fun s => s.setDefect n (f (s.defect n))).st := .of_same rfl rfl rfl rfl rfl
    exact set.trans (Ev.settleRaw_evolves _ _)
  · exact .refl _

theorem State.erroredEvent_evolves (n : Nat) (s : State) : s.Evolves (s.erroredEvent n) :=
  have rest := State.erroredEvent_rest s n
  .of_same (congrArg State.banking rest :) (congrArg State.stores rest :) (congrArg State.groups rest :)
    (congrArg State.watches rest :) (congrArg State.patterns rest :)

theorem Ev.endWindowOf_evolves (n : Nat) (e : Ev) : e.st.Evolves (e.endWindowOf n).st := by
  have counted : e.st.Evolves (e.st.setStore n (e.st.store n).endWindow) := .setStore _ ⟨Iff.rfl, rfl⟩
  have judged : e.st.Evolves (e.st.windowJudged n) := counted.trans (.of_same rfl rfl rfl rfl rfl)
  exact judged.trans (Ev.settleRaw_evolves [n] (e.modify (State.windowJudged n)))

theorem Ev.windowEnd_evolves (e : Ev) : e.st.Evolves e.windowEnd.st :=
  Ev.foldl_evolves (fun e n => Ev.endWindowOf_evolves n e) _ e

/-- The end of an event touches the links alone (R168). -/
theorem Ev.offer_evolves (e : Ev) : e.st.Evolves e.offer :=
  .of_same (by simp [State.banking]) e.offer_stores e.offer_groups e.offer_watches e.offer_patterns

/-! ### Arrivals (R6 to R11) -/

theorem State.arriveStore_evolves (n : Nat) (bytes : List Byte) (errored : Bool) (s : State) :
    s.Evolves (s.arriveStore n bytes errored) := by
  obtain ⟨state, width⟩ := (s.store n).arrive_keeps bytes
  have stored : s.Evolves (s.setStore n ((s.store n).arrive bytes).1) := .setStore _ ⟨by rw [state], width⟩
  have counted : ∀ (b : Bool) (u : State), s.Evolves u → s.Evolves (if b then u.erroredEvent n else u) := by
    intro b u hu
    split
    · exact hu.trans (State.erroredEvent_evolves n u)
    · exact hu
  exact counted _ _ (counted _ _ stored)

theorem Ev.markerArrival_evolves (n : Nat) (bit : Bool) (e : Ev) : e.st.Evolves (e.markerArrival n bit).st := by
  have set : e.st.Evolves (e.modify (·.setSlot n ((e.st.slot n).markerStep bit).1)).st := .of_same rfl rfl rfl rfl rfl
  unfold Ev.markerArrival
  dsimp only
  split
  · exact set.trans (Ev.sourceReport_evolves ..)
  · exact set

theorem Ev.tagArrival_evolves (n : Nat) (x : Option Byte) (tag : Byte) (e : Ev) :
    e.st.Evolves (e.tagArrival n x tag).st := by
  have set : e.st.Evolves (e.modify (·.setSlot n (((e.st.slot n).tagStep tag).mismatchStep x tag).1)).st :=
    .of_same rfl rfl rfl rfl rfl
  unfold Ev.tagArrival
  dsimp only
  split
  · exact set.trans (Ev.sourceReport_evolves ..)
  · exact set

theorem Ev.headArrival_evolves (base : Nat) (slots : List RxSlot) (n : Nat) (p : Profile) (e : Ev) :
    e.st.Evolves (e.headArrival base slots n p).st := by
  have arrived : ∀ bytes bad, e.st.Evolves ((e.st.arriveStore n bytes bad).pushParity n p.width base slots) :=
    fun bytes bad => (State.arriveStore_evolves n bytes bad e.st).trans (.of_same rfl rfl rfl rfl rfl)
  have marked : ∀ bytes bad bit, e.st.Evolves
      ((e.modify fun s => (s.arriveStore n bytes bad).pushParity n p.width base slots).markerArrival n bit).st :=
    fun bytes bad bit => (arrived bytes bad).trans (Ev.markerArrival_evolves n bit
      (e.modify fun s => (s.arriveStore n bytes bad).pushParity n p.width base slots))
  unfold Ev.headArrival
  dsimp only
  split
  · exact marked _ _ _
  · exact (marked _ _ _).trans (Ev.tagArrival_evolves ..)

theorem Ev.arrivals_evolves (l : Nat) (slots : List RxSlot) (e : Ev) : e.st.Evolves (e.arrivals l slots).st :=
  Ev.arrivals_keeps (fun base slots n p e' he => he.trans (Ev.headArrival_evolves base slots n p e')) l slots (.refl _)

/-! ### The parts of a boundary -/

theorem State.applyExponent_evolves (s : State) : s.Evolves s.applyExponent := by
  have rest := s.applyExponent_rest
  refine .trans (t := { s.applyExponent with stores := s.stores }) (.of_same (congrArg State.banking rest :) rfl
    (congrArg State.groups rest :) (congrArg State.watches rest :) (congrArg State.patterns rest :)) ?_
  refine ⟨rfl, fun n => ?_, fun _ => .refl _, fun _ => ⟨rfl, id⟩, fun _ => rfl⟩
  rw [State.applyExponent_store]
  split
  · exact .refl _
  · exact ⟨Iff.rfl, rfl⟩

theorem State.decideStores_evolves (s : State) : s.Evolves s.decideStores := by
  refine List.foldlRecOn (motive := s.Evolves) _ _ (.refl _) fun u hu n _ => hu.trans ?_
  obtain ⟨width, idle⟩ := (u.store n).decide_keeps u.rate.j
  have stored : u.Evolves (u.setStore n ((u.store n).decide u.rate.j).1) := .setStore _ ⟨idle, width⟩
  rcases u.decideStore_eq n with heq | heq <;> rw [heq]
  · exact stored
  · exact stored.trans (State.erroredEvent_evolves n _)

theorem State.decideAndAssemble_evolves (selection : Nat → Selection) (s : State) :
    s.Evolves (s.decideAndAssemble selection) := by
  obtain ⟨content, heq⟩ := s.decideAndAssemble_eq selection
  rw [heq]
  exact s.decideStores_evolves.trans (.of_same rfl rfl rfl rfl rfl)

theorem Ev.closeBoundary_evolves (s0 : State) (e : Ev) : e.st.Evolves (e.closeBoundary s0).st := by
  have counted : ∀ b, e.st.Evolves (e.modify (State.countWindow b)).st := fun _ => .of_same rfl rfl rfl rfl rfl
  have ended := (counted true).trans (Ev.windowEnd_evolves _)
  have chosen : ∀ (f : Ev) (n : Nat), f.st.Evolves { f.st with choices := n } := fun _ _ => .of_same rfl rfl rfl rfl rfl
  unfold Ev.closeBoundary
  split
  · dsimp only
    split
    · exact (ended.trans (Ev.countTimers_evolves ..)).trans (chosen _ _)
    · exact ended.trans (chosen _ _)
  · exact counted false

/-! ### Boundaries -/

/-- The state that the adoption of a boundary finds, or its decisions where there is none: the cause has moved the timebase,
time and waits are counted, and a pending exponent has taken effect (R13, R16, R49). -/
def State.exponentApplied (s : State) (t : Timebase) : State := (s.atCause t).beginBoundary.applyExponent

theorem State.exponentApplied_evolves (s : State) (t : Timebase) : s.Evolves (s.exponentApplied t) :=
  have begun : s.Evolves (s.atCause t).beginBoundary := .of_same rfl rfl rfl rfl rfl
  begun.trans (State.applyExponent_evolves _)

/-- A boundary's event up to its decisions, by what is pending. -/
theorem Ev.beforeDecisions_cases (timing : Option Bool) (s : State) (t : Timebase) :
    ∃ e : Ev, e.st = s.exponentApplied t
      ∧ (Ev.start (s.atCause t)).beforeDecisions timing = match s.pendingAct with
        | some p => e.adopt p
        | none => e.countTimers (s.atCause t) (s.atCause t).timersFirst :=
  ⟨((Ev.start (s.atCause t)).beginTiming timing).modify State.applyExponent,
    congrArg State.applyExponent (Ev.beginTiming_st timing _), rfl⟩

theorem Ev.beforeDecisions_evolves {s : State} (idle : s.pendingAct = none) (timing : Option Bool) (t : Timebase) :
    s.Evolves ((Ev.start (s.atCause t)).beforeDecisions timing).st := by
  obtain ⟨e, st, parts⟩ := Ev.beforeDecisions_cases timing s t
  rw [parts, idle]
  exact (st ▸ s.exponentApplied_evolves t).trans (Ev.countTimers_evolves ..)

/-- What follows the adoption in a boundary adopts nothing. -/
theorem State.boundary_evolves_decided {s : State} {c : BoundaryCause} {t : Timebase} (h : s.time.boundaryAt c = some t) :
    ((Ev.start (s.atCause t)).beforeDecisions (s.time.timingAt c)).st.Evolves (s.boundary c) := by
  have decided : ∀ (sel : Nat → Selection) (e : Ev), e.st.Evolves (e.modify (·.decideAndAssemble sel)).st :=
    fun sel e => e.st.decideAndAssemble_evolves sel
  rw [State.boundary_eq h, Ev.boundary_eq]
  exact ((decided _ _).trans (Ev.closeBoundary_evolves _ _)).trans (Ev.offer_evolves _)

/-- A boundary hands on the slots that the adoption leaves. -/
theorem State.boundary_slots {s : State} {c : BoundaryCause} {t : Timebase} (h : s.time.boundaryAt c = some t) :
    (s.boundary c).slots = ((Ev.start (s.atCause t)).beforeDecisions (s.time.timingAt c)).st.slots := by
  rw [State.boundary_eq h, Ev.boundary_eq, Ev.offer_slots, (Ev.closeBoundary_rest _ _).2]
  obtain ⟨content, heq⟩ := State.decideAndAssemble_eq ((Ev.start (s.atCause t)).st.selectionBefore s.pendingAct)
    ((Ev.start (s.atCause t)).beforeDecisions (s.time.timingAt c)).st
  exact (congrArg State.slots heq :).trans (congrArg State.slots (State.decideStores_rest _) :)

/-- A cause that produces no boundary is no event (log entry 2). -/
theorem State.boundary_none {s : State} {c : BoundaryCause} (h : s.time.boundaryAt c = none) : s.boundary c = s := by
  unfold State.boundary
  rw [h]

/-- A boundary that ends no pending period adopts nothing (R89). -/
theorem State.boundary_evolves {s : State} (idle : s.pendingAct = none) (c : BoundaryCause) : s.Evolves (s.boundary c) := by
  cases h : s.time.boundaryAt c with
  | none => rw [State.boundary_none h]; exact .refl _
  | some t => exact (Ev.beforeDecisions_evolves idle _ t).trans (State.boundary_evolves_decided h)

theorem Ev.beforeDecisions_slots {s : State} (idle : s.pendingAct = none) (timing : Option Bool) (t : Timebase) :
    ((Ev.start (s.atCause t)).beforeDecisions timing).st.slots = s.slots := by
  obtain ⟨e, st, parts⟩ := Ev.beforeDecisions_cases timing s t
  rw [parts, idle]
  refine (Ev.countTimers_quiet _ _ e).slots.trans ?_
  rw [st]
  exact (congrArg State.slots (s.atCause t).beginBoundary.applyExponent_rest :)

/-- Settles O22: every part of a boundary that is not the adoption leaves these (`State.boundary_evolves`). -/
theorem boundaryWithoutAdoptionKeepsTheRest : Obligations.BoundaryWithoutAdoptionKeepsTheRest := by
  intro s c i makes row idle
  have evolves := State.boundary_evolves idle c
  have kept := evolves.banking
  have slots := (State.boundary_slots (State.boundaryAt_of_makes makes)).trans (Ev.beforeDecisions_slots idle _ _)
  exact ⟨s.boundary c, row.exec_eq makes, (congrArg State.active kept :), (congrArg State.pendingAct kept :).trans idle,
    (congrArg State.mapEngine kept :), (congrArg State.holds kept :), (congrArg State.image kept :), slots,
    fun n => (evolves.watches n).entry, fun n => (evolves.watches n).latch, evolves.patterns,
    fun g => ⟨(evolves.groups g).settings, (evolves.groups g).lock, (evolves.groups g).requests⟩⟩

end Sys2Proof.Machine
end

section
/-! SUPPORT. The commands of the Map Engine and the ends of its operations (R80 to R87, R182). -/

namespace Sys2Proof.Machine

/-! ### The commands, by the banks they name (R80, R85) -/

theorem HoldRec.writeHeld_eq_false (h : HoldRec) :
    h.writeHeld = false ↔ h.mapEngine ≠ some .write ∧ h.image ≠ some .write := by
  rw [← Bool.not_eq_true, HoldRec.writeHeld_eq_true, not_or]

theorem judgeClearBank_of_bank (b : BankNo) (s : State) : judgeClearBank (byte1 b.val) s =
    if s.active = some b then refused s .activeBank
    else if s.mapEngine.isSome then refused s .busy
    else if !(s.hold b).noHold then refused s .busy
    else executed { s.mapHold b (some .write) with mapEngine := some (.clear b) }
      (.accepted (byte1 OpName.clear.code ++ byte1 b.val ++ byte2 (s.bank b).revision.toNat)) := by
  simp only [judgeClearBank, byte1, bankOf_val]

theorem judgeCopyBank_of_banks (b d : BankNo) (s : State) : judgeCopyBank (byte1 b.val ++ byte1 d.val) s =
    if b = d then refused s .badArgument
    else if s.active = some d then refused s .activeBank
    else if s.mapEngine.isSome then refused s .busy
    else if (s.hold b).writeHeld || !(s.hold d).noHold then refused s .busy
    else executed { (s.mapHold b (some .read)).mapHold d (some .write) with mapEngine := some (.copy b d) }
      (.accepted (byte1 OpName.copy.code ++ byte1 b.val ++ byte1 d.val ++ byte2 (s.bank b).revision.toNat
        ++ byte2 (s.bank d).revision.toNat)) := by
  simp only [judgeCopyBank, byte1, List.singleton_append, bankOf_val]

theorem judgeVerifyBank_of_bank (b : BankNo) (s : State) : judgeVerifyBank (byte1 b.val) s =
    if s.mapEngine.isSome then refused s .busy
    else if (s.hold b).writeHeld then refused s .busy
    else executed { s.mapHold b (some .read) with mapEngine := some (.verify b (s.bank b).revision) }
      (.accepted (byte1 OpName.verify.code ++ byte1 b.val ++ byte2 (s.bank b).revision.toNat)) := by
  simp only [judgeVerifyBank, byte1, bankOf_val]

/-- An expected revision reads back from its 2 bytes (R85, R184). -/
theorem judgeActivateBank_of_bank (b : BankNo) (r : Option Half) (s : State) :
    judgeActivateBank (byte1 b.val ++ r.elim [] (fun v => byte2 v.toNat)) s = judgeActivate b r s := by
  cases r with
  | none => simp only [judgeActivateBank, activateArgument, byte1, Option.elim, List.append_nil, bankOf_val]
  | some v =>
    have read : BitVec.ofNat 16 (value2 (BitVec.ofNat 8 (v.toNat / 256)) (BitVec.ofNat 8 v.toNat)) = v := by
      rw [value2_byte2 _ v.isLt, BitVec.ofNat_toNat, BitVec.setWidth_eq]
    simp only [judgeActivateBank, activateArgument, byte1, byte2, Option.elim, List.singleton_append, bankOf_val, read]

/-- Settles O15: each of the three passes its refusals in turn. -/
theorem mapEngineTakesAnOperation : Obligations.MapEngineTakesAnOperation := by
  intro x s b d finished ready
  refine ⟨fun waits notActive free => ?_, fun waits distinct notActive free notMap notImage => ?_,
    fun waits notMap notImage => ?_⟩
  · refine takeCommand_executed waits (.inl finished) ?_
    rw [judgeClearBank_of_bank]
    simp [ready, notActive, free, HoldRec.noHold, State.mapHold, Reply.accepted, byte1,
      OpName.code]
  · have shared := (HoldRec.writeHeld_eq_false _).mpr ⟨notMap, notImage⟩
    refine takeCommand_executed waits (.inl finished) ?_
    rw [judgeCopyBank_of_banks]
    simp [ready, notActive, distinct, distinct.symm, free, shared, HoldRec.noHold, State.mapHold, State.setHold_hold,
      Reply.accepted, byte1, OpName.code]
  · have shared := (HoldRec.writeHeld_eq_false _).mpr ⟨notMap, notImage⟩
    refine takeCommand_executed waits (.inl finished) ?_
    rw [judgeVerifyBank_of_bank]
    simp [ready, shared, State.mapHold, Reply.accepted, byte1, OpName.code]

/-- Settles O16: each refusal by the test that gives it. -/
theorem mapEngineRefusesInOrder : Obligations.MapEngineRefusesInOrder := by
  intro x s b d finished
  have engine : s.mapEngine ≠ none → s.mapEngine.isSome = true := Option.isSome_iff_ne_none.mpr
  have unfree : ∀ k, s.hold k ≠ ⟨none, none⟩ → (s.hold k).noHold = false :=
    fun k => (HoldRec.noHold_eq_false _).mpr
  have written : ∀ k, (s.hold k).mapEngine = some .write ∨ (s.hold k).image = some .write →
      (s.hold k).writeHeld = true := fun k => (HoldRec.writeHeld_eq_true _).mpr
  refine ⟨fun waits => ⟨fun active => ?_, fun notActive busy => ?_⟩,
    fun waits => ⟨fun same => ?_, fun distinct active => ?_, fun distinct notActive busy => ?_⟩, fun waits busy => ?_⟩
    <;> refine takeCommand_refused waits (.inl finished) ?_
  · rw [judgeClearBank_of_bank, if_pos active]
  · rcases busy with busy | held
    · simp [judgeClearBank_of_bank, notActive, engine busy]
    · simp [judgeClearBank_of_bank, notActive, unfree b held]
  · rw [judgeCopyBank_of_banks, if_pos same]
  · rw [judgeCopyBank_of_banks, if_neg distinct, if_pos active]
  · rcases busy with busy | held | held
    · simp [judgeCopyBank_of_banks, distinct, notActive, engine busy]
    · simp [judgeCopyBank_of_banks, distinct, notActive, unfree d held]
    · simp [judgeCopyBank_of_banks, distinct, notActive, written b held]
  · rcases busy with busy | held
    · simp [judgeVerifyBank_of_bank, engine busy]
    · simp [judgeVerifyBank_of_bank, written b held]

/-- Settles O17: the four tests of R85 in their order. -/
theorem activateBankIsJudgedInOrder : Obligations.ActivateBankIsJudgedInOrder := by
  intro x s b r finished waits report
  have judged := judgeActivateBank_of_bank b r s
  refine ⟨fun active => takeCommand_refused waits (.inl finished) (judged.trans ?_),
    fun notActive busy => takeCommand_refused waits (.inl finished) (judged.trans ?_),
    fun notActive ready notMap notImage => ?_⟩
  · simp [judgeActivate, active]
  · rcases busy with busy | held
    · simp [judgeActivate, notActive, Option.isSome_iff_ne_none.mpr busy]
    · simp [judgeActivate, notActive, (HoldRec.writeHeld_eq_true _).mpr held]
  · have shared := (HoldRec.writeHeld_eq_false _).mpr ⟨notMap, notImage⟩
    refine ⟨fun ⟨v, given, stale⟩ => takeCommand_executed waits (.inl finished) (judged.trans ?_),
      fun fresh => takeCommand_executed waits (.inl finished) (judged.trans ?_)⟩
    · simp [judgeActivate, notActive, ready, shared, given, stale, report]
    · rcases fresh with fresh | fresh <;>
        simp [judgeActivate, notActive, ready, shared, fresh, report, State.startCheck, State.mapHold, Reply.accepted]

/-! ### Completions and the end of a check (R81 to R87, R182) -/

/-- An event that raises one notice from the Map Engine. -/
theorem Ev.raise_start_done (s : State) (body : NoticeBody) :
    ((Ev.start s).raise .mapEngine body).done = .next (s.notify body) := by
  rw [Ev.done, Ev.offer_raise_start]

/-- Settles O18: each completion is one event that raises OP_DONE alone. -/
theorem mapEngineOperationsComplete : Obligations.MapEngineOperationsComplete := by
  intro s b c d r free
  refine ⟨fun op => ?_, fun op distinct => ?_, fun op => ?_⟩
  · change execClearCompletion s = _
    unfold execClearCompletion
    rw [op]
    exact Ev.raise_start_done _ _
  · change execCopyCompletion s = _
    unfold execCopyCompletion
    rw [op]
    simp only [Ev.raise_start_done, State.mapHold, State.mapReady, State.setHold_hold, distinct.symm, if_false,
      State.setBank_hold, free]
  · change execVerifyCompletion s = _
    unfold execVerifyCompletion
    rw [op]
    cases check : (s.bank b).check <;> simp only [Ev.raise_start_done, checkResult, check] <;> rfl

/-- After start-up the end of a check concerns start-up no more (R182). -/
theorem State.startUpAfterCheck_of_finished {s : State} (h : s.image.finished = true) (b : BankNo) (passed : Bool) :
    State.startUpAfterCheck b passed s = s := by
  simp [State.startUpAfterCheck, h]

/-- Only the check of bank 0 decides the start outcome (R182). -/
theorem State.startUpAfterCheck_of_ne {b : BankNo} (h : b ≠ 0) (passed : Bool) (s : State) :
    State.startUpAfterCheck b passed s = s := by
  simp [State.startUpAfterCheck, h]

/-- A notice raised during start-up is none (R168). -/
theorem Ev.raise_of_unfinished {e : Ev} (h : e.st.image.finished = false) (b : Block) (body : NoticeBody) :
    e.raise b body = e := by
  simp [Ev.raise, h]

/-- An activation check that finds no violation makes its bank pending (R87). -/
theorem execActivationCheckEnd_of_pass {s : State} {b : BankNo} {r : Half} (op : s.mapEngine = some (.activateCheck b r))
    (check : (s.bank b).check = none) : execActivationCheckEnd s = .next (State.startUpAfterCheck b true
      { s with pendingAct := some ⟨b, r⟩, mapEngine := some (.activatePending b r) }) := by
  simp only [execActivationCheckEnd, op, check]

/-- An activation check that finds a violation releases its bank (R87). -/
theorem execActivationCheckEnd_of_fault {s : State} {b : BankNo} {r : Half} {v : Violation}
    (op : s.mapEngine = some (.activateCheck b r)) (check : (s.bank b).check = some v) :
    execActivationCheckEnd s = (((Ev.start ((s.mapHold b none).mapReady)).raise .mapEngine
      (.activationRefused b v.table v.index v.rule)).modify (State.startUpAfterCheck b false)).done := by
  simp only [execActivationCheckEnd, op, check]

/-- During start-up the check of bank 0 that finds a violation hands bank 2 to the Map Engine (R182). -/
theorem execActivationCheckEnd_starting {s : State} {r : Half} {v : Violation} (starting : s.image.finished = false)
    (op : s.mapEngine = some (.activateCheck 0 r)) (check : (s.bank 0).check = some v) :
    execActivationCheckEnd s = .next
      ((((s.mapHold 0 none).mapReady).toReport .imageInconsistent).startCheck 2) := by
  have silent := Ev.raise_of_unfinished (e := Ev.start ((s.mapHold 0 none).mapReady)) starting .mapEngine
    (.activationRefused 0 v.table v.index v.rule)
  have fallBack : State.startUpAfterCheck 0 false ((s.mapHold 0 none).mapReady)
      = (((s.mapHold 0 none).mapReady).toReport .imageInconsistent).startCheck 2 := by
    simp [State.startUpAfterCheck, State.mapReady, State.mapHold, starting]
  rw [execActivationCheckEnd_of_fault op check, silent, ← fallBack]
  exact congrArg Host.Outcome.next (Ev.offer_start _)

/-- Settles O19: the end of a check, by whether start-up has finished, the bank and the finding. -/
theorem activationCheckEnds : Obligations.ActivationCheckEnds := by
  intro s b r
  refine ⟨fun finished op => ⟨fun v check => ?_, fun check => ?_⟩,
    fun starting op => ⟨fun check => ?_, fun check => ?_⟩, fun starting op check => ?_⟩
  · have settled : ∀ body, (State.startUpAfterCheck b false) ((Ev.start ((s.mapHold b none).mapReady)).raise .mapEngine
        body).st = ((Ev.start ((s.mapHold b none).mapReady)).raise .mapEngine body).st := fun body =>
      State.startUpAfterCheck_of_finished (by rw [Ev.raise_st]; exact finished) b false
    refine (execActivationCheckEnd_of_fault op check).trans ?_
    rw [Ev.modify, settled]
    exact Ev.raise_start_done _ _
  · refine (execActivationCheckEnd_of_pass op check).trans ?_
    rw [State.startUpAfterCheck_of_finished (by exact finished)]
  · refine (execActivationCheckEnd_of_pass op check).trans ?_
    simp [State.startUpAfterCheck, starting, State.toReport]
  · obtain ⟨v, found⟩ := Option.ne_none_iff_exists'.mp check
    refine (execActivationCheckEnd_starting starting op found).trans ?_
    have kept : ((s.mapHold 0 none).mapReady.toReport .imageInconsistent).hold 2 = s.hold 2 :=
      (State.setHold_hold s 0 _ 2).trans (if_neg (by decide))
    have placed : ((s.mapHold 0 none).mapReady.toReport .imageInconsistent).mapHold 2 (some .read)
        = ((s.mapHold 0 none).mapReady.toReport .imageInconsistent).setHold 2 ⟨some .read, (s.hold 2).image⟩ := by
      rw [State.mapHold, kept]
    rw [State.startCheck, placed]
    rfl
  · exact (execActivationCheckEnd_of_pass op check).trans (congrArg _ (State.startUpAfterCheck_of_ne (by decide) true _))

end Sys2Proof.Machine
end

section
/-! SUPPORT. What a line event, a transfer, a read or a command that sets links, groups, watches or parameters leaves of the
banks, the stores' and the groups' places and the frame being sent. -/

namespace Sys2Proof.Machine

/-- A group keeps its settings, and a group at its reset values stays there (R130). -/
structure GroupRec.KeepsPlace (r r' : GroupRec) : Prop where
  settings : r'.settings = r.settings
  reset    : r = GroupRec.reset → r' = GroupRec.reset

theorem GroupRec.KeepsPlace.refl (r : GroupRec) : r.KeepsPlace r := ⟨rfl, id⟩

theorem GroupRec.KeepsPlace.trans {a b c : GroupRec} (h : a.KeepsPlace b) (k : b.KeepsPlace c) : a.KeepsPlace c :=
  ⟨k.settings.trans h.settings, k.reset ∘ h.reset⟩

/-- A defined group is not at its reset values. -/
theorem GroupRec.KeepsPlace.of_defined {r r' : GroupRec} (settings : r'.settings = r.settings)
    (defined : r.settings.isNone ≠ true) : r.KeepsPlace r' :=
  ⟨settings, fun h => absurd (by rw [h]; rfl) defined⟩

theorem GroupRec.Evolves.keepsPlace {r r' : GroupRec} (h : r.Evolves r') : r.KeepsPlace r' :=
  ⟨h.settings, fun reset => (h.undefined (by rw [reset]; rfl)).trans reset⟩

/-- What the command leaves that does not concern the banks: banks, holds and engines, which stores are IDLE and the widths,
the groups' settings and the frame being sent. -/
structure State.Steady (s t : State) : Prop where
  banking : t.banking = s.banking
  egress  : t.egress = s.egress
  stores  : ∀ n, (s.store n).KeepsPlace (t.store n)
  groups  : ∀ g, (s.group g).KeepsPlace (t.group g)

namespace State.Steady

theorem refl (s : State) : s.Steady s := ⟨rfl, rfl, fun _ => .refl _, fun _ => .refl _⟩

theorem trans {s t u : State} (h : s.Steady t) (k : t.Steady u) : s.Steady u :=
  ⟨k.banking.trans h.banking, k.egress.trans h.egress, fun n => (h.stores n).trans (k.stores n),
    fun g => (h.groups g).trans (k.groups g)⟩

theorem of_same {s t : State} (banking : t.banking = s.banking) (egress : t.egress = s.egress)
    (stores : t.stores = s.stores) (groups : ∀ g, t.group g = s.group g) : s.Steady t where
  banking := banking
  egress := egress
  stores n := by
    have same : t.store n = s.store n := by simp only [State.store, stores]
    exact same ▸ .refl _
  groups g := groups g ▸ .refl _

theorem of_evolves {s t : State} (h : s.Evolves t) (egress : t.egress = s.egress) : s.Steady t :=
  ⟨h.banking, egress, h.stores, fun g => (h.groups g).keepsPlace⟩

theorem setLink (s : State) (x : Link) (l : LinkState) : s.Steady (s.setLink x l) := by
  cases x <;> exact .of_same rfl rfl rfl fun _ => rfl

theorem setGroup (s : State) {g : Nat} {r : GroupRec} (h : (s.group g).KeepsPlace r) : s.Steady (s.setGroup g r) where
  banking := rfl
  egress := rfl
  stores _ := .refl _
  groups k := by
    rw [State.setGroup_group]
    split
    · subst k; exact h
    · exact .refl _

end State.Steady

theorem Ev.offer_steady (e : Ev) : e.st.Steady e.offer := .of_evolves e.offer_evolves e.offer_egress

/-! ### Lines (R2 to R11) -/

theorem Ev.lineReport_steady (l : Nat) (f : LineDefects → LineDefects) (e : Ev) : e.st.Steady (e.lineReport l f).st :=
  .of_evolves (e.lineReport_evolves l f) (congrArg State.egress (Ev.settleRaw_besideSources _ _) :)

theorem Ev.arrivals_egress (l : Nat) (slots : List RxSlot) (e : Ev) : (e.arrivals l slots).st.egress = e.st.egress :=
  Ev.arrivals_keeps (P := fun u => u.egress = e.st.egress)
    (fun base slots n p e' he => (congrArg State.egress (Ev.headArrival_besideSources base slots n p e') :).trans he) l slots
    rfl

/-- A line event that changes the LIF and the arrivals at its slots, and reports the line's levels. -/
theorem State.Steady.reported {s u : State} (h : s.Steady u) (l : Nat) (f : LineDefects → LineDefects) :
    s.Steady ((Ev.start u).lineReport l f).offer :=
  h.trans ((Ev.lineReport_steady l f (Ev.start u)).trans (Ev.offer_steady _))

theorem State.setLif_steady (s : State) (l : Nat) (v : Lif) : s.Steady (s.setLif l v) := .of_same rfl rfl rfl fun _ => rfl

theorem State.breakArrivals_steady (l : Nat) (s : State) : s.Steady (s.breakArrivals l) :=
  .of_same rfl rfl rfl fun _ => rfl

theorem signalAbsent_steady {l : LineNo} {s t : State} (ht : exec (.signalAbsent l) s = .next t) : s.Steady t := by
  change execSignalAbsent l s = _ at ht
  unfold execSignalAbsent at ht
  dsimp only at ht
  split at ht <;> cases ht
  · exact .refl s
  · refine .trans ?_ (Ev.offer_steady _)
    have broken := (s.setLif_steady l { (s.lif l).hunting with signal := false }).trans (State.breakArrivals_steady l _)
    have absent := broken.trans (Ev.lineReport_steady l (fun d => { d with absent := true }) ((Ev.start s).modify fun u =>
      (u.setLif l { (s.lif l).hunting with signal := false }).breakArrivals l))
    split
    · exact absent.trans (Ev.lineReport_steady l _ _)
    · exact absent

theorem signalPresent_steady {l : LineNo} {s t : State} (ht : exec (.signalPresent l) s = .next t) : s.Steady t := by
  change execSignalPresent l s = _ at ht
  unfold execSignalPresent at ht
  dsimp only at ht
  split at ht <;> cases ht
  · exact .refl s
  · exact (s.setLif_steady l _).reported l _

theorem alignmentFind_steady {l : LineNo} {p : Nat} {w : Word} {s t : State}
    (ht : exec (.alignmentFind l p w) s = .next t) : s.Steady t := by
  change execAlignmentFind l p w s = _ at ht
  unfold execAlignmentFind at ht
  dsimp only at ht
  split at ht <;> cases ht
  · exact s.setLif_steady l _
  · exact .refl s

theorem confirmWord_steady {l : LineNo} {w : Word} {s t : State} (ht : exec (.confirmWord l w) s = .next t) :
    s.Steady t := by
  change execConfirmWord l w s = _ at ht
  unfold execConfirmWord at ht
  dsimp only at ht
  split at ht
  · split at ht
    · split at ht <;> cases ht
      · exact (s.setLif_steady l _).reported l _
      · exact s.setLif_steady l _
    · cases ht; exact s.setLif_steady l _
  · cases ht; exact .refl s

theorem lockedWord_steady {l : LineNo} {w : Word} {s t : State} (ht : exec (.lockedWord l w) s = .next t) :
    s.Steady t := by
  change execLockedWord l w s = _ at ht
  unfold execLockedWord at ht
  dsimp only at ht
  split at ht
  · split at ht
    · cases ht; exact s.setLif_steady l _
    · split at ht <;> cases ht
      · exact s.setLif_steady l _
      · exact ((s.setLif_steady l _).trans (State.breakArrivals_steady l _)).reported l _
  · cases ht; exact .refl s

theorem ingressArrival_steady {l : LineNo} {r : List RxSlot} {s t : State}
    (ht : exec (.ingressArrival l r) s = .next t) : s.Steady t := by
  change execIngressArrival l r s = _ at ht
  unfold execIngressArrival at ht
  split at ht
  · cases ht
  · split at ht <;> cases ht
    · exact (State.Steady.of_evolves (Ev.arrivals_evolves l r (Ev.start s)) (Ev.arrivals_egress l r _)).trans
        (Ev.offer_steady _)
    · exact .refl s

theorem skippedTransfer_steady {x : Link} {p : SkipPart} {s t : State} (ht : exec (.skippedTransfer x p) s = .next t) :
    s.Steady t := by
  change execSkippedTransfer x p s = _ at ht
  unfold execSkippedTransfer at ht
  split at ht <;> cases ht
  exact .setLink s x _

/-! ### Commands beside those of the banks and the image -/

/-- A judgement that leaves these. -/
def JudgesSteadily (judge : List Byte → State → Judged) : Prop := ∀ args (s : State), s.Steady (judge args s).1.st

theorem JudgesLink.steady {x : Link} {judge : List Byte → State → Judged} (hj : JudgesLink x judge) :
    JudgesSteadily judge := by
  intro args s
  obtain ⟨l, heq, -⟩ := hj args s
  rw [heq]
  exact .setLink s x l

/-- Evaluations that leave the groups. -/
theorem JudgesQuietly.steady {judge : List Byte → State → Judged} (hj : JudgesQuietly judge)
    (groups : ∀ args (s : State) g, (s.group g).KeepsPlace ((judge args s).1.st.group g)) : JudgesSteadily judge := by
  intro args s
  have quiet := hj args s
  refine ⟨(congrArg State.banking quiet.kept :), quiet.egress, fun n => ?_, groups args s⟩
  have same : (judge args s).1.st.store n = s.store n := by simp only [State.store, quiet.stores, Ev.start]
  exact same ▸ .refl _

theorem judgeSetParameters_steady : JudgesSteadily judgeSetParameters := by
  intro args s; unfold judgeSetParameters; split <;> exact .of_same rfl rfl rfl fun _ => rfl
theorem judgeSetTime_steady : JudgesSteadily judgeSetTime := by
  intro args s; unfold judgeSetTime; split <;> exact .of_same rfl rfl rfl fun _ => rfl
theorem judgeReadTime_steady : JudgesSteadily judgeReadTime := by
  intro args s; unfold judgeReadTime; split <;> exact .refl s
theorem judgeReadLines_steady : JudgesSteadily judgeReadLines := by
  intro args s; unfold judgeReadLines; split <;> exact .refl s
theorem judgeReadGroupState_steady : JudgesSteadily judgeReadGroupState := by
  intro args s; unfold judgeReadGroupState; split <;> exact .refl s
theorem judgeReadSource_steady : JudgesSteadily judgeReadSource := by
  intro args s; unfold judgeReadSource; (repeat' split) <;> exact .refl s
theorem judgeReadLatches_steady : JudgesSteadily judgeReadLatches := by
  intro args s; unfold judgeReadLatches; (repeat' split) <;> exact .refl s

theorem judgeRead_steady (b : BankNo) (size limit first count : Nat) (i : List Byte) (record : Bank → Nat → List Byte)
    (s : State) : s.Steady (judgeRead b size limit first count i record s).1.st := by
  rw [judgeRead_st]; exact .refl s

theorem judgeReadEntries_steady : JudgesSteadily judgeReadEntries := by
  intro args s
  unfold judgeReadEntries
  (repeat' split)
  any_goals exact .refl s
  exact judgeRead_steady ..

theorem judgeReadProfiles_steady : JudgesSteadily judgeReadProfiles := by
  intro args s
  unfold judgeReadProfiles
  (repeat' split)
  any_goals exact .refl s
  exact judgeRead_steady ..

theorem judgeReadGroups_steady : JudgesSteadily judgeReadGroups := by
  intro args s
  unfold judgeReadGroups
  (repeat' split)
  any_goals exact .refl s
  exact judgeRead_steady ..

/-! ### Groups (R133 to R135, R148) -/

theorem Ev.evaluateGroup_keepsPlace (g : Nat) {r : GroupRec} (e : Ev) (h : (e.st.group g).KeepsPlace r) (k : Nat) :
    (e.st.group k).KeepsPlace ((e.evaluateGroup g r).st.group k) := by
  rw [Ev.evaluateGroup_st, State.setGroup_group]
  split
  · subst k; exact h.trans (GroupRec.evaluate_evolves ..).keepsPlace
  · exact .refl _

theorem evaluated_keepsPlace {g : Nat} {r : GroupRec} {lead : List Byte} {s : State} (h : (s.group g).KeepsPlace r)
    (k : Nat) : (s.group k).KeepsPlace ((evaluated g r lead s).1.st.group k) :=
  Ev.evaluateGroup_keepsPlace g (Ev.start s) h k

theorem judgePushRequest_steady (x : Link) : JudgesSteadily (judgePushRequest x) := by
  refine (judgePushRequest_quiet x).steady fun args s k => ?_
  unfold judgePushRequest
  split
  · split
    · exact .refl _
    · dsimp only
      split
      · exact .refl _
      · rename_i defined
        split
        · exact .refl _
        · split
          · exact .refl _
          · exact evaluated_keepsPlace (.of_defined (by rfl) defined) k
  · exact .refl _

theorem judgeWithdrawRequest_steady : JudgesSteadily judgeWithdrawRequest := by
  refine judgeWithdrawRequest_quiet.steady fun args s k => ?_
  unfold judgeWithdrawRequest
  split
  · split
    · exact .refl _
    · dsimp only
      split
      · exact .refl _
      · rename_i defined
        split
        · exact evaluated_keepsPlace (.of_defined (by rfl) defined) k
        · exact .refl _
  · exact .refl _

theorem judgeWithdrawAll_steady : JudgesSteadily judgeWithdrawAll := by
  refine judgeWithdrawAll_quiet.steady fun args s k => ?_
  unfold judgeWithdrawAll
  split
  · dsimp only
    split
    · exact .refl _
    · rename_i defined
      exact evaluated_keepsPlace (.of_defined (by rfl) defined) k
  · exact .refl _

theorem judgeReadStamp_steady : JudgesSteadily judgeReadStamp := by
  intro args s
  unfold judgeReadStamp
  split
  · exact .setGroup s ⟨rfl, fun reset => by rw [reset]; rfl⟩
  · exact .refl s

theorem judgeSetStampLock_steady : JudgesSteadily judgeSetStampLock := by
  intro args s
  unfold judgeSetStampLock
  dsimp only
  (repeat' split)
  any_goals exact .refl s
  exact .setGroup s (.of_defined rfl ‹_›)

/-! ### Watches and pattern sets (R122, R123, R126) -/

theorem State.setWatchEvent_keepsPlace (s : State) (n : Nat) (w : Watch) (g : Nat) :
    (s.group g).KeepsPlace ((s.setWatchEvent n w).st.group g) := by
  refine GroupRec.KeepsPlace.trans ?_ ((Ev.evalPatterns_evolves _).groups g).keepsPlace
  split
  · exact ((Ev.evalLevelWatch_evolves n ((Ev.start s).modify (·.setWatch n
      { w with latch := w.enabled && w.latch }))).groups g).keepsPlace
  · exact .refl _

theorem State.ackLatchEvent_keepsPlace (s : State) (n g : Nat) :
    (s.group g).KeepsPlace ((s.ackLatchEvent n).st.group g) :=
  ((Ev.evalLevelWatch_evolves n ((Ev.start s).modify (·.setWatch n { s.watch n with latch := false }))).groups g).keepsPlace

theorem Ev.evalSetPattern_keepsPlace (s : State) (p : Nat) (t : Pattern) (g : Nat) :
    (s.group g).KeepsPlace ((((Ev.start s).modify (·.setPattern p t)).evalPattern p).st.group g) :=
  ((Ev.evalPattern_evolves p ((Ev.start s).modify (·.setPattern p t))).groups g).keepsPlace

theorem judgeSetWatch_steady : JudgesSteadily judgeSetWatch := by
  refine judgeSetWatch_quiet.steady fun args s g => ?_
  unfold judgeSetWatch
  split
  · dsimp only
    split
    · split
      · exact .refl _
      · dsimp only
        exact State.setWatchEvent_keepsPlace s _ _ g
    · exact .refl _
  · exact .refl _

theorem judgeAckLatch_steady : JudgesSteadily judgeAckLatch := by
  refine judgeAckLatch_quiet.steady fun args s g => ?_
  unfold judgeAckLatch
  split
  · dsimp only
    split
    · exact State.ackLatchEvent_keepsPlace s _ g
    · exact .refl _
  · exact .refl _

theorem judgeSetPattern_steady : JudgesSteadily judgeSetPattern := by
  refine judgeSetPattern_quiet.steady fun args s g => ?_
  unfold judgeSetPattern
  split
  · split
    · exact .refl _
    · dsimp only
      split
      · exact Ev.evalSetPattern_keepsPlace s _ _ g
      · exact .refl _
  · exact .refl _

theorem judgeAckPattern_steady : JudgesSteadily judgeAckPattern := by
  refine judgeAckPattern_quiet.steady fun args s g => ?_
  unfold judgeAckPattern
  split
  · dsimp only
    split
    · exact Ev.evalSetPattern_keepsPlace s _ _ g
    · exact .refl _
  · exact .refl _

end Sys2Proof.Machine
end

section
/-! SUPPORT. The law of the holds (R76, R77, R88, R89): how an operation of each engine keeps it, and what every command but
a boundary and the reset line keeps of it and of the active bank. -/

namespace Sys2Proof.Machine

/-! ### Holds placed and released -/

theorem State.mapHold_hold (s : State) (c : BankNo) (k : Option HoldKind) (b : BankNo) :
    (s.mapHold c k).hold b = if b = c then ⟨k, (s.hold b).image⟩ else s.hold b := by
  rw [State.mapHold, State.setHold_hold]
  split
  · subst b; rfl
  · rfl

theorem State.imageHold_hold (s : State) (c : BankNo) (k : Option HoldKind) (b : BankNo) :
    (s.imageHold c k).hold b = if b = c then ⟨(s.hold b).mapEngine, k⟩ else s.hold b := by
  rw [State.imageHold, State.setHold_hold]
  split
  · subst b; rfl
  · rfl

namespace State.HoldsOk

/-- The law reads the holds, the active and the pending bank and the two engines alone. -/
theorem of_same {s t : State} (h : s.HoldsOk) (holds : t.holds = s.holds) (active : t.active = s.active)
    (pendingAct : t.pendingAct = s.pendingAct) (mapEngine : t.mapEngine = s.mapEngine) (op : t.image.op = s.image.op)
    (finished : t.image.finished = s.image.finished) : t.HoldsOk := by
  have hold : ∀ b, t.hold b = s.hold b := fun b => by simp only [State.hold, holds]
  constructor <;> simp only [hold, active, pendingAct, mapEngine, op, finished]
  · exact h.mapEngine
  · exact h.image
  · exact h.distinct
  · exact h.alone
  · exact h.notActive
  · exact h.pending
  · exact h.started
  · exact h.startLoad
  · exact h.running

theorem of_banking {s t : State} (h : s.HoldsOk) (banking : t.banking = s.banking) : t.HoldsOk :=
  have image : t.image = s.image := (congrArg State.image banking :)
  h.of_same (congrArg State.holds banking :) (congrArg State.active banking :) (congrArg State.pendingAct banking :)
    (congrArg State.mapEngine banking :) (congrArg ImageCtl.op image :) (congrArg ImageCtl.finished image :)

variable {s : State} (h : s.HoldsOk)
include h

/-- The Map Engine's hold on a bank is its operation's. -/
theorem hold_of_map {op : Option MapOp} (engine : s.mapEngine = op) (b : BankNo) :
    s.hold b = ⟨mapHoldOf op b, (s.hold b).image⟩ := by
  rw [← engine, ← h.mapEngine b]

/-- The Image Store Controller's hold on a bank is its operation's. -/
theorem hold_of_image {op : Option ImageOp} (engine : s.image.op = op) (b : BankNo) :
    s.hold b = ⟨(s.hold b).mapEngine, imageHoldOf op b⟩ := by
  rw [← engine, ← h.image b]

/-- A bank that the Map Engine writes is neither active nor held by the Image Store Controller. -/
theorem writes_map {b : BankNo} (w : (s.hold b).mapEngine = some .write) :
    s.active ≠ some b ∧ (s.hold b).image = none := by
  have held := (HoldRec.writeHeld_eq_true _).mpr (.inl w)
  exact ⟨h.notActive b held, (h.alone b held).resolve_left (by rw [w]; nofun)⟩

/-- A bank that the Image Store Controller writes is neither active nor held by the Map Engine. -/
theorem writes_image {b : BankNo} (w : (s.hold b).image = some .write) :
    s.active ≠ some b ∧ (s.hold b).mapEngine = none := by
  have held := (HoldRec.writeHeld_eq_true _).mpr (.inr w)
  exact ⟨h.notActive b held, (h.alone b held).resolve_right (by rw [w]; nofun)⟩

/-- Nothing is pending while the Map Engine does something else than wait for the boundary (R88). -/
theorem not_pending (idle : ∀ p : PendingActivation, s.mapEngine ≠ some (.activatePending p.bank p.revision)) :
    s.pendingAct = none :=
  Option.eq_none_iff_forall_ne_some.mpr fun p hp => idle p ((h.pending p).mp hp)

/-- During start-up a BUSY Map Engine has followed START-LOAD's load (R182). -/
theorem loadEnded (busy : s.mapEngine ≠ none) (starting : s.image.finished = false) :
    ∀ o, s.image.op = some o → o.page = none := by
  intro o ho
  obtain ⟨o', ho', -, loading⟩ := h.startLoad starting
  cases ho.symm.trans ho'
  exact Decidable.byContradiction fun page => busy (loading page)

end State.HoldsOk

/-! ### An operation of the Map Engine -/

/-- The Map Engine may hold what an operation holds (R77, R182): it writes a bank that is neither active nor held by the
Image Store Controller, reads a bank that the controller does not write, and during start-up waits for the load. -/
structure State.MapPlaceable (s : State) (op : Option MapOp) : Prop where
  write    : ∀ b, mapHoldOf op b = some .write → s.active ≠ some b ∧ (s.hold b).image = none
  read     : ∀ b, mapHoldOf op b = some .read → (s.hold b).image ≠ some .write
  distinct : ∀ c d, op = some (.copy c d) → c ≠ d
  starting : op ≠ none → s.image.finished = false → ∀ o, s.image.op = some o → o.page = none

theorem State.mapPlaceable_none (s : State) : s.MapPlaceable none :=
  ⟨nofun, nofun, nofun, fun h => absurd rfl h⟩

theorem State.HoldsOk.setMapOp {s t : State} {op : Option MapOp} (h : s.HoldsOk) (place : s.MapPlaceable op)
    (active : t.active = s.active) (image : t.image = s.image) (engine : t.mapEngine = op)
    (hold : ∀ b, t.hold b = ⟨mapHoldOf op b, (s.hold b).image⟩)
    (pending : ∀ p : PendingActivation, t.pendingAct = some p ↔ op = some (.activatePending p.bank p.revision)) :
    t.HoldsOk where
  mapEngine b := by rw [hold, engine]
  image b := by rw [hold, image]; exact h.image b
  distinct c d e := place.distinct c d (engine ▸ e)
  alone b w := by
    rw [hold] at w ⊢
    rcases (HoldRec.writeHeld_eq_true _).mp w with map | img
    · exact .inr (place.write b map).2
    · refine .inl ?_
      cases kind : mapHoldOf op b with
      | none => rfl
      | some k =>
        cases k with
        | read => exact absurd img (place.read b kind)
        | write => exact nomatch img.symm.trans (place.write b kind).2
  notActive b w := by
    rw [hold] at w
    rw [active]
    rcases (HoldRec.writeHeld_eq_true _).mp w with map | img
    · exact (place.write b map).1
    · exact (h.writes_image img).1
  pending p := by rw [engine]; exact pending p
  started := by rw [image, active]; exact h.started
  startLoad starting := by
    rw [image] at starting
    obtain ⟨o, ho, kind, -⟩ := h.startLoad starting
    refine ⟨o, image ▸ ho, kind, fun page => Decidable.byContradiction fun busy => page ?_⟩
    exact place.starting (engine ▸ busy) starting o ho
  running := by rw [image]; exact h.running

/-! ### An operation of the Image Store Controller -/

/-- The Image Store Controller may hold what an operation holds (R77), and during start-up it runs START-LOAD (R182). -/
structure State.ImagePlaceable (s : State) (op : Option ImageOp) : Prop where
  write    : ∀ b, imageHoldOf op b = some .write → s.active ≠ some b ∧ (s.hold b).mapEngine = none
  read     : ∀ b, imageHoldOf op b = some .read → (s.hold b).mapEngine ≠ some .write
  starting : s.image.finished = false → ∃ o, op = some o ∧ o.op = .startLoad ∧ (o.page ≠ none → s.mapEngine = none)
  running  : s.image.finished = true → ∀ o, op = some o → o.op ≠ .startLoad ∧ o.page ≠ none

theorem State.HoldsOk.setImageOp {s t : State} {op : Option ImageOp} (h : s.HoldsOk) (place : s.ImagePlaceable op)
    (active : t.active = s.active) (pending : t.pendingAct = s.pendingAct) (engine : t.mapEngine = s.mapEngine)
    (finished : t.image.finished = s.image.finished) (image : t.image.op = op)
    (hold : ∀ b, t.hold b = ⟨(s.hold b).mapEngine, imageHoldOf op b⟩) : t.HoldsOk where
  mapEngine b := by rw [hold, engine]; exact h.mapEngine b
  image b := by rw [hold, image]
  distinct := by rw [engine]; exact h.distinct
  alone b w := by
    rw [hold] at w ⊢
    rcases (HoldRec.writeHeld_eq_true _).mp w with map | img
    · refine .inr ?_
      cases kind : imageHoldOf op b with
      | none => rfl
      | some k =>
        cases k with
        | read => exact absurd map (place.read b kind)
        | write => exact nomatch map.symm.trans (place.write b kind).2
    · exact .inl (place.write b img).2
  notActive b w := by
    rw [hold] at w
    rw [active]
    rcases (HoldRec.writeHeld_eq_true _).mp w with map | img
    · exact (h.writes_map map).1
    · exact (place.write b img).1
  pending := by rw [pending, engine]; exact h.pending
  started := by rw [finished, active]; exact h.started
  startLoad := by rw [finished, image, engine]; exact place.starting
  running := by rw [finished, image]; exact place.running

/-- An operation that continues on its bank holds it as before. -/
theorem State.HoldsOk.continues {s : State} (h : s.HoldsOk) {o o' : ImageOp} (op : s.image.op = some o)
    (kind : o'.op = o.op) (bank : o'.bank = o.bank) (reading : o.page ≠ none) (page : o'.page ≠ none) :
    s.ImagePlaceable (some o') ∧ ∀ b, imageHoldOf (some o') b = (s.hold b).image := by
  have same : ∀ b, imageHoldOf (some o') b = (s.hold b).image := fun b => by
    rw [h.image b, op]
    simp only [imageHoldOf, kind, bank, Option.isSome_iff_ne_none.mpr reading, Option.isSome_iff_ne_none.mpr page]
  refine ⟨⟨fun b w => h.writes_image ((same b).symm.trans w), fun b r w => ?_, fun starting => ?_,
    fun running o'' ho => ?_⟩, same⟩
  · exact nomatch ((same b).symm.trans r).symm.trans (h.writes_map w).2
  · obtain ⟨o₁, ho₁, start, loading⟩ := h.startLoad starting
    cases op.symm.trans ho₁
    exact ⟨o', rfl, kind.trans start, fun _ => loading reading⟩
  · cases ho
    exact ⟨kind ▸ (h.running running o op).1, page⟩

/-! ### What a command keeps -/

/-- What every command but a boundary and the reset line keeps: the law of the holds, the active bank and its records, the
consistency of a pending bank, the index ranges, and what `State.Steady` says of stores, groups and frame. -/
structure State.Serves (s t : State) : Prop where
  holds   : t.HoldsOk
  active  : t.active = s.active
  bank    : ∀ b, s.active = some b → t.bank b = s.bank b
  pending : (∀ p, s.pendingAct = some p → (s.bank p.bank).check = none) →
      ∀ p, t.pendingAct = some p → (t.bank p.bank).check = none
  ranged  : s.BanksRanged → t.BanksRanged
  egress  : t.egress = s.egress
  stores  : ∀ n, (s.store n).KeepsPlace (t.store n)
  groups  : ∀ g, (s.group g).KeepsPlace (t.group g)

namespace State.Serves

theorem of_steady {s t : State} (h : s.HoldsOk) (st : s.Steady t) : s.Serves t := by
  have bank : ∀ b, t.bank b = s.bank b := fun b => by
    have banks : t.banks = s.banks := (congrArg State.banks st.banking :)
    simp only [State.bank, banks]
  have pendingAct : t.pendingAct = s.pendingAct := (congrArg State.pendingAct st.banking :)
  refine ⟨h.of_banking st.banking, (congrArg State.active st.banking :), fun b _ => bank b, ?_, fun ranged b => ?_,
    st.egress, st.stores, st.groups⟩
  · simp only [pendingAct, bank]; exact id
  · rw [bank]; exact ranged b

theorem refl {s : State} (h : s.HoldsOk) : s.Serves s := of_steady h (.refl s)

theorem trans {s t u : State} (h : s.Serves t) (k : t.Serves u) : s.Serves u where
  holds := k.holds
  active := k.active.trans h.active
  bank b active := (k.bank b (h.active.trans active)).trans (h.bank b active)
  pending := k.pending ∘ h.pending
  ranged := k.ranged ∘ h.ranged
  egress := k.egress.trans h.egress
  stores n := (h.stores n).trans (k.stores n)
  groups g := (h.groups g).trans (k.groups g)

theorem steady {s t u : State} (h : s.Serves t) (st : t.Steady u) : s.Serves u := h.trans (of_steady h.holds st)

/-- A bank that is not active, and not read by the Map Engine, is written (R58, R77). -/
theorem setBank {s : State} (h : s.HoldsOk) {b : BankNo} {v : Bank} (inactive : s.active ≠ some b)
    (unread : (s.hold b).mapEngine ≠ some .read) (ranged : s.BanksRanged → v.Ranged) : s.Serves (s.setBank b v) where
  holds := h.of_same rfl rfl rfl rfl rfl rfl
  active := rfl
  bank c active := by
    rw [State.setBank_bank, if_neg]
    exact fun same => inactive (same ▸ active)
  pending checked p hp := by
    rw [State.setBank_bank, if_neg]
    · exact checked p hp
    · rintro rfl
      refine unread ?_
      rw [h.mapEngine, (h.pending p).mp hp]
      simp [mapHoldOf]
  ranged all c := by
    rw [State.setBank_bank]
    split
    · exact ranged all
    · exact all c
  egress := rfl
  stores _ := .refl _
  groups _ := .refl _

/-- The Map Engine's operation and its holds change. -/
theorem setMapOp {s : State} (h : s.HoldsOk) {op : Option MapOp} {H : Table HoldRec} {pa : Option PendingActivation}
    (place : s.MapPlaceable op) (hold : ∀ b, State.hold { s with holds := H } b = ⟨mapHoldOf op b, (s.hold b).image⟩)
    (pending : ∀ p : PendingActivation, pa = some p ↔ op = some (.activatePending p.bank p.revision))
    (checked : ∀ p, pa = some p → (s.bank p.bank).check = none) :
    s.Serves { s with holds := H, mapEngine := op, pendingAct := pa } where
  holds := h.setMapOp place rfl rfl rfl hold pending
  active := rfl
  bank _ _ := rfl
  pending _ := checked
  ranged := id
  egress := rfl
  stores _ := .refl _
  groups _ := .refl _

/-- The Map Engine takes up or ends an operation, with nothing pending before and after. -/
theorem setMapOp_idle {s : State} (h : s.HoldsOk) {op : Option MapOp} {H : Table HoldRec}
    (idle : ∀ p : PendingActivation, s.mapEngine ≠ some (.activatePending p.bank p.revision))
    (idle' : ∀ p : PendingActivation, op ≠ some (.activatePending p.bank p.revision))
    (place : s.MapPlaceable op) (hold : ∀ b, State.hold { s with holds := H } b = ⟨mapHoldOf op b, (s.hold b).image⟩) :
    s.Serves { s with holds := H, mapEngine := op } := by
  have none := h.not_pending idle
  have moved := setMapOp h (pa := s.pendingAct) place hold (fun p => by simp [none, idle' p])
    fun p hp => by simp [none] at hp
  exact moved

/-- The Image Store Controller's operation and its holds change. -/
theorem setImageOp {s : State} (h : s.HoldsOk) {op : Option ImageOp} {H : Table HoldRec} (place : s.ImagePlaceable op)
    (hold : ∀ b, State.hold { s with holds := H } b = ⟨(s.hold b).mapEngine, imageHoldOf op b⟩) :
    s.Serves { s with holds := H, image := { s.image with op := op } } where
  holds := h.setImageOp place rfl rfl rfl rfl rfl hold
  active := rfl
  bank _ _ := rfl
  pending := id
  ranged := id
  egress := rfl
  stores _ := .refl _
  groups _ := .refl _

/-- The start outcome to be reported is noted (R182). -/
theorem toReport {s : State} (h : s.HoldsOk) (o : StartOutcome) : s.Serves (s.toReport o) where
  holds := h.of_same rfl rfl rfl rfl rfl rfl
  active := rfl
  bank _ _ := rfl
  pending := id
  ranged := id
  egress := rfl
  stores _ := .refl _
  groups _ := .refl _

/-- An event that changes the state and raises one notice. -/
theorem raised {s u : State} (h : s.Serves u) (b : Block) (n : NoticeBody) :
    s.Serves ((Ev.start u).raise b n).offer := by
  refine h.steady ?_
  have offered := Ev.offer_steady ((Ev.start u).raise b n)
  rwa [Ev.raise_st] at offered

end State.Serves

/-! ### Takes (R158) -/

theorem JudgesSteadily.take {judge : List Byte → State → Judged} (hj : JudgesSteadily judge) {code : Byte} {d : Bool}
    {x : Link} {s t : State} (h : s.HoldsOk) (ht : takeCommand code d x judge s = .next t) : s.Serves t :=
  .of_steady h (takeCommand_keeps (P := s.Steady) (fun e he => he.trans e.offer_steady)
    (fun u x _ _ hu => hu.trans (.setLink u x _)) (.refl s) (fun args => hj args s) ht)

/-- A judgement that keeps what a command keeps, once start-up has finished. -/
def JudgesServing (judge : List Byte → State → Judged) : Prop :=
  ∀ args (s : State), s.HoldsOk → s.image.finished = true → s.Serves (judge args s).1.st

theorem JudgesServing.take {judge : List Byte → State → Judged} (hj : JudgesServing judge) {code : Byte} {x : Link}
    {s t : State} (h : s.HoldsOk) (ht : takeCommand code false x judge s = .next t) : s.Serves t := by
  have answered : ∀ (e : Ev) (r : Reply), s.Serves e.st →
      s.Serves (e.offer.setLink x ((e.offer.link x).respond code r)) := fun e r he =>
    (he.steady e.offer_steady).steady (.setLink _ x _)
  unfold takeCommand at ht
  split at ht
  · cases ht; exact .refl h
  · split at ht
    · cases ht
      refine answered _ _ ?_
      split
      · exact .refl h
      · rename_i finished
        exact hj _ s h (by simpa using finished)
    · cases ht; exact .refl h

end Sys2Proof.Machine
end

section
/-! SUPPORT. The commands of the banks and of the image, and the ends of their operations, keep the law of the holds and the
active bank (R58, R80 to R87, R177 to R182). -/

namespace Sys2Proof.Machine

/-! ### The index ranges of a bank's tables (R52, R54, R55) -/

theorem Bank.Ranged.setEntry {b : Bank} (h : b.Ranged) {i : Nat} (hi : i < 1536) (e : Entry) : (b.setEntry i e).Ranged where
  map n hn := (Table.get_set ..).trans ((if_neg (by omega)).trans (h.map n hn))
  profiles := h.profiles
  groups := h.groups

theorem Bank.Ranged.setProfile {b : Bank} (h : b.Ranged) {i : Nat} (hi : i < 1536) (p : Option Profile) :
    (b.setProfile i p).Ranged where
  map := h.map
  profiles n hn := (Table.get_set ..).trans ((if_neg (by omega)).trans (h.profiles n hn))
  groups := h.groups

theorem Bank.Ranged.setGroupDef {b : Bank} (h : b.Ranged) {i : Nat} (hi : i < 256) (g : Option GroupDef) :
    (b.setGroupDef i g).Ranged where
  map := h.map
  profiles := h.profiles
  groups n hn := (Table.get_set ..).trans ((if_neg (by omega)).trans (h.groups n hn))

theorem Bank.ranged_of_empty (r : Half) : Bank.Ranged ⟨.empty, .empty, .empty, r⟩ :=
  ⟨fun _ _ => rfl, fun _ _ => rfl, fun _ _ => rfl⟩

theorem Bank.Ranged.withRevision {b : Bank} (h : b.Ranged) (r : Half) : Bank.Ranged { b with revision := r } :=
  ⟨h.map, h.profiles, h.groups⟩

theorem Bank.Ranged.afterLoad {b : Bank} (h : b.Ranged) (success : Bool) : (b.afterLoad success).Ranged := by
  unfold Bank.afterLoad
  split
  · exact h.withRevision _
  · exact Bank.ranged_of_empty _

/-- A record's index lies in the range of its table. -/
def BankRecord.InRange : BankRecord → Prop
  | .entry i _ => i < 1536
  | .profile i _ => i < 1536
  | .group i _ => i < 256

theorem Bank.Ranged.writeRecord {b : Bank} (h : b.Ranged) {r : BankRecord} (hr : r.InRange) : (b.writeRecord r).Ranged := by
  cases r with
  | entry i e => exact h.setEntry hr e
  | profile i p => exact h.setProfile hr p
  | group i g => exact h.setGroupDef hr g

/-- The 3,328 records of the stream lie in their tables (R175). -/
theorem decodeRecord_inRange {r : Nat} {bytes : List Byte} {rec : BankRecord} (hr : r < 3328)
    (h : decodeRecord r bytes = some rec) : rec.InRange := by
  unfold decodeRecord at h
  split at h
  · obtain ⟨e, -, rfl⟩ := Option.map_eq_some_iff.mp h
    assumption
  · split at h
    all_goals
      split at h
      · split at h <;> cases h
        simp only [BankRecord.InRange]; omega
      · cases h
        simp only [BankRecord.InRange]; omega
      · cases h

theorem splitRecords_inRange (f r : Nat) (bs : List Byte) :
    ∀ rec, some rec ∈ (splitRecords f r bs).1 → rec.InRange := by
  induction f generalizing r bs with
  | zero => exact fun _ h => nomatch h
  | succ f ih =>
    intro rec h
    unfold splitRecords at h
    split at h
    · rename_i whole
      rcases List.mem_cons.mp h with head | tail
      · exact decodeRecord_inRange whole.1 head.symm
      · exact ih _ _ rec tail
    · exact nomatch h

theorem Bank.Ranged.loadRecords {b : Bank} (h : b.Ranged) {l : List (Option BankRecord)}
    (hl : ∀ rec, some rec ∈ l → rec.InRange) : (b.loadRecords l).1.Ranged := by
  induction l generalizing b with
  | nil => exact h
  | cons x rest ih =>
    cases x with
    | none => exact h
    | some r => exact ih (h.writeRecord (hl r (List.mem_cons_self ..))) fun rec hrec => hl rec (List.mem_cons_of_mem _ hrec)

/-! ### Writes (R58) -/

theorem judgeWrite_serves {s : State} (h : s.HoldsOk) (b : BankNo) (index : List Byte) (clamped : Bool) {put : Bank → Bank}
    (hput : ∀ v : Bank, v.Ranged → (put v).Ranged) (record : Bank → List Byte) :
    s.Serves (judgeWrite b index clamped put record s).1.st := by
  unfold judgeWrite
  split
  · exact .refl h
  · rename_i inactive
    split
    · exact .refl h
    · rename_i free
      have unheld : s.hold b = ⟨none, none⟩ := (HoldRec.noHold_eq_true _).mp (by simpa using free)
      exact .setBank h inactive (by rw [unheld]; nofun) fun ranged => (hput _ (ranged b)).withRevision _

theorem judgeWriteEntry_serves : JudgesServing judgeWriteEntry := by
  intro args s h _
  unfold judgeWriteEntry
  split
  · split
    · exact .refl h
    · split
      · rename_i inRange
        split
        · exact .refl h
        · exact judgeWrite_serves h _ _ _ (fun v hv => hv.setEntry inRange _) _
      · exact .refl h
  · exact .refl h

theorem judgeWriteProfile_serves : JudgesServing judgeWriteProfile := by
  intro args s h _
  unfold judgeWriteProfile
  split
  · split
    · exact .refl h
    · split
      · rename_i inRange
        split
        · exact .refl h
        · exact judgeWrite_serves h _ _ _ (fun v hv => hv.setProfile inRange _) _
      · exact .refl h
  · exact .refl h

theorem judgeWriteGroup_serves : JudgesServing judgeWriteGroup := by
  intro args s h _
  unfold judgeWriteGroup
  split
  · split
    · exact .refl h
    · split
      · exact .refl h
      · exact judgeWrite_serves h _ _ _ (fun v hv => hv.setGroupDef (BitVec.isLt _) _) _
  · exact .refl h

/-! ### The Map Engine (R80 to R87) -/

section MapEngine

variable {s : State} (h : s.HoldsOk)
include h

/-- The Map Engine, READY, takes up an operation. -/
theorem State.Serves.beginMapOp {op : MapOp} {H : Table HoldRec} (ready : s.mapEngine = none)
    (idle : ∀ p : PendingActivation, op ≠ .activatePending p.bank p.revision) (place : s.MapPlaceable (some op))
    (hold : ∀ b, State.hold { s with holds := H } b = ⟨mapHoldOf (some op) b, (s.hold b).image⟩) :
    s.Serves { s with holds := H, mapEngine := some op } :=
  .setMapOp_idle h (fun p => by rw [ready]; nofun) (fun p e => idle p (Option.some.inj e)) place hold

theorem State.Serves.clearBegins {b : BankNo} (finished : s.image.finished = true) (ready : s.mapEngine = none)
    (inactive : s.active ≠ some b) (free : s.hold b = ⟨none, none⟩) :
    s.Serves { s.mapHold b (some .write) with mapEngine := some (.clear b) } := by
  refine beginMapOp h ready nofun ⟨fun c w => ?_, fun c r => ?_, nofun, fun _ f => nomatch finished.symm.trans f⟩
    fun c => (s.mapHold_hold b _ c).trans ?_
  · simp only [mapHoldOf] at w
    split at w
    · subst c; exact ⟨inactive, by rw [free]⟩
    · cases w
  · simp only [mapHoldOf] at r
    split at r <;> cases r
  · simp only [mapHoldOf]
    split
    · rfl
    · exact h.hold_of_map ready c

theorem State.Serves.copyBegins {b d : BankNo} (finished : s.image.finished = true) (ready : s.mapEngine = none)
    (distinct : b ≠ d) (inactive : s.active ≠ some d) (shared : (s.hold b).writeHeld = false)
    (free : s.hold d = ⟨none, none⟩) :
    s.Serves { (s.mapHold b (some .read)).mapHold d (some .write) with mapEngine := some (.copy b d) } := by
  refine beginMapOp h ready nofun
    ⟨fun c w => ?_, fun c r => ?_, fun c e eq => by cases eq; exact distinct, fun _ f => nomatch finished.symm.trans f⟩
    fun c => ((s.mapHold b _).mapHold_hold d _ c).trans ?_
  · simp only [mapHoldOf] at w
    split at w
    · subst c; exact ⟨inactive, by rw [free]⟩
    · split at w <;> cases w
  · simp only [mapHoldOf] at r
    split at r
    · cases r
    · split at r
      · subst c; exact ((HoldRec.writeHeld_eq_false _).mp shared).2
      · cases r
  · rw [s.mapHold_hold]
    simp only [mapHoldOf]
    split
    · subst c; simp [distinct.symm]
    · split
      · rfl
      · exact h.hold_of_map ready c

theorem State.Serves.readBegins {op : MapOp} {b : BankNo} (ready : s.mapEngine = none)
    (reads : ∀ c, mapHoldOf (some op) c = if c = b then some .read else none)
    (idle : ∀ p : PendingActivation, op ≠ .activatePending p.bank p.revision) (single : ∀ c d, op ≠ .copy c d)
    (shared : (s.hold b).image ≠ some .write)
    (starting : s.image.finished = false → ∀ o, s.image.op = some o → o.page = none) :
    s.Serves { s.mapHold b (some .read) with mapEngine := some op } := by
  refine beginMapOp h ready idle
    ⟨fun c w => ?_, fun c r => ?_, fun c d e => absurd (Option.some.inj e) (single c d), fun _ => starting⟩
    fun c => (s.mapHold_hold b _ c).trans ?_
  · rw [reads] at w
    split at w <;> cases w
  · rw [reads] at r
    split at r
    · subst c; exact shared
    · cases r
  · rw [reads]
    split
    · rfl
    · exact h.hold_of_map ready c

theorem State.Serves.startCheck {b : BankNo} (ready : s.mapEngine = none) (shared : (s.hold b).image ≠ some .write)
    (starting : s.image.finished = false → ∀ o, s.image.op = some o → o.page = none) : s.Serves (s.startCheck b) :=
  readBegins h ready (fun _ => rfl) nofun nofun shared starting

/-- An operation of the Map Engine that reads or writes one bank ends. -/
theorem State.Serves.mapEnds {op : MapOp} {b : BankNo} (busy : s.mapEngine = some op)
    (alone : ∀ c, c ≠ b → mapHoldOf (some op) c = none)
    (idle : ∀ p : PendingActivation, op ≠ .activatePending p.bank p.revision) :
    s.Serves ((s.mapHold b none).mapReady) := by
  refine setMapOp_idle h (H := (s.mapHold b none).holds) (fun p e => idle p (Option.some.inj (busy.symm.trans e))) nofun
    s.mapPlaceable_none fun c => (s.mapHold_hold b none c).trans ?_
  split
  · rfl
  · rename_i other
    have held := h.hold_of_map busy c
    rwa [alone c other] at held

theorem State.Serves.copyEnds {c d : BankNo} (busy : s.mapEngine = some (.copy c d)) :
    s.Serves (((s.mapHold c none).mapHold d none).mapReady) := by
  refine setMapOp_idle h (H := ((s.mapHold c none).mapHold d none).holds) (fun p e => nomatch busy.symm.trans e) nofun
    s.mapPlaceable_none fun b => ((s.mapHold c none).mapHold_hold d none b).trans ?_
  have held := h.hold_of_map busy b
  rw [s.mapHold_hold]
  split
  · split <;> rfl
  · split
    · rfl
    · have unheld : mapHoldOf (some (.copy c d)) b = none := by simp [mapHoldOf, *]
      rwa [unheld] at held

/-- The bank that the Map Engine's write is on is written. -/
theorem State.Serves.writesBank {b : BankNo} {v : Bank} (w : mapHoldOf s.mapEngine b = some .write)
    (ranged : s.BanksRanged → v.Ranged) : s.Serves (s.setBank b v) := by
  have held := (h.mapEngine b).trans w
  exact setBank h (h.writes_map held).1 (by rw [held]; nofun) ranged

end MapEngine

theorem clearCompletion_serves {s t : State} (h : s.HoldsOk) (ht : exec .clearCompletion s = .next t) : s.Serves t := by
  change execClearCompletion s = _ at ht
  unfold execClearCompletion at ht
  split at ht <;> cases ht
  · rename_i b busy
    have written : s.Serves (s.setBank b (s.bank b).cleared.bumped) :=
      .writesBank h (by rw [busy]; simp [mapHoldOf]) fun _ => Bank.ranged_of_empty _
    have ended := State.Serves.mapEnds written.holds (b := b) (op := .clear b) busy
      (fun c other => if_neg other) nofun
    exact (written.trans ended).raised _ _
  · exact .refl h

theorem copyCompletion_serves {s t : State} (h : s.HoldsOk) (ht : exec .copyCompletion s = .next t) : s.Serves t := by
  change execCopyCompletion s = _ at ht
  unfold execCopyCompletion at ht
  split at ht <;> cases ht
  · rename_i c d busy
    have written : s.Serves (s.setBank d { s.bank c with revision := (s.bank d).revision + 1 }) :=
      .writesBank h (by rw [busy]; simp [mapHoldOf]) fun ranged => (ranged c).withRevision _
    exact (written.trans (.copyEnds written.holds busy)).raised _ _
  · exact .refl h

theorem verifyCompletion_serves {s t : State} (h : s.HoldsOk) (ht : exec .verifyCompletion s = .next t) : s.Serves t := by
  change execVerifyCompletion s = _ at ht
  unfold execVerifyCompletion at ht
  split at ht <;> cases ht
  · rename_i b rev busy
    exact (State.Serves.mapEnds h busy (fun c other => if_neg other) nofun).raised _ _
  · exact .refl h

/-- A passed check makes its bank pending: the hold stays (R87). -/
theorem State.Serves.checkPasses {s : State} (h : s.HoldsOk) {b : BankNo} {r : Half}
    (busy : s.mapEngine = some (.activateCheck b r)) (check : (s.bank b).check = none) :
    s.Serves { s with pendingAct := some ⟨b, r⟩, mapEngine := some (.activatePending b r) } := by
  have holds : ∀ c, mapHoldOf (some (.activatePending b r)) c = mapHoldOf s.mapEngine c := fun c => by rw [busy]; rfl
  refine setMapOp h (H := s.holds) ⟨fun c w => ?_, fun c read w => ?_, nofun, fun _ => h.loadEnded (by rw [busy]; nofun)⟩
    (fun c => (h.hold_of_map busy c)) (fun p => ?_) fun p hp => ?_
  · exact h.writes_map ((h.mapEngine c).trans ((holds c).symm.trans w))
  · have unread := (h.writes_image w).2
    rw [h.mapEngine, ← holds, read] at unread
    cases unread
  · obtain ⟨pb, pr⟩ := p
    simp
  · cases hp; exact check

theorem activationCheckEnd_serves {s t : State} (h : s.HoldsOk) (ht : exec .activationCheckEnd s = .next t) :
    s.Serves t := by
  change execActivationCheckEnd s = _ at ht
  unfold execActivationCheckEnd at ht
  split at ht
  · rename_i b r busy
    split at ht <;> cases ht
    · have ended := State.Serves.mapEnds h busy (fun c other => if_neg other) nofun
      refine State.Serves.steady ?_ (Ev.offer_steady _)
      rw [Ev.modify_st, Ev.raise_st]
      refine ended.trans ?_
      unfold State.startUpAfterCheck
      split
      · exact .refl ended.holds
      · rename_i starting
        have unfinished : s.image.finished = false := by
          rw [Bool.or_eq_true, not_or] at starting
          exact Bool.eq_false_iff.mpr starting.1
        have loaded := h.loadEnded (by rw [busy]; nofun) unfinished
        have reported := State.Serves.toReport ended.holds .imageInconsistent
        refine reported.trans (.startCheck reported.holds rfl ?_ fun _ => loaded)
        rw [reported.holds.image]
        obtain ⟨o, ho, -, -⟩ := h.startLoad unfinished
        have op : (State.toReport .imageInconsistent ((s.mapHold b none).mapReady)).image.op = some o := ho
        simp [op, imageHoldOf, loaded o ho]
    · rename_i check
      have passes := State.Serves.checkPasses h busy check
      unfold State.startUpAfterCheck
      split
      · exact passes
      · exact passes.trans (.toReport passes.holds _)
  · cases ht; exact .refl h

theorem judgeClearBank_serves : JudgesServing judgeClearBank := by
  intro args s h finished
  unfold judgeClearBank
  split
  · split
    · exact .refl h
    · split
      · exact .refl h
      · split
        · exact .refl h
        · split
          · exact .refl h
          · rename_i inactive ready free
            exact .clearBegins h finished (by simpa using ready) inactive
              ((HoldRec.noHold_eq_true _).mp (by simpa using free))
  · exact .refl h

theorem judgeCopyBank_serves : JudgesServing judgeCopyBank := by
  intro args s h finished
  unfold judgeCopyBank
  split
  · split
    · split
      · exact .refl h
      · split
        · exact .refl h
        · split
          · exact .refl h
          · split
            · exact .refl h
            · rename_i distinct inactive ready free
              simp only [Bool.or_eq_true, not_or, Bool.not_eq_true, Bool.not_eq_false'] at free
              exact .copyBegins h finished (by simpa using ready) distinct inactive free.1
                ((HoldRec.noHold_eq_true _).mp free.2)
    · exact .refl h
  · exact .refl h

theorem judgeVerifyBank_serves : JudgesServing judgeVerifyBank := by
  intro args s h finished
  unfold judgeVerifyBank
  split
  · split
    · exact .refl h
    · split
      · exact .refl h
      · split
        · exact .refl h
        · rename_i ready shared
          exact .readBegins h (by simpa using ready) (fun _ => rfl) nofun nofun
            ((HoldRec.writeHeld_eq_false _).mp (by simpa using shared)).2 fun f => nomatch finished.symm.trans f
  · exact .refl h

theorem judgeActivateBank_serves : JudgesServing judgeActivateBank := by
  intro args s h finished
  unfold judgeActivateBank
  split
  · exact .refl h
  · split
    · exact .refl h
    · unfold judgeActivate
      dsimp only
      split
      · exact .refl h
      · split
        · exact .refl h
        · split
          · exact .refl h
          · split
            · exact .refl h
            · rename_i ready shared _
              exact .startCheck h (by simpa using ready)
                ((HoldRec.writeHeld_eq_false _).mp (by simpa using shared)).2 fun f => nomatch finished.symm.trans f

/-! ### The Image Store Controller (R177 to R182) -/

section Controller

variable {s : State} (h : s.HoldsOk)
include h

/-- The controller, READY, takes up an operation (R177). -/
theorem State.Serves.imageBegins {op : ImageOp} {k : HoldKind} (ready : s.image.op = none) (kind : op.op.holdKind = k)
    (page : op.page = some 0) (served : op.op ≠ .startLoad)
    (write : k = .write → s.active ≠ some op.bank ∧ (s.hold op.bank).mapEngine = none)
    (read : k = .read → (s.hold op.bank).mapEngine ≠ some .write) :
    s.Serves ((s.imageHold op.bank (some k)).imageAt op) := by
  have holds : ∀ c, imageHoldOf (some op) c = if c = op.bank then some k else none := fun c => by
    simp [imageHoldOf, page, kind]
  refine setImageOp h (H := (s.imageHold op.bank (some k)).holds) ⟨fun c w => ?_, fun c r => ?_, fun starting => ?_,
    fun _ o ho => by cases ho; exact ⟨served, by rw [page]; nofun⟩⟩ fun c => (s.imageHold_hold op.bank _ c).trans ?_
  · rw [holds] at w
    split at w <;> cases w
    subst c; exact write rfl
  · rw [holds] at r
    split at r <;> cases r
    subst c; exact read rfl
  · obtain ⟨o, ho, -⟩ := h.startLoad starting
    exact nomatch ready.symm.trans ho
  · rw [holds]
    split
    · rfl
    · exact h.hold_of_image ready c

variable {o : ImageOp} (op : s.image.op = some o)
include op

/-- Another operation than START-LOAD runs after start-up only (R182). -/
theorem State.HoldsOk.finished_of_op (kind : o.op ≠ .startLoad) : s.image.finished = true := by
  refine Decidable.byContradiction fun starting => ?_
  obtain ⟨o', ho', start, -⟩ := h.startLoad (Bool.eq_false_iff.mpr starting)
  cases op.symm.trans ho'
  exact kind start

/-- The operation goes on at another page or attempt. -/
theorem State.Serves.imageAt {o' : ImageOp} (kind : o'.op = o.op) (bank : o'.bank = o.bank) (reading : o.page ≠ none)
    (page : o'.page ≠ none) : s.Serves (s.imageAt o') := by
  obtain ⟨place, same⟩ := h.continues op kind bank reading page
  exact setImageOp h (H := s.holds) place fun c => by rw [same c]

/-- The operation ends, and its hold with it. -/
theorem State.Serves.imageEnds (kind : o.op ≠ .startLoad) : s.Serves ((s.imageHold o.bank none).imageReady) := by
  refine setImageOp h (H := (s.imageHold o.bank none).holds) ⟨nofun, nofun, fun f => ?_, fun _ => nofun⟩
    fun c => (s.imageHold_hold o.bank none c).trans ?_
  · exact nomatch (h.finished_of_op op kind).symm.trans f
  · split
    · rfl
    · rename_i other
      have held := h.hold_of_image op c
      rw [held]
      simp [imageHoldOf, other]

/-- The bank that a load is reading into is written (R180). -/
theorem State.Serves.loadsBank {v : Bank} (kind : o.op.holdKind = .write) (reading : o.page ≠ none)
    (ranged : s.BanksRanged → v.Ranged) : s.Serves (s.setBank o.bank v) := by
  have held : (s.hold o.bank).image = some .write := by
    rw [h.image, op]
    simp [imageHoldOf, Option.isSome_iff_ne_none.mpr reading, kind]
  obtain ⟨inactive, alone⟩ := h.writes_image held
  exact setBank h inactive (by rw [alone]; nofun) ranged

theorem State.Serves.endStartLoad (kind : o.op = .startLoad) (reading : o.page ≠ none) (res : OpResult) :
    s.Serves (s.endStartLoad o res) := by
  have starting : s.image.finished = false := by
    refine Bool.eq_false_iff.mpr fun running => ?_
    exact (h.running running o op).1 kind
  have ready : s.mapEngine = none := by
    obtain ⟨o', ho', -, loading⟩ := h.startLoad starting
    cases op.symm.trans ho'
    exact loading reading
  have written : s.Serves (s.setBank o.bank ((s.bank o.bank).afterLoad (res == .ok))) :=
    loadsBank h op (by rw [kind]; rfl) reading fun ranged => (ranged o.bank).afterLoad _
  have left := setImageOp written.holds (op := some { o with page := none, carry := [] })
    (H := ((s.setBank o.bank ((s.bank o.bank).afterLoad (res == .ok))).imageHold o.bank none).holds)
    ⟨nofun, nofun, fun _ => ⟨_, rfl, kind, fun page => absurd rfl page⟩, fun f => nomatch starting.symm.trans f⟩
    fun c => (State.imageHold_hold _ o.bank none c).trans (by
      split
      · rfl
      · rename_i other
        have held := written.holds.hold_of_image (op := some o) op c
        rw [held]
        simp [imageHoldOf, other])
  have checked : ∀ (u : State) (b : BankNo), u.HoldsOk → u.mapEngine = none →
      u.image.op = some { o with page := none, carry := [] } → u.Serves (u.startCheck b) := fun u b hu idle done =>
    startCheck hu idle (by rw [hu.image, done]; nofun) fun _ o' ho' => by cases done.symm.trans ho'; rfl
  have begun := written.trans left
  unfold State.endStartLoad
  dsimp only
  have reported := fun outcome => begun.trans (toReport left.holds outcome)
  split
  · exact begun.trans (checked _ 0 left.holds ready rfl)
  all_goals exact (reported _).trans (checked _ 2 (reported _).holds ready rfl)

theorem State.Serves.endRead (reading : o.page ≠ none) (res : OpResult) : s.Serves (s.endRead o res) := by
  unfold State.endRead
  split
  · rename_i kind
    have written : s.Serves (s.setBank o.bank ((s.bank o.bank).afterLoad (res == .ok))) :=
      loadsBank h op (by rw [kind]; rfl) reading fun ranged => (ranged o.bank).afterLoad _
    exact (written.trans (imageEnds written.holds op (by rw [kind]; nofun))).raised _ _
  · rename_i kind
    exact (imageEnds h op (by rw [kind]; nofun)).raised _ _
  · rename_i kind
    exact endStartLoad h op kind reading res
  · exact .refl h

theorem State.Serves.pagePassed (reading : o.page ≠ none) (loading : o.op ≠ .save) (p : Nat) (bytes : List Byte) :
    s.Serves (s.pagePassed o p bytes) := by
  have next : ∀ (u : State) (q : Nat) (carry : List Byte), u.HoldsOk → u.image.op = some o →
      u.Serves (u.imageAt { o with page := some q, attempts := 0, carry := carry }) := fun u q carry hu hop =>
    imageAt hu hop rfl rfl reading nofun
  have ended : ∀ (u : State) (res : OpResult), u.HoldsOk → u.image.op = some o → u.Serves (u.endRead o res) :=
    fun u res hu hop => endRead hu hop reading res
  unfold State.pagePassed
  split
  · split
    · exact next s 1 [] h op
    · exact ended s _ h op
  · dsimp only
    split
    · split
      · exact ended s _ h op
      · split
        · exact next s _ _ h op
        · exact ended s _ h op
    all_goals rename_i kind
    rotate_right
    · exact absurd kind loading
    all_goals
      have written : ∀ l : List (Option BankRecord), (∀ rec, some rec ∈ l → rec.InRange) →
          s.Serves (s.setBank o.bank ((s.bank o.bank).loadRecords l).1) := fun l hl =>
        loadsBank h op (by rw [kind]; rfl) reading fun ranged => (ranged o.bank).loadRecords hl
      have inRange := splitRecords_inRange (o.carry ++ bytes.take (if p = 69 then 136 else 254)).length
        (recordsWithin ((p - 1) * 254)) (o.carry ++ bytes.take (if p = 69 then 136 else 254))
      split
      · exact (written _ inRange).trans (ended _ _ (written _ inRange).holds op)
      · split
        · exact (written _ inRange).trans (next _ _ _ (written _ inRange).holds op)
        · exact (written _ inRange).trans (ended _ _ (written _ inRange).holds op)

theorem State.Serves.pageRead (reading : o.page ≠ none) (loading : o.op ≠ .save) (p : Nat) (bytes : List Byte) :
    s.Serves (s.pageRead o p bytes) := by
  unfold State.pageRead
  split
  · exact endRead h op reading _
  · split
    · exact pagePassed h op reading loading p bytes
    · split
      · exact imageAt h op rfl rfl reading reading
      · exact endRead h op reading _

end Controller

theorem pageReadCompletion_serves {r : PageRead} {s t : State} (h : s.HoldsOk)
    (ht : exec (.pageReadCompletion r) s = .next t) : s.Serves t := by
  change execPageReadCompletion r s = _ at ht
  unfold execPageReadCompletion at ht
  split at ht
  · cases ht
  · split at ht
    · cases ht; exact .refl h
    · rename_i o op
      split at ht <;> cases ht
      · exact .refl h
      · exact .refl h
      · rename_i p page loading
        exact .pageRead h op (by rw [page]; nofun) loading _ _

theorem pageWriteCompletion_serves {s t : State} (h : s.HoldsOk) (ht : exec .pageWriteCompletion s = .next t) :
    s.Serves t := by
  change execPageWriteCompletion s = _ at ht
  unfold execPageWriteCompletion at ht
  split at ht
  · cases ht; exact .refl h
  · rename_i o op
    split at ht
    · rename_i p kind page
      have stored : s.Serves (s.setFlashPage p (s.savePage o p)) :=
        .of_steady h (.of_same rfl rfl rfl fun _ => rfl)
      have saving : ∀ o' : ImageOp, o'.op = o.op → o'.bank = o.bank → o'.page ≠ none →
          s.Serves ((s.setFlashPage p (s.savePage o p)).imageAt o') := fun o' same bank at' =>
        stored.trans (.imageAt stored.holds op same bank (by rw [page]; nofun) at')
      dsimp only at ht
      split at ht
      · cases ht
        exact (stored.trans (.imageEnds stored.holds op (by rw [kind]; nofun))).raised _ _
      · split at ht <;> cases ht
        · exact saving _ rfl rfl nofun
        · exact saving _ rfl rfl nofun
    · cases ht; exact .refl h

theorem judgeImage_serves {s : State} (h : s.HoldsOk) {op : ImageOpName} (name : OpName) {b : BankNo} {k : HoldKind}
    (kind : op.holdKind = k) (served : op ≠ .startLoad) (inactive : k = .write → s.active ≠ some b) :
    s.Serves (judgeImage op name b k s).1.st := by
  have begun : ∀ (_ : s.image.op = none) (_ : k = .write → s.active ≠ some b ∧ (s.hold b).mapEngine = none)
      (_ : k = .read → (s.hold b).mapEngine ≠ some .write), s.Serves ((s.imageHold b (some k)).imageAt
        ⟨op, b, (s.bank b).revision, s.rate.retries, some 0, 0, s.time.seconds, false, []⟩) := fun ready write read =>
    .imageBegins h (op := ⟨op, b, _, _, some 0, 0, _, false, []⟩) ready kind rfl served write read
  unfold judgeImage
  dsimp only
  split
  · exact .refl h
  · rename_i ready
    split
    · split
      · exact .refl h
      · rename_i free
        have unheld : s.hold b = ⟨none, none⟩ := (HoldRec.noHold_eq_true _).mp (by simpa using free)
        exact begun (by simpa using ready) (fun _ => ⟨inactive rfl, by rw [unheld]⟩) nofun
    · split
      · exact .refl h
      · rename_i free
        exact begun (by simpa using ready) nofun fun _ => ((HoldRec.writeHeld_eq_false _).mp (by simpa using free)).1

theorem judgeSaveImage_serves : JudgesServing judgeSaveImage := by
  intro args s h _
  unfold judgeSaveImage
  (repeat' split)
  any_goals exact .refl h
  exact judgeImage_serves h _ rfl nofun nofun

theorem judgeVerifyImage_serves : JudgesServing judgeVerifyImage := by
  intro args s h _
  unfold judgeVerifyImage
  (repeat' split)
  any_goals exact .refl h
  exact judgeImage_serves h _ rfl nofun nofun

theorem judgeLoadImage_serves : JudgesServing judgeLoadImage := by
  intro args s h _
  unfold judgeLoadImage
  split
  · split
    · exact .refl h
    · split
      · exact .refl h
      · exact judgeImage_serves h _ rfl nofun fun _ => ‹_›
  · exact .refl h

end Sys2Proof.Machine
end

section
/-! SUPPORT. A boundary keeps the law of the holds, and leaves an active bank that is consistent, stores and groups that
follow it, and a frame whose content records carry what their codes state (R89 to R91, R98, R129, R130); so every step does. -/

namespace Sys2Proof.Machine

/-! ### The active bank and what follows it -/

theorem State.FollowsBank.of_places {s t : State} (h : s.FollowsBank) (bank : t.activeBank = s.activeBank)
    (stores : ∀ n, (s.store n).KeepsPlace (t.store n)) (groups : ∀ g, (s.group g).KeepsPlace (t.group g)) :
    t.FollowsBank where
  idle n := by rw [(stores n).idle, bank]; exact h.idle n
  width n := by rw [(stores n).width, bank]; exact h.width n
  settings g := by rw [(groups g).settings, bank]; exact h.settings g
  reset g none := (groups g).reset (h.reset g ((groups g).settings.symm.trans none))

/-- The banks keep to their index ranges, the active and the pending one are consistent, and stores and groups follow the
active one. -/
structure State.Governed (s : State) : Prop where
  ranged     : s.BanksRanged
  consistent : s.Consistent
  follows    : s.FollowsBank

theorem State.Governed.of_places {s t : State} (h : s.Governed) (banking : t.banking = s.banking)
    (stores : ∀ n, (s.store n).KeepsPlace (t.store n)) (groups : ∀ g, (s.group g).KeepsPlace (t.group g)) :
    t.Governed := by
  have bank : ∀ b, t.bank b = s.bank b := fun b => (congrArg (fun u : State => u.bank b) banking :)
  have active : t.active = s.active := (congrArg State.active banking :)
  have pending : t.pendingAct = s.pendingAct := (congrArg State.pendingAct banking :)
  refine ⟨fun b => ?_, ⟨fun b => ?_, fun p => ?_⟩,
    h.follows.of_places (congrArg State.activeBank banking :) stores groups⟩
  · rw [bank]; exact h.ranged b
  · rw [active, bank]; exact h.consistent.1 b
  · rw [pending, bank]; exact h.consistent.2 p

theorem State.Governed.evolves {s t : State} (h : s.Governed) (k : s.Evolves t) : t.Governed :=
  h.of_places k.banking k.stores fun g => (k.groups g).keepsPlace

/-! ### The adoption (R89 to R91, R150, R182, R183) -/

theorem State.finishStartUp_banking (s : State) : s.finishStartUp.banking
    = { s.banking with
        image := { s.image with op := none, finished := true, outcome := s.image.toReport } } := by
  unfold State.finishStartUp
  dsimp only
  cases s.image.toReport <;> rfl

theorem State.adopted_banking (p : PendingActivation) (s : State) :
    (s.adopted p).banking = (s.makeActive p.bank).banking := by
  rw [State.adopted_eq]
  exact (State.storeRaw_evolves _ _).banking

/-- The image controller after an adoption: start-up finishes with the adoption that it made (R182, R183). -/
def ImageCtl.adopting (i : ImageCtl) : ImageCtl :=
  if i.finished then i else { i with op := none, finished := true, outcome := i.toReport }

theorem Ev.adopt_banking (p : PendingActivation) (e : Ev) : (e.adopt p).st.banking
    = { (e.st.makeActive p.bank).banking with image := e.st.image.adopting } := by
  obtain ⟨q, quiet, heq⟩ := e.adopt_parts p
  have told : q.st.banking = (e.st.makeActive p.bank).banking :=
    (congrArg State.banking quiet.kept :).trans (State.adopted_banking p e.st)
  have image : q.st.image = e.st.image := (congrArg State.image told :)
  rw [heq, ImageCtl.adopting]
  split
  · rw [Ev.raise_st, told]; rfl
  · rw [Ev.modify_st, Ev.raise_st, State.finishStartUp_banking, told, image]

theorem ImageCtl.adopting_finished (i : ImageCtl) : i.adopting.finished = true := by
  unfold ImageCtl.adopting
  split
  · assumption
  · rfl

/-- The bank that an adoption makes active is held by the Map Engine's read-hold until then (R88). -/
theorem State.HoldsOk.adopts {s t : State} {p : PendingActivation} (h : s.HoldsOk) (pending : s.pendingAct = some p)
    (banking : t.banking = { (s.makeActive p.bank).banking with image := s.image.adopting }) : t.HoldsOk := by
  have engine := (h.pending p).mp pending
  have hold : ∀ b, t.hold b = ⟨none, (s.hold b).image⟩ := fun b => by
    have moved : t.hold b = (s.mapHold p.bank none).hold b := (congrArg (fun u : State => u.hold b) banking :)
    rw [moved, State.mapHold_hold]
    split
    · rfl
    · rename_i other
      rw [h.hold_of_map engine b]
      simp [mapHoldOf, other]
  have active : t.active = some p.bank := (congrArg State.active banking :)
  have idle : t.mapEngine = none := (congrArg State.mapEngine banking :)
  have image : t.image = s.image.adopting := (congrArg State.image banking :)
  have unwritten : ∀ b, (s.hold b).image = some .write → b ≠ p.bank := by
    rintro b w rfl
    have unread := (h.writes_image w).2
    rw [h.mapEngine, engine] at unread
    simp [mapHoldOf] at unread
  have running : s.image.finished = false → ∀ b, (s.hold b).image = none := fun starting b => by
    obtain ⟨o, ho, -, -⟩ := h.startLoad starting
    rw [h.image, ho]
    simp [imageHoldOf, h.loadEnded (by rw [engine]; nofun) starting o ho]
  have finished : t.image.finished = true := by rw [image]; exact ImageCtl.adopting_finished _
  have op : t.image.op = if s.image.finished then s.image.op else none := by
    rw [image, ImageCtl.adopting]
    split <;> rfl
  constructor
  · intro b; rw [hold, idle]; rfl
  · intro b
    rw [hold, op]
    split
    · exact h.image b
    · exact running (Bool.eq_false_iff.mpr ‹_›) b
  · rw [idle]; nofun
  · intro b _; rw [hold]; exact .inl rfl
  · intro b w
    rw [hold] at w
    have written := ((HoldRec.writeHeld_eq_true _).mp w).resolve_left nofun
    rw [active]
    exact fun same => unwritten b written (Option.some.inj same).symm
  · have none : t.pendingAct = none := (congrArg State.pendingAct banking :)
    intro q; rw [none, idle]; exact ⟨nofun, nofun⟩
  · rw [finished, active]; rfl
  · rw [finished]; nofun
  · intro _ o ho
    rw [op] at ho
    split at ho
    · exact h.running ‹_› o ho
    · cases ho

theorem State.finishStartUp_group (s : State) (g : Nat) : s.finishStartUp.group g = s.group g := by
  unfold State.finishStartUp
  dsimp only
  cases s.image.toReport <;> rfl

theorem Ev.adopt_group (p : PendingActivation) (e : Ev) (g : Nat) :
    (e.adopt p).st.group g = (e.adoptGroups p).st.group g := by
  have patterns : ∀ f : Ev, f.evalPatterns.st.groups = f.st.groups := fun f => by
    have rest := f.evalPatterns_rest
    generalize f.evalPatterns.st = u at rest ⊢
    exact (congrArg State.groups rest :)
  have watches : ∀ (cs : List RawChange) (ns : List Nat) (f : Ev),
      (ns.foldl (fun f n => f.evalWatchAtAdoption cs n) f).st.groups = f.st.groups := fun cs ns f => by
    have rest := Ev.foldl_evalWatchAtAdoption_rest cs ns f
    generalize (ns.foldl (fun f n => f.evalWatchAtAdoption cs n) f).st = u at rest ⊢
    exact (congrArg State.groups rest :)
  have groups : (e.adoptEvaluated p).st.groups = (e.adoptGroups p).st.groups := by
    rw [Ev.adoptEvaluated, patterns, watches]
  have evaluated : (e.adoptEvaluated p).st.group g = (e.adoptGroups p).st.group g := by simp only [State.group, groups]
  rw [← evaluated, Ev.adopt_eq, Ev.reportAdoption_st]
  split
  · rfl
  · exact State.finishStartUp_group _ g

/-- The store that the decisions find follows the bank active then (R19, R21, R90). -/
theorem State.FollowsBank.storeNext {s : State} (h : s.FollowsBank) (n : Nat) :
    ((s.storeNext n).state = .idle ↔ n ∉ s.bankNext.referenced)
      ∧ (n ∈ s.bankNext.referenced → (s.storeNext n).width = s.bankNext.sourceWidth n) := by
  unfold State.storeNext
  split
  · rename_i anew
    exact ⟨⟨nofun, fun unreferenced => absurd anew.1 unreferenced⟩, fun _ => rfl⟩
  · rename_i kept
    split
    · rename_i idle
      exact ⟨⟨fun _ => idle.1, fun _ => rfl⟩, fun referenced => absurd referenced idle.1⟩
    · rename_i stays
      have same : n ∈ s.bankNext.referenced ↔ n ∈ s.activeBank.referenced :=
        ⟨fun new => Decidable.byContradiction fun old => kept ⟨new, fun both => old both.1⟩,
          fun old => Decidable.byContradiction fun new => stays ⟨new, old⟩⟩
      have width : n ∈ s.bankNext.referenced → (s.store n).width = s.bankNext.sourceWidth n := fun new =>
        (h.width n (same.mp new)).trans (Decidable.byContradiction fun other => kept ⟨new, fun both => other both.2⟩)
      have idle : (s.store n).state = .idle ↔ n ∉ s.bankNext.referenced := (h.idle n).trans (not_congr same).symm
      split
      · exact ⟨idle, width⟩
      · exact ⟨idle, width⟩

/-- The group that an adoption leaves follows the bank adopted (R129, R130, R150). -/
theorem State.FollowsBank.groupNext {s : State} (h : s.FollowsBank) (sec : Word) (fr g : Nat) :
    (s.groupNext sec fr g).1.settings = s.bankNext.groupDef g
      ∧ ((s.groupNext sec fr g).1.settings = none → (s.groupNext sec fr g).1 = GroupRec.reset) := by
  unfold State.groupNext
  dsimp only
  split
  · rename_i old new
    have none : (s.group g).settings = none := (h.settings g).trans old
    exact ⟨none.trans new.symm, fun _ => h.reset g none⟩
  · rename_i new
    exact ⟨new.symm, fun _ => rfl⟩
  · rename_i d old new
    rw [GroupRec.evaluate_settings, new]
    exact ⟨rfl, nofun⟩
  · rename_i o d old new
    split <;> (rw [GroupRec.evaluate_settings, new]; exact ⟨rfl, nofun⟩)

theorem Ev.adopt_governed {e : Ev} {p : PendingActivation} (h : e.st.Governed) (pending : e.st.pendingAct = some p)
    (k : e.st.rate.pendingK = none) : (e.adopt p).st.Governed := by
  have banking := e.adopt_banking p
  have bank : ∀ b, (e.adopt p).st.bank b = e.st.bank b := fun b => (congrArg (fun u : State => u.bank b) banking :)
  have active : (e.adopt p).st.active = some p.bank := (congrArg State.active banking :)
  have none : (e.adopt p).st.pendingAct = none := (congrArg State.pendingAct banking :)
  have next : (e.adopt p).st.activeBank = e.st.bankNext := by
    rw [State.activeBank, active, State.bankNext_of_some pending]
    exact bank p.bank
  have store : ∀ n, (e.adopt p).st.store n = e.st.storeNext n := fun n =>
    ((e.adopt_sources p).store n).trans (State.adopted_storeNext pending k n)
  have group : ∀ g, (e.adopt p).st.group g = (e.st.groupNext e.st.time.seconds e.st.time.frame g).1 := fun g =>
    (e.adopt_group p g).trans ((Ev.adoptGroups_reconciled pending k).2.1 g)
  refine ⟨fun b => ?_, ⟨fun b => ?_, fun q => ?_⟩, ?_⟩
  · rw [bank]; exact h.ranged b
  · rw [active, bank]
    rintro ⟨⟩
    exact h.consistent.2 p pending
  · rw [none]; nofun
  · constructor
    · intro n; rw [store, next]; exact (h.follows.storeNext n).1
    · intro n; rw [store, next]; exact (h.follows.storeNext n).2
    · intro g; rw [group, next]; exact (h.follows.groupNext _ _ g).1
    · intro g; rw [group]; exact (h.follows.groupNext _ _ g).2

/-! ### The frame (R96 to R104) -/

/-- The record carries the payload bytes that its code and width state (R98). -/
def Content.Counts (c : Content) : Prop := c.payload.length = codeCount c.code c.width

theorem Content.counts_idle : Content.idle.Counts := rfl

theorem Content.counts_replaced (w : Width) (n : Nat) (tag : Option Byte) : (Content.replaced w n tag).Counts :=
  List.length_replicate

theorem codeCount_eq_takeCount (c : TakeCode) (w : Width) : codeCount c w = takeCount c w.toNat := by cases c <;> rfl

/-- What the resolution of a boundary rests on: a consistent bank within its index ranges, and takes of referenced sources
that carry what their codes state at the sources' widths (R32, R69, R98). -/
structure Resolving.Sound (r : Resolving) : Prop where
  check  : r.bank.check = none
  ranged : r.bank.Ranged
  takes  : ∀ n w t, n ∈ r.bank.referenced → r.bank.sourceWidth n = some w → r.take n = some t → t.priming = false →
      t.bytes.length = codeCount t.code w

namespace Resolving.Sound

variable {r : Resolving} (h : r.Sound)
include h

/-- An entry's reference keeps the rule of its kind, in the table and beyond it (R73 to R75). -/
theorem reference (i : Nat) : r.bank.referenceFault (r.bank.entry i) = none := by
  by_cases inRange : i < 1536
  · exact (Bank.checkEntry_eq_none.mp (Bank.check_eq_none_iff.mp h.check .map i inRange)).2
  · rw [h.ranged.map i (Nat.le_of_not_lt inRange)]; rfl

/-- The sources of a defined group have its width (R71). -/
theorem groupSources {g : Nat} {d : GroupDef} (hd : r.bank.groupDef g = some d) :
    r.bank.sourceWidth d.working = some d.width ∧ r.bank.sourceWidth d.protect = some d.width := by
  have inRange : g < 256 := Nat.lt_of_not_le fun beyond => nomatch (h.ranged.groups g beyond).symm.trans hd
  obtain ⟨-, ⟨pw, hpw, ww⟩, ⟨pp, hpp, wp⟩⟩ :=
    Bank.checkGroup_eq_none.mp (Bank.check_eq_none_iff.mp h.check .groups g inRange) d hd
  exact ⟨by simp [Bank.sourceWidth, hpw, ww], by simp [Bank.sourceWidth, hpp, wp]⟩

theorem sourceContent_counts {n : Nat} {w : Width} (referenced : n ∈ r.bank.referenced)
    (width : r.bank.sourceWidth n = some w) (tag : Option Byte) :
    (r.sourceContent w n tag).Counts ∧ (r.sourceContent w n tag).width = w := by
  have replaced := And.intro (Content.counts_replaced w n tag) (rfl : (Content.replaced w n tag).width = w)
  unfold Resolving.sourceContent
  split
  · exact replaced
  · split
    · rename_i t taken
      split
      · exact replaced
      · rename_i running
        exact ⟨h.takes n w t referenced width taken (Bool.eq_false_iff.mpr running), rfl⟩
    · exact replaced

/-- A SOURCE or GROUP head carries what its code states, at its own width (R99, R100). -/
theorem directContent_counts {i : Nat} {c : Content} (hc : r.directContent (r.bank.entry i) = some c) :
    c.Counts ∧ (r.bank.entry i).width? = some c.width := by
  have rule := h.reference i
  cases entry : r.bank.entry i with
  | idle => rw [entry] at hc; cases hc
  | follow w e t => rw [entry] at hc; cases hc
  | source w n t =>
    rw [entry] at hc rule
    cases hc
    obtain ⟨p, hp, width⟩ := Bank.referenceFault_eq_none.mp rule
    obtain ⟨counts, same⟩ := h.sourceContent_counts ((referencedMeansNamed r.bank n).mpr (.inl ⟨i, w, t, entry⟩))
      (w := w) (by simp [Bank.sourceWidth, hp, width]) t
    exact ⟨counts, congrArg some same.symm⟩
  | group w g t =>
    rw [entry] at hc rule
    obtain ⟨d, hd, rfl⟩ := Bank.referenceFault_eq_none.mp rule
    obtain ⟨n, resolved, rfl⟩ := Option.map_eq_some_iff.mp hc
    obtain ⟨working, protect⟩ := h.groupSources hd
    have named := fun n hn => (referencedMeansNamed r.bank n).mpr (.inr ⟨g, d, hd, hn⟩)
    have counted : (r.sourceContent d.width n t).Counts ∧ (r.sourceContent d.width n t).width = d.width := by
      rw [Resolving.groupSource, hd, Option.map_some, Option.some.injEq] at resolved
      cases selection : r.selection g with
      | working =>
        rw [selection] at resolved
        exact resolved ▸ h.sourceContent_counts (named _ (.inl rfl)) working t
      | protect =>
        rw [selection] at resolved
        exact resolved ▸ h.sourceContent_counts (named _ (.inr rfl)) protect t
    exact ⟨counted.1, congrArg some counted.2.symm⟩

/-- A FOLLOW carries the record of a head of its own width (R75, R101). -/
theorem headContent_counts {i : Nat} {c : Content} (hc : r.headContent i = some c) : c.Counts := by
  unfold Resolving.headContent at hc
  split at hc
  · rename_i w e t entry
    obtain ⟨d, hd, rfl⟩ := Option.map_eq_some_iff.mp hc
    obtain ⟨counts, width⟩ := h.directContent_counts hd
    have rule := h.reference i
    rw [entry] at rule
    obtain ⟨n, t', followed⟩ := Bank.referenceFault_eq_none.mp rule
    have same : d.width = w := by
      rcases followed with followed | followed <;> rw [followed] at width <;> exact (Option.some.inj width).symm
    cases same
    exact counts
  · exact (h.directContent_counts hc).1

theorem contents_counts (i : Nat) : (r.contents.get Content.idle i).Counts := by
  have empty : ∀ m, ((Table.empty : Table Content).get Content.idle m).Counts := fun _ => Content.counts_idle
  revert i
  refine List.foldlRecOn (motive := fun t : Table Content => ∀ m, (t.get Content.idle m).Counts) _ _ empty
    fun t ht n _ => ?_
  split
  · rename_i c hc
    intro m
    rw [Table.get_set]
    split
    · exact h.headContent_counts hc
    · exact ht m
  · exact ht

end Resolving.Sound

/-- The takes of the stores that follow a consistent bank carry what their codes state (R25, R32). -/
theorem State.Governed.resolving {s : State} (h : s.Governed) {b : BankNo} (active : s.active = some b) (d : State)
    (selection : Nat → Selection) : Resolving.Sound ⟨s.bank b, d, s.takeOf, selection⟩ := by
  have bank : s.activeBank = s.bank b := by rw [State.activeBank, active]
  refine ⟨h.consistent.1 b active, h.ranged b, fun n w t referenced width taken running => ?_⟩
  rw [← bank] at referenced width
  have kept : (s.store n).w = w.toNat := by rw [Store.w, h.follows.width n referenced, width]
  rw [codeCount_eq_takeCount, ← kept]
  exact Store.decide_take taken running

theorem State.Governed.decideAndAssemble_counts {s : State} (h : s.Governed) (selection : Nat → Selection) :
    (s.decideAndAssemble selection).FrameCounts := by
  intro f hf i
  cases hf
  dsimp only
  split
  · rename_i b active
    exact (h.resolving active _ _).contents_counts i
  · exact Content.counts_idle

/-! ### Boundaries -/

/-- The frame sent after a boundary is the one assembled from what the adoption leaves (R96). -/
theorem State.boundary_frameCounts {s : State} {c : BoundaryCause} {t : Timebase} (h : s.time.boundaryAt c = some t)
    (governed : ((Ev.start (s.atCause t)).beforeDecisions (s.time.timingAt c)).st.Governed) :
    (s.boundary c).FrameCounts := by
  have assembled := governed.decideAndAssemble_counts ((Ev.start (s.atCause t)).st.selectionBefore s.pendingAct)
  have same : (s.boundary c).egress = (((Ev.start (s.atCause t)).beforeDecisions (s.time.timingAt c)).st.decideAndAssemble
      ((Ev.start (s.atCause t)).st.selectionBefore s.pendingAct)).egress := by
    rw [State.boundary_eq h, Ev.boundary_eq, Ev.offer_egress]
    exact (congrArg State.egress (Ev.closeBoundary_rest (s.atCause t) _).1 :)
  intro f hf
  exact assembled f (same ▸ hf)

theorem State.exponentApplied_pendingK (s : State) (t : Timebase) : (s.exponentApplied t).rate.pendingK = none :=
  State.applyExponent_pendingK _

/-- The banks after a boundary that ends a pending period: the pending one is active (R89, R183). -/
theorem State.boundary_adopts {s : State} {c : BoundaryCause} {t : Timebase} {p : PendingActivation}
    (h : s.time.boundaryAt c = some t) (pending : s.pendingAct = some p) :
    (s.boundary c).banking = { (s.makeActive p.bank).banking with image := s.image.adopting } := by
  obtain ⟨e, st, parts⟩ := Ev.beforeDecisions_cases (s.time.timingAt c) s t
  have begun : e.st.banking = s.banking := by rw [st]; exact (s.exponentApplied_evolves t).banking
  have told : { (e.st.makeActive p.bank).banking with image := e.st.image.adopting }
      = { (s.makeActive p.bank).banking with image := s.image.adopting } :=
    (congrArg (fun u : State => { (u.makeActive p.bank).banking with image := u.image.adopting }) begun :)
  rw [(State.boundary_evolves_decided h).banking, parts, pending]
  exact (e.adopt_banking p).trans told

theorem State.HoldsOk.boundary {s : State} (h : s.HoldsOk) (c : BoundaryCause) : (s.boundary c).HoldsOk := by
  cases at' : s.time.boundaryAt c with
  | none => rw [State.boundary_none at']; exact h
  | some t =>
    cases pending : s.pendingAct with
    | none => exact h.of_banking (State.boundary_evolves pending c).banking
    | some p => exact h.adopts pending (State.boundary_adopts at' pending)

theorem State.boundary_banks (s : State) (c : BoundaryCause) : (s.boundary c).banks = s.banks := by
  cases at' : s.time.boundaryAt c with
  | none => rw [State.boundary_none at']
  | some t =>
    cases pending : s.pendingAct with
    | none => exact (congrArg State.banks (State.boundary_evolves pending c).banking :)
    | some p => exact (congrArg State.banks (State.boundary_adopts at' pending) :)

theorem Ev.beforeDecisions_governed {s : State} (h : s.Governed) (timing : Option Bool) (t : Timebase) :
    ((Ev.start (s.atCause t)).beforeDecisions timing).st.Governed := by
  cases pending : s.pendingAct with
  | none => exact h.evolves (Ev.beforeDecisions_evolves pending timing t)
  | some p =>
    obtain ⟨e, st, parts⟩ := Ev.beforeDecisions_cases timing s t
    have begun := s.exponentApplied_evolves t
    rw [parts, pending]
    refine Ev.adopt_governed (st ▸ h.evolves begun) ?_ (st ▸ s.exponentApplied_pendingK t)
    rw [st]
    exact (congrArg State.pendingAct begun.banking :).trans pending

/-- The active bank governs stores, groups and frame. -/
structure State.Sound (s : State) : Prop where
  governed : s.Governed
  frame    : s.FrameCounts

theorem State.Sound.boundary {s : State} (h : s.Sound) (c : BoundaryCause) : (s.boundary c).Sound := by
  cases at' : s.time.boundaryAt c with
  | none => rw [State.boundary_none at']; exact h
  | some t =>
    have decided := Ev.beforeDecisions_governed h.governed (s.time.timingAt c) t
    exact ⟨decided.evolves (State.boundary_evolves_decided at'), State.boundary_frameCounts at' decided⟩

theorem State.FrameCounts.of_egress {s t : State} (h : s.FrameCounts) (egress : t.egress = s.egress) : t.FrameCounts :=
  fun f hf => h f (egress ▸ hf)

theorem State.Sound.steady {s t : State} (h : s.Sound) (st : s.Steady t) : t.Sound :=
  ⟨h.governed.of_places st.banking st.stores st.groups, h.frame.of_egress st.egress⟩

theorem State.Sound.serves {s t : State} (h : s.Sound) (k : s.Serves t) : t.Sound := by
  have bank : t.activeBank = s.activeBank := by
    unfold State.activeBank
    rw [k.active]
    cases active : s.active with
    | none => rfl
    | some b => exact k.bank b active
  refine ⟨⟨k.ranged h.governed.ranged, ⟨fun b hb => ?_, k.pending h.governed.consistent.2⟩,
    h.governed.follows.of_places bank k.stores k.groups⟩, h.frame.of_egress k.egress⟩
  rw [k.active] at hb
  rw [k.bank b hb]
  exact h.governed.consistent.1 b hb

/-! ### The events of the Core Timebase (R16) -/

/-- What every event of the Core Timebase keeps. -/
structure State.Passes (s t : State) : Prop where
  holds : s.HoldsOk → t.HoldsOk
  sound : s.Sound → t.Sound
  banks : t.banks = s.banks

namespace State.Passes

theorem refl (s : State) : s.Passes s := ⟨id, id, rfl⟩

theorem trans {s t u : State} (h : s.Passes t) (k : t.Passes u) : s.Passes u :=
  ⟨k.holds ∘ h.holds, k.sound ∘ h.sound, k.banks.trans h.banks⟩

theorem boundary (s : State) (c : BoundaryCause) : s.Passes (s.boundary c) :=
  ⟨fun h => h.boundary c, fun h => h.boundary c, s.boundary_banks c⟩

theorem of_steady {s t : State} (st : s.Steady t) : s.Passes t :=
  ⟨fun h => h.of_banking st.banking, fun h => h.steady st, (congrArg State.banks st.banking :)⟩

/-- A row that is a boundary where something is due, and no event elsewhere (log entry 3). -/
theorem dueBoundary {due : Bool} {c : BoundaryCause} {s t : State}
    (ht : (if due then (.next (s.boundary c) : Answer) else .next s) = .next t) : s.Passes t := by
  split at ht <;> cases ht
  · exact boundary s c
  · exact refl s

theorem markTowardRegain (s : State) (m : Nat) : s.Passes (s.markTowardRegain m) := by
  unfold State.markTowardRegain
  split
  · split
    · exact boundary s _
    · have regained : s.Steady { s with time := s.time.regained } := .of_same rfl rfl rfl fun _ => rfl
      have offered := Ev.offer_steady ((Ev.start { s with time := s.time.regained }).raise .timebase (.timing true))
      rw [Ev.raise_st] at offered
      exact of_steady (regained.trans offered)
  · exact of_steady (.of_same rfl rfl rfl fun _ => rfl)

end State.Passes

theorem frameMark_passes {m : Nat} {s t : State} (ht : exec (.frameMark m) s = .next t) : s.Passes t := by
  change execFrameMark m s = _ at ht
  unfold execFrameMark at ht
  (repeat' split at ht) <;> cases ht
  · exact .refl s
  · exact .boundary s _
  · exact (State.Passes.boundary s _).trans (.markTowardRegain _ m)
  · exact .markTowardRegain s m

theorem regainGap_passes {s t : State} (ht : exec .regainGap s = .next t) : s.Passes t := by
  change execRegainGap s = _ at ht
  unfold execRegainGap at ht
  split at ht <;> cases ht
  · exact .refl s
  · exact .of_steady (.of_same rfl rfl rfl fun _ => rfl)

/-! ### The reset line (R182) -/

theorem State.reset_holdsOk : State.reset.HoldsOk where
  mapEngine := by decide
  image := by decide
  distinct := nofun
  alone := by decide
  notActive := nofun
  pending _ := ⟨nofun, nofun⟩
  started := rfl
  startLoad _ := ⟨_, rfl, rfl, fun _ => rfl⟩
  running := nofun

theorem State.reset_sound : State.reset.Sound where
  governed :=
    { ranged := fun _ => Bank.ranged_of_empty 0
      consistent := ⟨nofun, nofun⟩
      follows := ⟨fun _ => ⟨fun _ => List.not_mem_nil, fun _ => rfl⟩, nofun, fun _ => rfl, fun _ _ => rfl⟩ }
  frame := nofun

theorem resetLine_steady {a b : Bool} {s t : State} (ht : exec (.resetLine a b) s = .next t) :
    State.reset.Steady t := by
  change execResetLine a b s = _ at ht
  unfold execResetLine at ht
  dsimp only at ht
  split at ht <;> cases ht
  · exact .of_same rfl rfl rfl fun _ => rfl
  · exact .of_same rfl rfl rfl fun _ => rfl

/-! ### Every step -/

/-- Every command is the reset line, an event of the Core Timebase, or keeps what `State.Serves` says. -/
theorem exec_keeps_holds (i : Instr) {s t : State} (h : s.HoldsOk) (ht : exec i s = .next t) :
    (∃ a b, i = .resetLine a b ∧ State.reset.Steady t) ∨ s.Passes t ∨ s.Serves t := by
  have steady : s.Steady t → (∃ a b, i = .resetLine a b ∧ State.reset.Steady t) ∨ s.Passes t ∨ s.Serves t :=
    fun st => .inr (.inr (.of_steady h st))
  cases i with
  | resetLine a b => exact .inl ⟨a, b, rfl, resetLine_steady ht⟩
  | signalAbsent l => exact steady (signalAbsent_steady ht)
  | signalPresent l => exact steady (signalPresent_steady ht)
  | alignmentFind l p w => exact steady (alignmentFind_steady ht)
  | confirmWord l w => exact steady (confirmWord_steady ht)
  | lockedWord l w => exact steady (lockedWord_steady ht)
  | ingressArrival l r => exact steady (ingressArrival_steady ht)
  | frameMark m => exact .inr (.inl (frameMark_passes ht))
  | referenceLost => cases ht; exact .inr (.inl (.boundary s _))
  | oscillatorBoundary => cases ht; exact .inr (.inl (.boundary s _))
  | regainGap => exact .inr (.inl (regainGap_passes ht))
  | secondRollover c => exact .inr (.inl (.dueBoundary ht))
  | windowEnd c => exact .inr (.inl (.dueBoundary ht))
  | holdOffExpiry g x c => exact .inr (.inl (.dueBoundary ht))
  | restoreWaitExpiry g c => exact .inr (.inl (.dueBoundary ht))
  | alertDelayExpiry x c => exact .inr (.inl (.dueBoundary ht))
  | adoption c => exact .inr (.inl (.dueBoundary ht))
  | clearCompletion => exact .inr (.inr (clearCompletion_serves h ht))
  | copyCompletion => exact .inr (.inr (copyCompletion_serves h ht))
  | verifyCompletion => exact .inr (.inr (verifyCompletion_serves h ht))
  | activationCheckEnd => exact .inr (.inr (activationCheckEnd_serves h ht))
  | pageReadCompletion r => exact .inr (.inr (pageReadCompletion_serves h ht))
  | pageWriteCompletion => exact .inr (.inr (pageWriteCompletion_serves h ht))
  | frameArrival x p => cases ht; exact steady (.setLink s x _)
  | readTransfer x p => cases ht; exact steady (.setLink s x _)
  | skippedTransfer x p => exact steady (skippedTransfer_steady ht)
  | readStatus x => exact .inr (.inr ((judgeReadStatus_link x).steady.take h ht))
  | setParameters x => exact .inr (.inr (judgeSetParameters_steady.take h ht))
  | linkReset x => exact .inr (.inr ((judgeLinkReset_link x).steady.take h ht))
  | subscribe x => exact .inr (.inr ((judgeSubscribe_link x).steady.take h ht))
  | setAlert x => exact .inr (.inr ((judgeSetAlert_link x).steady.take h ht))
  | readNotices x => exact .inr (.inr ((judgeReadNotices_link x).steady.take h ht))
  | setTime x => exact .inr (.inr (judgeSetTime_steady.take h ht))
  | readTime x => exact .inr (.inr (judgeReadTime_steady.take h ht))
  | readLines x => exact .inr (.inr (judgeReadLines_steady.take h ht))
  | writeEntry x => exact .inr (.inr (judgeWriteEntry_serves.take h ht))
  | writeProfile x => exact .inr (.inr (judgeWriteProfile_serves.take h ht))
  | writeGroup x => exact .inr (.inr (judgeWriteGroup_serves.take h ht))
  | readEntries x => exact .inr (.inr (judgeReadEntries_steady.take h ht))
  | readProfiles x => exact .inr (.inr (judgeReadProfiles_steady.take h ht))
  | readGroups x => exact .inr (.inr (judgeReadGroups_steady.take h ht))
  | clearBank x => exact .inr (.inr (judgeClearBank_serves.take h ht))
  | copyBank x => exact .inr (.inr (judgeCopyBank_serves.take h ht))
  | verifyBank x => exact .inr (.inr (judgeVerifyBank_serves.take h ht))
  | activateBank x => exact .inr (.inr (judgeActivateBank_serves.take h ht))
  | pushRequest x => exact .inr (.inr ((judgePushRequest_steady x).take h ht))
  | withdrawRequest x => exact .inr (.inr (judgeWithdrawRequest_steady.take h ht))
  | withdrawAll x => exact .inr (.inr (judgeWithdrawAll_steady.take h ht))
  | readGroupState x => exact .inr (.inr (judgeReadGroupState_steady.take h ht))
  | readStamp x => exact .inr (.inr (judgeReadStamp_steady.take h ht))
  | setStampLock x => exact .inr (.inr (judgeSetStampLock_steady.take h ht))
  | readSource x => exact .inr (.inr (judgeReadSource_steady.take h ht))
  | setWatch x => exact .inr (.inr (judgeSetWatch_steady.take h ht))
  | readLatches x => exact .inr (.inr (judgeReadLatches_steady.take h ht))
  | ackLatch x => exact .inr (.inr (judgeAckLatch_steady.take h ht))
  | setPattern x => exact .inr (.inr (judgeSetPattern_steady.take h ht))
  | ackPattern x => exact .inr (.inr (judgeAckPattern_steady.take h ht))
  | saveImage x => exact .inr (.inr (judgeSaveImage_serves.take h ht))
  | loadImage x => exact .inr (.inr (judgeLoadImage_serves.take h ht))
  | verifyImage x => exact .inr (.inr (judgeVerifyImage_serves.take h ht))

/-- Settles O56: the reset line begins with the law (`State.reset_holdsOk`), a boundary keeps it (`State.HoldsOk.boundary`),
and so does every operation of an engine (`State.HoldsOk.setMapOp`, `State.HoldsOk.setImageOp`). -/
theorem everyStepKeepsTheHoldLaw : Obligations.EveryStepKeepsTheHoldLaw := by
  intro s t h ht
  rcases step_cases ht with ⟨-, heq⟩ | ⟨i, rest, -, heq⟩
  · cases heq; exact h
  · have taken : State.HoldsOk { s with pending := rest } := h.of_same rfl rfl rfl rfl rfl rfl
    rcases exec_keeps_holds i taken heq.symm with ⟨a, b, -, reset⟩ | passes | serves
    · exact State.reset_holdsOk.of_banking reset.banking
    · exact passes.holds taken
    · exact serves.holds

/-- Settles O57: the same three ways, `State.Sound` in place of the law of the holds. -/
theorem everyStepKeepsTheActiveBankSound : Obligations.EveryStepKeepsTheActiveBankSound := by
  intro s t h ranged consistent follows frame ht
  have parts : t.Sound → t.BanksRanged ∧ t.Consistent ∧ t.FollowsBank ∧ t.FrameCounts := fun k =>
    ⟨k.governed.ranged, k.governed.consistent, k.governed.follows, k.frame⟩
  have sound : s.Sound := ⟨⟨ranged, consistent, follows⟩, frame⟩
  suffices t.Sound
      ∧ ((∀ a b rest, s.pending ≠ .resetLine a b :: rest) → ∀ k, s.active = some k → t.bank k = s.bank k) by
    obtain ⟨ranged, consistent, follows, frame⟩ := parts this.1
    exact ⟨ranged, consistent, follows, frame, this.2⟩
  rcases step_cases ht with ⟨-, heq⟩ | ⟨i, rest, front, heq⟩
  · cases heq; exact ⟨sound, fun _ _ _ => rfl⟩
  · have dequeued : s.Steady { s with pending := rest } := .of_same rfl rfl rfl fun _ => rfl
    have taken := sound.steady dequeued
    rcases exec_keeps_holds i (h.of_banking dequeued.banking) heq.symm with ⟨a, b, rfl, reset⟩ | passes | serves
    · exact ⟨State.reset_sound.steady reset, fun other => absurd front (other a b rest)⟩
    · refine ⟨passes.sound taken, fun _ k _ => ?_⟩
      have banks : t.banks = s.banks := passes.banks
      simp only [State.bank, banks]
    · exact ⟨taken.serves serves, fun _ k active => serves.bank k active⟩

end Sys2Proof.Machine
end

section
/-! SUPPORT. ADOPTION, whole: the slots it hands on, and the watches, pattern sets and notices it settles, with or without a
window end or a pending exponent at the same boundary (R11, R12, R89 to R92, R119, R120, R125, R168, R182, R183). -/

namespace Sys2Proof.Machine

/-! ### The ingress slots (R11, R12) -/

/-- A head that starts afresh is one of the adoption's heads (R12). -/
theorem mem_adoptionHeads {old new : Bank} {n : Nat} (h : headAfresh old new n = true) : n ∈ adoptionHeads old new := by
  by_contra outside
  have sources : n ∉ adoptionSources old new := fun k => outside (by simp [adoptionHeads, mem_sortedUnique, k])
  have undefined : new.profile n = none := by
    by_contra defined
    exact outside (by simp [adoptionHeads, mem_sortedUnique, Table.mem_keys_of_get_ne none new.profiles n defined])
  simp [headAfresh, storeOrder_of_not_mem sources, StoreOrder.changes, undefined] at h

theorem mem_afreshCoverage {old new : Bank} {n m : Nat} : m ∈ afreshCoverage old new n ↔
    ∃ w, (old.sourceWidth n = some w ∨ new.sourceWidth n = some w) ∧ n ≤ m ∧ m < n + w.toNat := by
  unfold afreshCoverage
  cases old.sourceWidth n <;> cases new.sourceWidth n <;> simp [mem_coveredSlots, or_and_right, exists_or]

theorem Slot.adopt_parity (old new : Bank) (n : Nat) (sl : Slot) : (sl.adopt old new n).parity = sl.parity := by
  unfold Slot.adopt Slot.newExpectation
  (repeat' split) <;> rfl

/-- The slots whose parity history an adoption clears (R12). -/
def clearedSlots (old new : Bank) : List Nat :=
  ((adoptionHeads old new).filter (headAfresh old new)).flatMap (afreshCoverage old new)

theorem State.adoptSlots_parity (old new : Bank) (s : State) (n : Nat) : ((s.adoptSlots old new).slot n).parity
    = if n ∈ clearedSlots old new then SlotParity.reset else (s.slot n).parity := by
  have marked : ((s.slots.update Slot.reset (adoptionHeads old new) (fun n sl => sl.adopt old new n)).get Slot.reset
      n).parity = (s.slot n).parity := by
    rw [Table.get_update]
    split
    · exact Slot.adopt_parity ..
    · rfl
  rw [State.slot, State.adoptSlots, Table.get_update, ← marked]
  unfold clearedSlots
  split <;> rfl

theorem State.headAfresh_iff (s : State) (n : Nat) : headAfresh s.activeBank s.bankNext n = true ↔ s.startsAfresh n := by
  unfold headAfresh State.startsAfresh
  rw [Bool.or_eq_true, State.storeOrder_changes, or_assoc, Bool.and_eq_true, Option.isSome_iff_ne_none, bne_iff_ne]

theorem State.mem_clearedSlots (s : State) (n : Nat) : n ∈ clearedSlots s.activeBank s.bankNext ↔ s.parityCleared n := by
  unfold clearedSlots State.parityCleared
  simp only [List.mem_flatMap, List.mem_filter, mem_afreshCoverage, State.headAfresh_iff]
  constructor
  · rintro ⟨h, ⟨-, afresh⟩, w, width, covers⟩
    exact ⟨h, w, afresh, width, covers⟩
  · rintro ⟨h, w, afresh, width, covers⟩
    exact ⟨h, ⟨mem_adoptionHeads ((s.headAfresh_iff h).mpr afresh), afresh⟩, w, width, covers⟩

section Adoption

variable {s : State} {p : PendingActivation} (pending : s.pendingAct = some p)
include pending

/-- The slots that an adoption leaves are those that the boundary hands on (R11, R12). -/
theorem State.adopted_slot (n : Nat) :
    (s.parityCleared n → (s.adopted p).slot n = { s.slotNext n with parity := SlotParity.reset })
      ∧ (¬s.parityCleared n → (s.adopted p).slot n = s.slotNext n) := by
  have slots : (s.adopted p).slots = (s.adoptSlots s.activeBank s.bankNext).slots := by
    rw [State.bankNext_of_some pending, State.adopted_eq]
    exact (congrArg State.slots (State.storeRaw_rest _ _) :)
  have slot : (s.adopted p).slot n = (s.adoptSlots s.activeBank s.bankNext).slot n := by simp only [State.slot, slots]
  have state := State.adoptSlots_slot s.activeBank s.bankNext s n
  have parity := State.adoptSlots_parity s.activeBank s.bankNext s n
  rw [slot, State.slotNext_of_some pending, ← state, ← State.mem_clearedSlots]
  refine ⟨fun cleared => ?_, fun kept => ?_⟩
  · rw [if_pos cleared] at parity
    rw [← parity]
  · rw [if_neg kept] at parity
    rw [← parity]

end Adoption

/-! ### A pending exponent before the adoption (R49) -/

/-- A notice is raised alike before and after a change of other fields. -/
theorem Ev.raise_modify (e : Ev) (b : Block) (n : NoticeBody) {f : State → State} (image : (f e.st).image = e.st.image)
    (time : (f e.st).time = e.st.time) : (e.raise b n).modify f = (e.modify f).raise b n := by
  unfold Ev.raise Ev.modify
  dsimp only
  rw [image, time]
  split <;> rfl

theorem State.applyExponent_image (s : State) : s.applyExponent.image = s.image :=
  (congrArg State.image s.applyExponent_rest :)

theorem State.applyExponent_beginBoundary (s : State) : s.beginBoundary.applyExponent = s.applyExponent.beginBoundary := by
  unfold State.applyExponent
  cases k : s.rate.pendingK with
  | none => simp only [State.beginBoundary, k]
  | some j => simp only [State.beginBoundary, k]; rfl

theorem Ev.beginTiming_applyExponent (timing : Option Bool) (s : State) :
    ((Ev.start s).beginTiming timing).modify State.applyExponent = (Ev.start s.applyExponent).beginTiming timing := by
  have begun : ((Ev.start s).modify State.beginBoundary).modify State.applyExponent
      = (Ev.start s.applyExponent).modify State.beginBoundary := congrArg Ev.start s.applyExponent_beginBoundary
  cases timing with
  | none => exact begun
  | some regained =>
    have time : ∀ u : State, u.applyExponent.time = u.time := fun u => (congrArg State.time u.applyExponent_rest :)
    refine (Ev.raise_modify _ _ _ (State.applyExponent_image _) (time _)).trans ?_
    rw [begun]
    rfl

/-- Where windows restart and a bank is adopted, the adoption finds the windows restarted. -/
theorem Ev.beforeDecisions_applied {s : State} {p : PendingActivation} (pending : s.pendingAct = some p)
    (timing : Option Bool) :
    (Ev.start s).beforeDecisions timing = (Ev.start s.applyExponent).beforeDecisions timing := by
  have pending' : s.applyExponent.pendingAct = some p := s.applyExponent_pendingAct.trans pending
  rw [Ev.beforeDecisions_eq s.applyExponent_pendingK, Ev.beforeDecisions, Ev.beginTiming_applyExponent, Ev.adoptOrCount,
    Ev.adoptOrCount, Ev.start_st, pending, pending']

/-- What an adoption settles is alike before and after a restart of windows. -/
theorem State.settledAdoption_applyExponent (s u : State) : s.applyExponent.settledAdoption u = s.settledAdoption u := by
  have rest := s.applyExponent_rest
  have raw : ∀ n, (s.applyExponent.defect n).raw = (s.defect n).raw := fun n => by
    rw [State.applyExponent_defect]; split <;> rfl
  have group : s.applyExponent.group = s.group := (congrArg State.group rest :)
  have watch : s.applyExponent.watch = s.watch := (congrArg State.watch rest :)
  have watches : s.applyExponent.watches = s.watches := (congrArg State.watches rest :)
  have pattern : s.applyExponent.pattern = s.pattern := (congrArg State.pattern rest :)
  have next : ∀ sec fr g, s.applyExponent.groupNext sec fr g = s.groupNext sec fr g := fun sec fr g => by
    simp only [State.groupNext, group, raw, State.applyExponent_defectNext, State.applyExponent_activeBank,
      State.applyExponent_bankNext]
  simp only [State.settledAdoption, State.settled, raw, group, watch, watches, pattern, next,
    State.applyExponent_defectNext, State.applyExponent_activeBank, State.applyExponent_bankNext]

/-! ### What the boundary settles -/

theorem State.settledAt_of_some {s : State} {p : PendingActivation} (pending : s.pendingAct = some p) (t : State)
    (first : Nat → Bool) : s.settledAt t first = Settled.windowEnd s t (if s.image.finished then s.settledAdoption t
      else { s.settledAdoption t with monitor := [], protection := [] }) :=
  if_neg (by rw [pending]; exact Option.some_ne_none p)

/-- What an adoption settles reads of the state it ends in the site time, entries, stores and raw conditions. -/
theorem State.settledAt_congr_of_some {s t t' : State} {p : PendingActivation} (pending : s.pendingAct = some p)
    (entries : t.SameEntries t') (stores : t'.stores = t.stores) (defects : t'.defects = t.defects)
    (first first' : Nat → Bool) : s.settledAt t' first = s.settledAt t first' := by
  rw [State.settledAt_of_some pending, State.settledAt_of_some pending, State.settledAdoption_congr entries]
  by_cases ends : s.endsWindow
  · rw [Settled.windowEnd_eq ends, Settled.windowEnd_eq ends]
    exact Settled.endWindows_congr entries stores defects _
  · rw [Settled.windowEnd_of_not ends, Settled.windowEnd_of_not ends]

theorem State.windowEndsNext_iff (s : State) : s.windowEndsNext = true ↔ s.endsWindow := by
  simp [State.windowEndsNext]

/-- The window end of a boundary that is none. -/
theorem Ev.TracksIn.decideAndCount {u s0 : State} {e : Ev} {v : Settled} (h : e.own.TracksIn u v)
    (wf : e.st.stores.wf Store.reset = true) (runs : ¬s0.endsWindow) (selection : Nat → Selection) :
    ((e.modify (·.decideAndAssemble selection)).closeBoundary s0).own.TracksIn u v := by
  have two : ((e.modify (·.decideAndAssemble selection)).closeBoundary s0).own
      = (e.own.modify (·.decideAndAssemble selection)).closeBoundary s0 := (Ev.closeBoundary_ofTwoBlocks s0 _).1
  rw [two, Ev.closeBoundary, if_neg (mt s0.windowEndsNext_iff.mp runs)]
  exact (h.decide wf selection).modify (fun _ => rfl) rfl rfl rfl rfl rfl rfl rfl

/-- The decisions and the end of a boundary leave links, time and image store. -/
theorem Ev.boundary_closes (s : State) (timing : Option Bool) :
    Ev.Raises [] ((Ev.start s).beforeDecisions timing) ((Ev.start s).boundary timing) := by
  rw [Ev.boundary_eq]
  exact (Ev.decideAndAssemble_raises _ _).trans (Ev.closeBoundary_raises _ _)

section Adopting

variable {s : State} {p : PendingActivation} (pending : s.pendingAct = some p) (timing : Option Bool)
include pending

/-- A boundary that adopts a bank, up to the offering of its notices (R119, R120, R125, R150). -/
theorem Ev.adoption_tracks (canonical : s.Canonical) :
    ((Ev.start s).boundary timing).own.Tracks (s.settledAt ((Ev.start s).boundary timing).st s.timersFirst) := by
  by_cases ends : s.endsWindow
  · exact Ev.boundary_tracks ends canonical.stores canonical.groups canonical.watches timing
  · have rest := s.applyExponent_rest
    have groups : s.applyExponent.groups = s.groups := (congrArg State.groups rest :)
    have watches : s.applyExponent.watches = s.watches := (congrArg State.watches rest :)
    have adopted := Ev.beforeDecisions_adopted s.applyExponent_pendingK (s.applyExponent_pendingAct.trans pending)
      (by rw [groups]; exact canonical.groups) (by rw [watches]; exact canonical.watches) timing
    dsimp only at adopted
    rw [← Ev.beforeDecisions_applied pending, State.applyExponent_image, State.settledAdoption_applyExponent] at adopted
    have closed := adopted.decideAndCount (s0 := s) (Ev.beforeDecisions_stores_wf timing canonical.stores) ends
      (s.selectionBefore s.pendingAct)
    have whole := Ev.boundary_eq timing (Ev.start s)
    rw [Ev.start_st] at whole
    rw [← whole] at closed
    have entries : ((Ev.start s).beforeDecisions timing).st.SameEntries ((Ev.start s).boundary timing).st :=
      closed.entries
    rw [State.settledAt_of_some pending, Settled.windowEnd_of_not ends, State.settledAdoption_congr entries]
    exact closed.tracks

/-- The Core Timebase and the Switch raise notices of kinds 4 and up at an adoption, and none before start-up has
finished. -/
theorem Ev.adoption_foreign :
    ∀ q ∈ ((Ev.start s).boundary timing).foreign, s.image.finished = true ∧ 4 ≤ q.2.body.kindCode := by
  have foreign : ∀ u : State, ((Ev.start u).boundary timing).foreign = ((Ev.start u).beforeDecisions timing).foreign :=
    fun u => by rw [Ev.boundary_eq, (Ev.closeBoundary_ofTwoBlocks _ _).2, (Ev.OfTwoBlocks.modify _ _).2]
  have applied := Ev.boundary_foreign s.applyExponent_pendingK timing
  rw [State.applyExponent_image, foreign, ← Ev.beforeDecisions_applied pending, ← foreign] at applied
  exact applied

/-- Where start-up was not finished, an adoption's event leaves the links waited, with START where it finishes. -/
theorem Ev.adoption_link_of_unfinished (unfinished : s.image.finished = false) {t : State}
    (time : t.time = ((Ev.start s).boundary timing).st.time) (image : t.image = ((Ev.start s).boundary timing).st.image)
    (x : Link) : ((Ev.start s).boundary timing).st.link x = (s.beforeNotices t).link x := by
  have closes := Ev.boundary_closes s timing
  have closes' := Ev.boundary_closes s.applyExponent timing
  rw [← Ev.beforeDecisions_applied pending] at closes'
  have unfinished' : s.applyExponent.image.finished = false := by rw [State.applyExponent_image]; exact unfinished
  have applied := Ev.boundary_link_of_unfinished s.applyExponent_pendingK unfinished' timing (t := t)
    (time.trans (closes.time.trans closes'.time.symm)) (image.trans (closes.image.trans closes'.image.symm)) x
  have link : s.applyExponent.link x = s.link x := (congrArg (fun u : State => u.link x) s.applyExponent_rest :)
  rw [State.beforeNotices_link_of_unfinished unfinished', State.applyExponent_image, link,
    ← State.beforeNotices_link_of_unfinished unfinished] at applied
  exact (closes.link x).trans ((closes'.link x).symm.trans applied)

/-- The notices of an adoption's event (R92, R168, R182, R183). -/
theorem Ev.adoption_offered {v : Settled} (own : ((Ev.start s).boundary timing).own.HasRaised v.monitor v.protection) :
    (s.beforeNotices ((Ev.start s).boundary timing).offer).Offered ((Ev.start s).boundary timing).offer v
      (if s.image.finished = true then timingNotices timing ++ s.adoptionNotices else []) := by
  have foreign := Ev.adoption_foreign pending timing
  obtain ⟨time, image⟩ := s.beforeNotices_rest ((Ev.start s).boundary timing).offer
  rw [Ev.offer_time] at time
  rw [Ev.offer_image] at image
  cases finished : s.image.finished with
  | true =>
    have raised := Ev.boundary_raises (timing := timing) finished
    have links : ∀ x, ((Ev.start s).boundary timing).st.link x
        = (s.beforeNotices ((Ev.start s).boundary timing).offer).link x := fun x => by
      rw [raised.link, State.beforeNotices_of_finished finished]
      exact (s.beginBoundary_link x).trans (by cases x <;> rfl)
    exact Ev.offered own (fun q hq => (foreign q hq).2) (raised.stamped fun _ h => nomatch h) raised.high
      (raised.image ▸ finished) links time.symm image.symm
  | false =>
    have links := Ev.adoption_link_of_unfinished pending timing finished (Ev.offer_time _) (Ev.offer_image _)
    rw [Ev.own_of_foreign_nil fun q hq => nomatch finished.symm.trans (foreign q hq).1] at own
    cases after : ((Ev.start s).boundary timing).st.image.finished with
    | true => exact own.offered_of_finished links rfl rfl time.symm image.symm after
    | false => exact own.offered_of_not_finished links rfl rfl image.symm after

end Adopting

/-- An adoption reaches groups, watches, pattern sets and links (R92, R119 to R121, R125, R150, R168). -/
theorem State.boundary_adoptionReaches {s : State} {c : BoundaryCause} {p : PendingActivation} (makes : s.makesBoundary c)
    (pending : s.pendingAct = some p) (canonical : s.Canonical) :
    (s.beforeNotices (s.boundary c)).Reaches (s.boundary c) (s.settledAt (s.boundary c) (fun _ => true))
      (s.boundaryNotices c) := by
  have begun : (s.atCause (s.timeAtCause c)).pendingAct = some p := pending
  have whole := State.boundary_eq (State.boundaryAt_of_makes makes)
  have tracked := Ev.adoption_tracks begun (s.time.timingAt c) (canonical.atCause _)
  rw [← State.settledAt_congr_of_some begun (Ev.offer_sameEntries _) (Ev.offer_stores _) (Ev.offer_defects _)
    (fun _ => true), ← whole] at tracked
  have offered := Ev.adoption_offered begun (s.time.timingAt c) tracked.raised
  rw [← whole] at offered
  have others : (if s.image.finished = true then timingNotices (s.time.timingAt c) ++ s.adoptionNotices else [])
      = s.boundaryNotices c := by
    split
    · exact (State.boundaryNotices_eq c ‹_›).symm
    · exact (if_neg ‹_›).symm
  refine ⟨fun g => ?_, fun n => ?_, fun p => ?_, others ▸ offered⟩
  · rw [State.group, congrArg State.groups whole, Ev.offer_groups]
    exact tracked.group g
  · rw [State.watch, congrArg State.watches whole, Ev.offer_watches]
    exact tracked.watch n
  · rw [State.pattern, congrArg State.patterns whole, Ev.offer_patterns]
    exact tracked.pattern p

/-! ### The records after the boundary -/

theorem Ev.adoptEvaluated_evolves (p : PendingActivation) (e : Ev) :
    (e.adoptGroups p).st.Evolves (e.adoptEvaluated p).st := by
  have watched := Ev.foldl_evolves (fun f n => Ev.evalWatchAtAdoption_evolves (e.st.adoptionChanges p) n f)
    (e.adoptGroups p).st.watches.keys (e.adoptGroups p)
  rw [Ev.adoptEvaluated]
  exact watched.trans (Ev.evalPatterns_evolves _)

theorem State.finishStartUp_entries (s : State) :
    s.finishStartUp.watches = s.watches ∧ s.finishStartUp.patterns = s.patterns := by
  unfold State.finishStartUp
  dsimp only
  cases s.image.toReport <;> exact ⟨rfl, rfl⟩

/-- An adoption keeps the entries of watches and pattern sets (R117, R125). -/
theorem Ev.adopt_entries {p : PendingActivation} {e : Ev} (pending : e.st.pendingAct = some p)
    (k : e.st.rate.pendingK = none) :
    (∀ n, ((e.adopt p).st.watch n).besideLatch = (e.st.watch n).besideLatch)
      ∧ ∀ q, ((e.adopt p).st.pattern q).besideLatch = (e.st.pattern q).besideLatch := by
  obtain ⟨-, -, watches, patterns, -, -⟩ := Ev.adoptGroups_state pending k
  have evaluated := e.adoptEvaluated_evolves p
  have reported : (e.adopt p).st.watches = (e.adoptEvaluated p).st.watches
      ∧ (e.adopt p).st.patterns = (e.adoptEvaluated p).st.patterns := by
    rw [Ev.adopt_eq, Ev.reportAdoption_st]
    split
    · exact ⟨rfl, rfl⟩
    · exact State.finishStartUp_entries _
  obtain ⟨watches', patterns'⟩ := reported
  have watch : ∀ n, (e.adoptGroups p).st.watch n = e.st.watch n := fun n => by simp only [State.watch, watches]
  have pattern : ∀ q, (e.adoptGroups p).st.pattern q = e.st.pattern q := fun q => by simp only [State.pattern, patterns]
  refine ⟨fun n => ?_, fun q => ?_⟩
  · rw [State.watch, watches', ← watch]
    exact (evaluated.watches n).entry
  · rw [State.pattern, patterns', ← pattern]
    exact evaluated.patterns q

theorem Watch.eq_of_besideLatch {w w' : Watch} (h : w'.besideLatch = w.besideLatch) : w' = { w with latch := w'.latch } :=
  (congrArg (fun u : Watch => { u with latch := w'.latch }) h :)

theorem Pattern.eq_of_besideLatch {t t' : Pattern} (h : t'.besideLatch = t.besideLatch) :
    t' = { t with latch := t'.latch } :=
  (congrArg (fun u : Pattern => { u with latch := t'.latch }) h :)

/-- The entries, and the slots, that a boundary with an adoption hands on (R11, R12, R117, R125). -/
theorem State.boundary_adoptionRecords {s : State} {c : BoundaryCause} {t : Timebase} {p : PendingActivation}
    (h : s.time.boundaryAt c = some t) (pending : s.pendingAct = some p) :
    (∀ n, ((s.boundary c).watch n).besideLatch = (s.watch n).besideLatch)
      ∧ (∀ q, ((s.boundary c).pattern q).besideLatch = (s.pattern q).besideLatch)
      ∧ ∀ n, (s.parityCleared n → (s.boundary c).slot n = { s.slotNext n with parity := SlotParity.reset })
        ∧ (¬s.parityCleared n → (s.boundary c).slot n = s.slotNext n) := by
  obtain ⟨e, st, parts⟩ := Ev.beforeDecisions_cases (s.time.timingAt c) s t
  rw [pending] at parts
  have begun := s.exponentApplied_evolves t
  rw [← st] at begun
  have adopts : e.st.pendingAct = some p := (congrArg State.pendingAct begun.banking :).trans pending
  have k : e.st.rate.pendingK = none := st ▸ s.exponentApplied_pendingK t
  obtain ⟨watches, patterns⟩ := Ev.adopt_entries adopts k
  have closed := State.boundary_evolves_decided h
  rw [parts] at closed
  refine ⟨fun n => ?_, fun q => ?_, fun n => ?_⟩
  · exact (closed.watches n).entry.trans ((watches n).trans (begun.watches n).entry)
  · exact (closed.patterns q).trans ((patterns q).trans (begun.patterns q))
  · have slots : (s.boundary c).slots = (e.st.adopted p).slots := by
      rw [State.boundary_slots h, parts]
      exact (e.adopt_sources p).slots
    have slot : (s.boundary c).slot n = (e.st.adopted p).slot n := by simp only [State.slot, slots]
    have applied : e.st.slotNext n = s.slotNext n ∧ (e.st.parityCleared n ↔ s.parityCleared n) := by
      have rest := (s.atCause t).beginBoundary.applyExponent_rest
      rw [st]
      exact ⟨(congrArg (fun u : State => u.slotNext n) rest :),
        iff_of_eq (congrArg (fun u : State => u.parityCleared n) rest :)⟩
    obtain ⟨next, cleared⟩ := applied
    rw [slot, ← next, ← cleared]
    exact State.adopted_slot adopts n

/-- Settles O30: the banks and engines are those of `State.boundary_adopts`, slots and entries those of
`State.boundary_adoptionRecords`, latches and notices those of `State.boundary_adoptionReaches`. -/
theorem adoptionMakesThePendingBankActive : Obligations.AdoptionMakesThePendingBankActive := by
  intro s c p makes pending canonical
  have at' := State.boundaryAt_of_makes makes
  have banking := State.boundary_adopts at' pending
  obtain ⟨watches, patterns, slots⟩ := State.boundary_adoptionRecords at' pending
  have reaches := State.boundary_adoptionReaches makes pending canonical
  refine ⟨s.boundary c, (State.BoundaryRow.adoption p pending).exec_eq makes, (congrArg State.active banking :),
    (congrArg State.pendingAct banking :), (congrArg State.mapEngine banking :), fun b => ?_, fun b => ?_, ?_, slots,
    fun n => ?_, fun q => ?_, reaches.notices⟩
  · exact (congrArg (fun u : State => u.bank b) banking :)
  · exact (congrArg (fun u : State => u.hold b) banking :).trans ((s.mapHold_hold p.bank none b).trans (by
      split
      · rfl
      · rfl))
  · exact (congrArg State.image banking :)
  · rw [Watch.eq_of_besideLatch (watches n), reaches.watches n]
  · rw [Pattern.eq_of_besideLatch (patterns q), reaches.patterns q]

end Sys2Proof.Machine
end

section
/-! SUPPORT. The content records that a boundary's frame carries (R96 to R104), in the terms of what the boundary hands on. -/

namespace Sys2Proof.Machine

/-! ### The content records of a resolution (R96, R97) -/

/-- A table written key after key, where each step puts a record at its own key or leaves the table. -/
theorem Table.get_foldl_of_step {α : Type} {d : α} {m : Nat} {v : Option α} {step : Table α → Nat → Table α}
    (own : ∀ t, (step t m).get d m = v.getD (t.get d m)) (other : ∀ t k, m ≠ k → (step t k).get d m = t.get d m)
    (keys : List Nat) (t : Table α) :
    (keys.foldl step t).get d m = if m ∈ keys then v.getD (t.get d m) else t.get d m := by
  induction keys generalizing t with
  | nil => simp
  | cons k rest ih =>
    rw [List.foldl_cons, ih]
    by_cases hk : m = k
    · subst hk
      cases v <;> simp [own]
    · simp [other t k hk, hk]

/-- Every egress head carries what it resolves to, and IDLE content where that is nothing. -/
theorem Resolving.contents_get (r : Resolving) (h : Nat) :
    r.contents.get Content.idle h = (r.headContent h).getD Content.idle := by
  unfold Resolving.contents
  rw [Table.get_foldl_of_step (v := r.headContent h) (fun t => ?own) (fun t k hk => ?other)]
  case own => cases r.headContent h <;> simp
  case other =>
    cases r.headContent k with
    | none => rfl
    | some c => exact (Table.get_set _ _ _ _ _).trans (if_neg hk)
  split
  · rfl
  · rename_i unlisted
    have idle : r.bank.entry h = .idle := Table.get_of_not_mem _ _ _ unlisted
    rw [Resolving.headContent, idle]
    rfl

/-- The frame begun carries the resolution by the active bank; with no bank active every head is IDLE (R97). -/
theorem State.decideAndAssemble_content (selection : Nat → Selection) (s : State) :
    ∃ f, (s.decideAndAssemble selection).egress = some f ∧ ∀ h, f.content.get Content.idle h
      = (Resolving.headContent ⟨s.activeBank, s.decideStores, s.takeOf, selection⟩ h).getD Content.idle := by
  refine ⟨_, rfl, fun h => ?_⟩
  unfold State.activeBank
  dsimp only
  cases s.active with
  | none => rfl
  | some b => exact Resolving.contents_get _ h

/-! ### What a boundary's resolution reads (R89, R100) -/

/-- The selection of a group that an adoption does not redefine is the one it had; of any other it is WORKING (R100). -/
theorem State.selectionBefore_of_defined {s : State} {g : Nat} {o d : GroupDef} (ho : s.activeBank.groupDef g = some o)
    (hd : s.bankNext.groupDef g = some d) : s.selectionBefore s.pendingAct g
      = if o.width = d.width ∧ o.working = d.working ∧ o.protect = d.protect then (s.group g).selection else .working := by
  unfold State.selectionBefore
  cases pending : s.pendingAct with
  | none =>
    rw [State.bankNext_of_none pending, ho, Option.some.injEq] at hd
    subst hd
    exact (if_pos ⟨rfl, rfl, rfl⟩).symm
  | some p =>
    rw [State.bankNext_of_some pending] at hd
    dsimp only
    rw [ho, hd]
    by_cases kept : o.width = d.width ∧ o.working = d.working ∧ o.protect = d.protect
    · have cls : groupClass (some o) (some d) = .kept d := by simp [groupClass, kept]
      rw [cls, if_pos kept]
    · have cls : groupClass (some o) (some d) = .redefined d := by simpa [groupClass, and_assoc] using kept
      rw [cls, if_neg kept]

/-- A group that the adoption defines afresh begins with WORKING (R100). -/
theorem State.selectionBefore_of_fresh {s : State} {g : Nat} {d : GroupDef} (ho : s.activeBank.groupDef g = none)
    (hd : s.bankNext.groupDef g = some d) : s.selectionBefore s.pendingAct g = .working := by
  unfold State.selectionBefore
  cases pending : s.pendingAct with
  | none => rw [State.bankNext_of_none pending, ho] at hd; cases hd
  | some p =>
    rw [State.bankNext_of_some pending] at hd
    dsimp only
    rw [ho, hd]
    rfl

/-- Decisions leave the raw conditions: an errored event is only counted (R31, R112). -/
theorem State.decideStores_keepsRaw (s : State) (n : Nat) : (s.decideStores.defect n).raw = (s.defect n).raw := by
  refine List.foldlRecOn (motive := fun u : State => (u.defect n).raw = (s.defect n).raw) _ _ rfl (fun u hu k _ => ?_)
  rw [State.decideStore_defect, ← hu]
  split <;> rfl

/-- What a resolution reads is what the next boundary hands the Switch: the bank active after its adoption, raw conditions
and takes after it, and the selections before it. -/
structure Resolving.AtBoundary (r : Resolving) (s : State) : Prop where
  bank      : r.bank = s.bankNext
  raw       : ∀ n, (r.st.defect n).raw = (s.defectNext n).raw
  take      : ∀ n, r.take n = ((s.storeNext n).decide s.rate.j).2.1
  selection : r.selection = s.selectionBefore s.pendingAct

/-- The bank active after a boundary, which also resolves the boundary's heads (R89). -/
theorem State.boundary_activeBank {s : State} {c : BoundaryCause} {t : Timebase} (h : s.time.boundaryAt c = some t) :
    (s.boundary c).activeBank = s.bankNext := by
  cases pending : s.pendingAct with
  | none =>
    rw [State.bankNext_of_none pending]
    exact (congrArg State.activeBank (State.boundary_evolves pending c).banking :)
  | some p =>
    rw [State.bankNext_of_some pending]
    exact (congrArg State.activeBank (State.boundary_adopts h pending) :)

/-- The frame begun at a boundary carries the resolution of what the boundary hands on (R96). -/
theorem State.boundary_content {s : State} {c : BoundaryCause} {t : Timebase} (h : s.time.boundaryAt c = some t) :
    ∃ (f : EgressFrame) (r : Resolving), (s.boundary c).egress = some f ∧ r.AtBoundary s
      ∧ ∀ i, f.content.get Content.idle i = (r.headContent i).getD Content.idle := by
  let selection := s.selectionBefore s.pendingAct
  let u := ((Ev.start (s.atCause t)).beforeDecisions (s.time.timingAt c)).st
  obtain ⟨f, hf, content⟩ := u.decideAndAssemble_content selection
  have same : (s.boundary c).egress = (u.decideAndAssemble selection).egress := by
    rw [State.boundary_eq h, Ev.boundary_eq, Ev.offer_egress]
    exact (congrArg State.egress (Ev.closeBoundary_rest (s.atCause t) _).1 :)
  have bank : u.activeBank = s.bankNext :=
    (congrArg State.activeBank (State.boundary_evolves_decided h).banking :).symm.trans (State.boundary_activeBank h)
  have next := Ev.beforeDecisions_next (s.time.timingAt c) (s.atCause t)
  refine ⟨f, _, same.trans hf, ⟨bank, fun n => ?_, fun n => ?_, rfl⟩, content⟩
  · obtain ⟨-, -, defect⟩ := next n
    rw [State.decideStores_keepsRaw]
    exact congrArg DefectRec.raw defect
  · obtain ⟨store, -, -⟩ := next n
    have threshold : u.rate.j = s.rate.j := Ev.beforeDecisions_j (s.time.timingAt c) (s.atCause t)
    change ((u.store n).decide u.rate.j).2.1 = _
    rw [threshold]
    exact (congrArg (fun st : Store => (st.decide s.rate.j).2.1) store :)

/-- Settles O26: the frame carries the resolution of `State.boundary_content`, whose parts are the statement's. -/
theorem headsCarryTheirSources : Obligations.HeadsCarryTheirSources := by
  intro s c i makes row filler source selected direct
  obtain ⟨f, r, egress, at', content⟩ := State.boundary_content (State.boundaryAt_of_makes makes)
  have sources : ∀ w n tag, r.sourceContent w n tag = source w n tag := fun w n tag => by
    rw [Resolving.sourceContent, at'.raw, at'.take]
    rfl
  have selections : ∀ g d, s.bankNext.groupDef g = some d → r.selection g = selected g := fun g d hd => by
    dsimp only [selected]
    rw [at'.selection, hd]
    cases ho : s.activeBank.groupDef g with
    | none => exact State.selectionBefore_of_fresh ho hd
    | some o => exact State.selectionBefore_of_defined ho hd
  have directs : ∀ e, r.directContent e = direct e := fun e => by
    cases e with
    | idle => rfl
    | follow w h tag => rfl
    | source w n tag => exact congrArg some (sources w n tag)
    | group w g tag =>
      dsimp only [direct]
      rw [Resolving.directContent, Resolving.groupSource, at'.bank]
      cases hd : s.bankNext.groupDef g with
      | none => rfl
      | some d =>
        refine congrArg some ((sources _ _ tag).trans ?_)
        have same := selections g d hd
        generalize selected g = chosen at same ⊢
        subst same
        cases r.selection g <;> rfl
  refine ⟨s.boundary c, f, row.exec_eq makes, egress, fun h => ?_⟩
  rw [content, Resolving.headContent, at'.bank]
  cases s.bankNext.entry h with
  | idle => rfl
  | source w n tag => exact congrArg some (sources w n tag)
  | group w g tag => exact congrArg (fun d => some (d.getD Content.idle)) (directs (.group w g tag))
  | follow w e tag =>
    dsimp only
    rw [directs]
    cases direct (s.bankNext.entry e) <;> rfl

end Sys2Proof.Machine
end

section
/-! SUPPORT. The commands of the Defect Monitor (R122 to R124, R126, R128): the reads of sources and latches, and what a
command that sets or acknowledges a watch or a pattern set leaves and raises. -/

namespace Sys2Proof.Machine

/-! ### The latched sources (R124) -/

theorem insertSorted_pairwise (n : Nat) {l : List Nat} (h : l.Pairwise (· < ·)) :
    (insertSorted n l).Pairwise (· < ·) := by
  induction l with
  | nil => exact List.pairwise_singleton _ n
  | cons m rest ih =>
    obtain ⟨above, sorted⟩ := List.pairwise_cons.mp h
    unfold insertSorted
    split
    · rename_i below
      exact .cons (fun k hk => (List.mem_cons.mp hk).elim (· ▸ below) fun hk => below.trans (above k hk)) h
    · split
      · exact h
      · refine .cons (fun k hk => ?_) (ih sorted)
        rcases mem_insertSorted.mp hk with rfl | hk
        · omega
        · exact above k hk

theorem sortedUnique_pairwise (l : List Nat) : (sortedUnique l).Pairwise (· < ·) :=
  List.foldlRecOn (motive := fun acc : List Nat => acc.Pairwise (· < ·)) l _ .nil
    fun _ h n _ => insertSorted_pairwise n h

/-- A source with its latch set is listed. -/
theorem State.mem_watches_of_latch {s : State} {n : Nat} (h : (s.watch n).latch = true) : n ∈ s.watches.keys :=
  Table.mem_keys_of_get_ne Watch.reset _ n fun reset => by
    rw [State.watch, reset] at h
    cases h

/-- R124: the indices below the starting index whose latch is set, in descending order. -/
theorem State.latchedBelow_eq (s : State) (bound : Nat) :
    s.latchedBelow bound = ((List.range bound).filter (fun m => (s.watch m).latch)).reverse := by
  rw [State.latchedBelow, List.filter_reverse]
  refine congrArg _ (List.Pairwise.eq_of_mem_iff (r := (· < ·)) ((sortedUnique_pairwise _).filter _)
    (List.pairwise_lt_range.filter _) fun n => ?_)
  simp only [List.mem_filter, mem_sortedUnique, List.mem_range, Bool.and_eq_true, decide_eq_true_eq]
  exact ⟨fun ⟨_, latched, below⟩ => ⟨below, latched⟩,
    fun ⟨below, latched⟩ => ⟨State.mem_watches_of_latch latched, latched, below⟩⟩

/-! ### Reads (R124, R128) -/

section Read

variable {n : Nat} (h : n < 65536) (s : State)
include h

/-- R128: a source index reads back, and is in range or refused. -/
theorem judgeReadSource_index : judgeReadSource (byte2 n) s
    = if n < 1536 then executed s (.done (sourceResult s n)) else refused s .badArgument := by
  simp only [judgeReadSource, byte2, value2_byte2 n h]

/-- R124: a starting index reads back, and is in range or refused. -/
theorem judgeReadLatches_index : judgeReadLatches (byte2 n) s
    = if n < 1536 then executed s (.done (latchesResult s n)) else refused s .badArgument := by
  simp only [judgeReadLatches, byte2, value2_byte2 n h]

end Read

/-- A read that reports where its index is in range, and refuses it elsewhere, changes nothing but the answer. -/
theorem takeCommand_reads {code : Byte} {x : Link} {judge : List Byte → State → Judged} {s : State} {args : List Byte}
    {p : Prop} [Decidable p] {result : List Byte} (waits : s.waits x code args) (finished : s.image.finished = true)
    (judged : judge args s = if p then executed s (.done result) else refused s .badArgument) :
    takeCommand code false x judge s
      = .next (s.answered x code (if p then ⟨.done, false, result⟩ else ⟨.badArgument, false, []⟩)) := by
  by_cases inside : p
  · rw [if_pos inside] at judged ⊢
    exact takeCommand_executed waits (.inl finished) judged
  · rw [if_neg inside] at judged ⊢
    exact takeCommand_refused waits (.inl finished) judged

/-- Settles O47: the source's record item by item, and the latches by `State.latchedBelow_eq`. -/
theorem sourceReadsChangeNothing : Obligations.SourceReadsChangeNothing := by
  intro x s n finished range flag latches width signed st r d w source
  have widths : ∀ v, byte1 (widthCode v) = [width v] := by rintro (_ | _ | _ | _ | _) <;> rfl
  have store : storeBytes st = [match st.state with | .idle => 0x00#8 | .priming => 0x01#8 | .running => 0x02#8,
        width st.width] ++ byte2 st.bytes.length ++ signed st.integrator
      ++ [match st.lastCode with | .nominal => 0x00#8 | .advance => 0x01#8 | .retard => 0x02#8, BitVec.ofNat 8 st.slips]
      ++ byte2 st.advances ++ byte2 st.retards ++ [flag st.complete] := by
    rw [storeBytes, widths]
    cases st.state <;> cases st.lastCode <;> rfl
  have defects : defectBytes d = [flag d.marker, flag d.mismatch, flag d.degrade] ++ byte2 d.errored
      ++ [match d.raw with | .ok => 0x00#8 | .degraded => 0x01#8 | .failed => 0x02#8] := by
    rw [defectBytes]
    cases d.raw <;> rfl
  have entry : watchBytes w ++ [flagByte w.latch] = [flag w.enabled,
        match w.level with | .failed => 0x00#8 | .degradedOrWorse => 0x01#8, flag w.polarity,
        match w.type with | .level => 0x00#8 | .change => 0x01#8, BitVec.ofNat 8 w.cls,
        match w.pattern with | some p => BitVec.ofNat 8 p | none => 0xFF#8, flag w.latch] := by
    rw [watchBytes]
    cases w.level <;> cases w.type <;> cases w.pattern <;> rfl
  have tag : optionalByte (s.slot n).accepted
      = match (s.slot n).accepted with | some tag => [0x01#8, tag] | none => [0x00#8, 0x00#8] := by
    cases (s.slot n).accepted <;> rfl
  have reported : sourceResult s n = source := by
    rw [sourceResult, widths, store, defects, List.append_assoc _ (watchBytes w), entry, tag]
    simp only [List.append_assoc, List.cons_append, List.nil_append]
    rfl
  have latched : ∀ bound, latchesResult s bound = (latches bound).result := fun bound => by
    rw [latchesResult, State.latchedBelow_eq]
    rfl
  refine ⟨fun waits => ?_, fun waits => ?_, fun waits => ?_⟩
  · rw [← reported]
    exact takeCommand_reads waits finished (judgeReadSource_index range s)
  · exact takeCommand_executed waits (.inl finished) (congrArg (fun b => executed s (.done b)) (latched 1536))
  · exact takeCommand_reads waits finished
      ((judgeReadLatches_index range s).trans (by rw [latched]))

end Sys2Proof.Machine
end

section
/-! SUPPORT. The commands that set or acknowledge a watch or a pattern set (R122, R123, R126): the one event of each, the
notices it raises, and what its take leaves. -/

namespace Sys2Proof.Machine

/-! ### What an answer leaves -/

theorem State.answered_link (s : State) (x : Link) (code : Byte) (r : Reply) (y : Link) :
    (s.answered x code r).link y = if y = x then (s.link x).respond code r else s.link y :=
  State.setLink_link s x _ y

/-- What a link is after an answer depends on what the links were before it. -/
theorem State.answered_link_congr {s t : State} (h : ∀ y, t.link y = s.link y) (x : Link) (code : Byte) (r : Reply)
    (y : Link) : (t.answered x code r).link y = (s.answered x code r).link y := by
  rw [State.answered_link, State.answered_link, h x, h y]

/-- Two states that agree but for the Defect Monitor's events still agree when a command has been answered in both. -/
theorem State.SameButMonitor.answered {s t : State} (h : s.SameButMonitor t) (x : Link) (code : Byte) (r : Reply) :
    (s.answered x code r).SameButMonitor (t.answered x code r) := by
  have links : ∀ y, ((t.answered x code r).link y).besideNotices = ((s.answered x code r).link y).besideNotices := by
    intro y
    rw [State.answered_link, State.answered_link]
    split
    · exact congrArg (LinkState.respond code r) (h.links x)
    · exact h.links y
  obtain ⟨⟩ := h
  constructor <;> first | exact links | (cases x <;> assumption)

/-! ### The notices of one block -/

/-- Notices of one block are offered in the order in which it raised them (R168). -/
theorem offeringOrder_notes {s : State} (h : s.image.finished = true) (event : Nat) (b : Block) (ns : List NoticeBody) :
    (offeringOrder event (s.notes b ns)).map (·.body) = ns := by
  have whole := filter_offeringOrder (p := fun _ => true) (raised := s.notes b ns) event
    fun q hq _ => (State.of_mem_notes hq).1
  rw [List.filter_true, List.filter_true] at whole
  rw [whole, State.noticesOf_notes s b b ns h, if_pos rfl]

/-- Everything the take of a command that raises only notices of one block does, once start-up has finished: its event's
state, the notices offered, the reply (R158, R168). -/
theorem takeCommand_raises {code : Byte} {d : Bool} {x : Link} {judge : List Byte → State → Judged} {s : State}
    {args : List Byte} {e : Ev} {r : Reply} {b : Block} {ns : List NoticeBody} (waits : s.waits x code args)
    (finished : s.image.finished = true) (quietly : JudgesQuietly judge) (judged : judge args s = (e, r))
    (raised : e.raised = s.notes b ns) :
    ∃ t, takeCommand code d x judge s = .next t ∧ (e.st.answered x code r).SameButMonitor t
      ∧ t.groups = e.st.groups ∧ t.defects = e.st.defects ∧ t.watches = e.st.watches ∧ t.patterns = e.st.patterns
      ∧ ∀ y, t.link y = ((ns.foldl State.notify s).answered x code r).link y := by
  have quiet : (Ev.start s).Quiet e := by
    have quiet := quietly args s
    rwa [judged] at quiet
  refine ⟨e.offer.answered x code r, ?_, e.offer_sameButMonitor.answered x code r, by simp [State.answered],
    by simp [State.answered], by simp [State.answered], by simp [State.answered],
    State.answered_link_congr (fun y => ?_) x code r⟩
  · rw [takeCommand_waits waits (.inl finished), judged]
    rfl
  · have image : e.st.image = s.image := quiet.image
    have link : e.st.link y = s.link y := by
      cases y
      · exact quiet.linkA
      · exact quiet.linkB
    rw [Ev.offer_link (quiet.stamped fun _ hp => nomatch hp) (by rw [image, finished]), raised,
      offeringOrder_notes finished]
    exact foldl_notify_link_congr ns link quiet.time (congrArg ImageCtl.finished image)

/-- One notice, or none, offered. -/
theorem foldl_notify_ite (p : Prop) [Decidable p] (n : NoticeBody) (s : State) :
    (if p then [n] else []).foldl State.notify s = if p then s.notify n else s := by
  split <;> rfl

/-! ### The evaluation of a set entry -/

/-- R118, R119: an entry for a source, enabled and of type LEVEL, meets its condition. -/
def State.levelHolds (s : State) (n : Nat) (w : Watch) : Bool :=
  w.enabled && decide (w.type = .level) && s.isHead n && (w.level.value (s.defect n).raw == w.polarity)

theorem State.setWatch_setWatch (s : State) (n : Nat) (v w : Watch) : (s.setWatch n v).setWatch n w = s.setWatch n w :=
  congrArg (fun u => { s with watches := u }) (Table.set_set ..)

theorem State.setPattern_setPattern (s : State) (p : Nat) (v w : Pattern) :
    (s.setPattern p v).setPattern p w = s.setPattern p w :=
  congrArg (fun u => { s with patterns := u }) (Table.set_set ..)

/-- An event that sets a latch and raises a notice where the latch was clear and its condition holds, and else does nothing
more, by what it leaves and raises (R119, R125). -/
theorem Ev.latches_where {s : State} {put : Bool → State} (same : (put true).notes .monitor = s.notes .monitor)
    (latch holds : Bool) (n : NoticeBody) {e : Ev} (eval : e = if !latch && holds then
      (Ev.start (put true)).raise .monitor n else Ev.start (put latch)) :
    e.st = put (latch || holds) ∧ e.raised = s.notes .monitor (if !latch && holds then [n] else []) := by
  subst eval
  cases latch <;> cases holds <;> simp [Ev.raise_notes, same]

/-- An entry that is set and evaluated at once latches on its condition, and raises its notice where it was clear (R119,
R121). -/
theorem Ev.evalLevelWatch_set (s : State) (n : Nat) (w : Watch) :
    let e := ((Ev.start s).modify (·.setWatch n w)).evalLevelWatch n
    e.st = s.setWatch n { w with latch := w.latch || s.levelHolds n w }
      ∧ e.raised = s.notes .monitor
        (if !w.latch && s.levelHolds n w then [.watch n w.cls (w.level.value (s.defect n).raw)] else []) := by
  refine Ev.latches_where (put := fun l => s.setWatch n { w with latch := l }) rfl w.latch (s.levelHolds n w) _ ?_
  have head : (s.setWatch n w).isHead n = s.isHead n := rfl
  simp only [Ev.evalLevelWatch, Ev.latchWatch, Ev.modify, Ev.start, State.watchHolds, State.levelHolds,
    State.setWatch_watch_self, State.setWatch_setWatch, State.setWatch_defect, head]
  rw [← ite_and]
  refine if_congr ?_ rfl rfl
  simp only [Bool.and_eq_true, decide_eq_true_eq]
  tauto

/-- A pattern set that is set and evaluated at once latches on its condition, and raises its notice where it was clear
(R125). -/
theorem Ev.evalPattern_set (s : State) (p : Nat) (t : Pattern) :
    let e := ((Ev.start s).modify (·.setPattern p t)).evalPattern p
    e.st = s.setPattern p { t with latch := t.latch || (t.enabled && s.patternHolds p) }
      ∧ e.raised = s.notes .monitor (if !t.latch && (t.enabled && s.patternHolds p) then [.pattern p t.cls] else []) := by
  refine Ev.latches_where (put := fun l => s.setPattern p { t with latch := l }) rfl t.latch
    (t.enabled && s.patternHolds p) _ ?_
  have holds : (s.setPattern p t).patternHolds p = s.patternHolds p := rfl
  simp only [Ev.evalPattern, Ev.modify, Ev.start, State.setPattern_pattern_self, State.setPattern_setPattern, holds]
  refine if_congr ?_ rfl rfl
  simp only [Bool.and_eq_true]
  tauto

/-! ### Pattern sets (R126) -/

/-- R126: a set, a flag and a class in range read back, and the set is set and evaluated. -/
theorem judgeSetPattern_set {p c : Nat} (hp : p < 8) (hc : c < 16) (on : Bool) (s : State) :
    judgeSetPattern (byte1 p ++ [flagByte on] ++ byte1 c) s =
      let e := ((Ev.start s).modify (·.setPattern p ⟨on, c, on && (s.pattern p).latch⟩)).evalPattern p
      (e, .done (byte1 p ++ [flagByte on] ++ byte1 c ++ [flagByte (s.patternHolds p)]
        ++ byte2 (s.patternMembers p).length ++ [flagByte (e.st.pattern p).latch])) := by
  have number := byte1_toNat p (by omega)
  have cls := byte1_toNat c (by omega)
  have inside : p ≤ 7 ∧ c ≤ 15 := ⟨by omega, by omega⟩
  simp only [judgeSetPattern, byte1, List.cons_append, List.nil_append, flagOf_flagByte, number, cls, if_pos inside]

/-- R126: a set in range reads back, is cleared and evaluated again. -/
theorem judgeAckPattern_set {p : Nat} (hp : p < 8) (s : State) :
    judgeAckPattern (byte1 p) s =
      let e := ((Ev.start s).modify (·.setPattern p { s.pattern p with latch := false })).evalPattern p
      (e, .done (byte1 p ++ [flagByte (s.pattern p).latch, flagByte (e.st.pattern p).latch])) := by
  have number := byte1_toNat p (by omega)
  have inside : p ≤ 7 := by omega
  simp only [judgeAckPattern, byte1, number, if_pos inside]

/-- The take of a command that sets one pattern set and evaluates it (R125, R126). -/
theorem takeCommand_setsPattern {code : Byte} {d : Bool} {x : Link} {judge : List Byte → State → Judged} {s : State}
    {args : List Byte} {p : Nat} {t v : Pattern} {reply : Pattern → Reply} {raises : Bool} (waits : s.waits x code args)
    (finished : s.image.finished = true) (quietly : JudgesQuietly judge)
    (judged : judge args s =
      let e := ((Ev.start s).modify (·.setPattern p t)).evalPattern p
      (e, reply (e.st.pattern p)))
    (latched : { t with latch := t.latch || (t.enabled && s.patternHolds p) } = v)
    (raised : (!t.latch && (t.enabled && s.patternHolds p)) = raises) :
    ∃ u, takeCommand code d x judge s = .next u
      ∧ ((s.setPattern p v).answered x code (reply v)).SameButMonitor u
      ∧ u.groups = s.groups ∧ u.defects = s.defects ∧ u.watches = s.watches
      ∧ (∀ q, u.pattern q = if q = p then v else s.pattern q)
      ∧ ∀ y, u.link y = ((if raises then s.notify (.pattern p v.cls) else s).answered x code (reply v)).link y := by
  obtain ⟨st, notes⟩ := Ev.evalPattern_set s p t
  rw [latched] at st
  rw [raised] at notes
  obtain ⟨u, taken, same, groups, defects, watches, patterns, links⟩ :=
    takeCommand_raises (d := d) waits finished quietly judged notes
  rw [st] at same groups defects watches patterns links
  rw [State.setPattern_pattern_self] at same links
  refine ⟨u, taken, same, groups, defects, watches, fun q => ?_, fun y => ?_⟩
  · rw [State.pattern, patterns]
    exact State.setPattern_pattern s p v q
  · rw [links, foldl_notify_ite, ← latched]

/-- Settles O49: each command sets one pattern set and evaluates it (`takeCommand_setsPattern`). -/
theorem patternCommandsSetAndAcknowledge : Obligations.PatternCommandsSetAndAcknowledge := by
  intro x s p c on finished hp hc flag set acked setReply ackReply
  refine ⟨fun waits => ?_, fun waits => ?_⟩
  · refine takeCommand_setsPattern (reply := fun v => .done (byte1 p ++ [flagByte on] ++ byte1 c
      ++ [flagByte (s.patternHolds p)] ++ byte2 (s.patternMembers p).length ++ [flagByte v.latch]))
      waits finished judgeSetPattern_quiet (judgeSetPattern_set hp hc on s) (congrArg (Pattern.mk on c) ?_) ?_
    · rw [Bool.and_or_distrib_left]
    · dsimp only [set]
      cases on <;> cases (s.pattern p).latch <;> simp
  · exact takeCommand_setsPattern (reply := fun v => .done (byte1 p ++ [flagByte (s.pattern p).latch, flagByte v.latch]))
      waits finished judgeAckPattern_quiet (judgeAckPattern_set hp s) rfl rfl

/-! ### Watches (R122, R123) -/

/-- A decoded entry has the latch it was given (R122). -/
theorem decodeWatch_latch {latch : Bool} {bytes : List Byte} {w : Watch} (h : decodeWatch latch bytes = some w) :
    w.latch = latch := by
  unfold decodeWatch at h
  split at h
  · split at h
    · split at h
      · cases h
        rfl
      · cases h
    · cases h
  · cases h

/-- R122: a source in range and the bytes of an entry read back, and the entry is set. -/
theorem judgeSetWatch_entry {n : Nat} (hn : n < 1536) {bytes : List Byte} (hl : bytes.length = 6) {s : State} {w : Watch}
    (hw : decodeWatch (s.watch n).latch bytes = some w) :
    judgeSetWatch (byte2 n ++ bytes) s =
      let e := s.setWatchEvent n w
      (e, .done (byte2 n ++ [flagByte (s.isHead n)] ++ watchBytes (e.st.watch n) ++ [flagByte (e.st.watch n).latch])) := by
  obtain ⟨w0, w1, w2, w3, w4, w5, rfl⟩ : ∃ w0 w1 w2 w3 w4 w5, bytes = [w0, w1, w2, w3, w4, w5] :=
    ⟨_, _, _, _, _, _, eq_map_getD hl⟩
  simp only [judgeSetWatch, byte2, List.cons_append, List.nil_append, value2_byte2 n (Nat.lt_trans hn (by decide)),
    if_pos hn, hw]

/-- R123: a source in range reads back, and its latch is cleared and evaluated again. -/
theorem judgeAckLatch_source {n : Nat} (hn : n < 1536) (s : State) :
    judgeAckLatch (byte2 n) s =
      let e := s.ackLatchEvent n
      (e, .done (byte2 n ++ [flagByte (s.watch n).latch, flagByte (e.st.watch n).latch])) := by
  simp only [judgeAckLatch, byte2, value2_byte2 n (Nat.lt_trans hn (by decide)), if_pos hn]

/-- The event of ACK LATCH: the latch is that of the entry's condition, and the notice is raised where it holds (R119, R121,
R123). -/
theorem State.ackLatchEvent_eq (s : State) (n : Nat) :
    (s.ackLatchEvent n).st = s.setWatch n { s.watch n with latch := s.levelHolds n (s.watch n) }
      ∧ (s.ackLatchEvent n).raised = s.notes .monitor (if s.levelHolds n (s.watch n) then
        [.watch n (s.watch n).cls ((s.watch n).level.value (s.defect n).raw)] else []) :=
  Ev.evalLevelWatch_set s n { s.watch n with latch := false }

/-- The part of SET WATCH before the pattern sets: the entry is stored, an enabled LEVEL entry latches on its condition, and
its notice is raised where the latch was clear (R119, R121, R122). -/
theorem State.setWatchEvent_eq (s : State) (n : Nat) (w : Watch) :
    ∃ e : Ev, s.setWatchEvent n w = e.evalPatterns
      ∧ e.st = s.setWatch n { w with latch := w.enabled && (w.latch || s.levelHolds n w) }
      ∧ e.raised = s.notes .monitor
        (if (w.enabled && (w.latch || s.levelHolds n w)) && !w.latch then
          [.watch n w.cls (w.level.value (s.defect n).raw)] else []) := by
  refine ⟨_, rfl, ?_⟩
  cases on : w.enabled
  · simp
  · obtain ⟨st, raised⟩ := Ev.evalLevelWatch_set s n { w with latch := w.enabled && w.latch }
    have same : s.levelHolds n { w with latch := w.enabled && w.latch } = s.levelHolds n w := rfl
    have fresh : (true && (w.latch || s.levelHolds n w) && !w.latch) = (!(true && w.latch) && s.levelHolds n w) := by
      cases w.latch <;> simp
    rw [same, on] at st raised
    rw [fresh]
    exact ⟨st, raised⟩

/-- Every pattern set latches where it is enabled and its condition holds, and raises its notice where it was clear
(R125). -/
theorem Ev.evalPatterns_sets (e : Ev) :
    (∀ p, e.evalPatterns.st.pattern p = { e.st.pattern p with
      latch := (e.st.pattern p).latch || (decide (p < 8) && (e.st.pattern p).enabled && e.st.patternHolds p) })
    ∧ e.evalPatterns.raised
      = e.raised ++ e.st.notes .monitor (e.evalPatterns.st.latchNotices e.st.settled e.evalPatterns.st.settled []) := by
  obtain ⟨same, latched, raised⟩ := Ev.evalPatterns_latches (fun _ => rfl) e ⟨.refl e.st, fun _ => rfl⟩
  generalize e.evalPatterns = e' at same latched raised ⊢
  refine ⟨fun p => ?_, ?_⟩
  · rw [Pattern.eq_of_besideLatch (same.1.patterns p), latched, State.patternHolds_eq]
    rfl
  · have notices : e'.st.latchNotices e.st.settled e'.st.settled []
        = ((List.range 8).filter (fun p => !(e.st.pattern p).latch && (e'.st.pattern p).latch)).map
          (fun p => .pattern p (e.st.pattern p).cls) := by
      rw [same.1.latchNotices]
      rfl
    simp only [raised, notices, latched, Bool.and_or_distrib_left, Bool.not_and_self, Bool.false_or]

/-- A pattern set's condition depends on the watches, the raw conditions and the watched heads (R125). -/
theorem State.patternHolds_congr {s t : State} (watches : t.watches = s.watches) (defects : t.defects = s.defects)
    (heads : ∀ n, t.isHead n = s.isHead n) (p : Nat) : t.patternHolds p = s.patternHolds p := by
  simp only [State.patternHolds, State.patternMembers, State.watchHolds, State.watch, State.defect, watches, defects,
    heads]

/-- The pattern sets' notices between two states are those of the sets that latched (R125). -/
theorem State.latchNotices_congr {s s' t t' : State} (before : s'.patterns = s.patterns) (after : t'.patterns = t.patterns) :
    t'.latchNotices s'.settled t'.settled [] = t.latchNotices s.settled t.settled [] := by
  simp only [State.latchNotices, State.settled, State.pattern, before, after, List.filter_nil, List.map_nil]

/-- The event of SET WATCH, whole: the entry is set, the pattern sets latch on their conditions with that entry, and the
notices are those of the latches taken, WATCH before PATTERN (R119, R121, R122, R125). -/
theorem State.setWatchEvent_leaves {s u : State} {n : Nat} {w set : Watch}
    (hset : { w with latch := w.enabled && (w.latch || s.levelHolds n w) } = set) (hu : s.setWatch n set = u) :
    let e := s.setWatchEvent n w
    u.SameButMonitor e.st ∧ { e.st with patterns := s.patterns } = u
      ∧ (∀ p, e.st.pattern p = { s.pattern p with
        latch := (s.pattern p).latch || (decide (p < 8) && (s.pattern p).enabled && u.patternHolds p) })
      ∧ e.raised = s.notes .monitor
        ((if set.latch && !w.latch then [.watch n w.cls (w.level.value (s.defect n).raw)] else [])
          ++ e.st.latchNotices s.settled e.st.settled []) := by
  obtain ⟨e, event, st, raised⟩ := s.setWatchEvent_eq n w
  obtain ⟨sets, notices⟩ := e.evalPatterns_sets
  have same := e.evalPatterns_same
  have rest := e.evalPatterns_rest
  rw [hset, hu] at st
  have before : e.st.patterns = s.patterns := by rw [st, ← hu]; rfl
  have notes : e.st.notes .monitor = s.notes .monitor := by rw [st, ← hu]; rfl
  have entry : ∀ p, u.pattern p = s.pattern p := fun p => hu ▸ rfl
  simp only [st, entry] at sets
  rw [st] at same
  rw [before, st] at rest
  rw [raised, notes, ← State.notes_append, State.latchNotices_congr before rfl] at notices
  dsimp only
  rw [event, ← hset]
  exact ⟨same, rest, sets, notices⟩

/-- Settles O48: each command sets one entry and evaluates it, and SET WATCH the pattern sets after it
(`State.setWatchEvent_leaves`, `State.ackLatchEvent_eq`). -/
theorem watchCommandsSetAndAcknowledge : Obligations.WatchCommandsSetAndAcknowledge := by
  intro x s n bytes w finished hn hl hw holds set acked flag notice setReply ackReply
  refine ⟨fun waits => ?_, fun waits => ?_⟩
  · have latch := decodeWatch_latch hw
    obtain ⟨touched, rest, sets, notices⟩ := State.setWatchEvent_leaves (s := s) (n := n) (w := w) (set := set)
      (by rw [latch]; rfl) rfl
    have judged := judgeSetWatch_entry hn hl hw
    generalize s.setWatchEvent n w = e at touched rest sets notices judged
    have stored : e.st.watches = (s.setWatch n set).watches := (congrArg State.watches rest :)
    have entry : ∀ m, e.st.watch m = if m = n then set else s.watch m := fun m =>
      (congrArg (fun u => Table.get Watch.reset u m) stored).trans (State.setWatch_watch s n set m)
    obtain ⟨t, taken, same, groups, defects, watches, patterns, links⟩ :=
      takeCommand_raises (d := false) waits finished judgeSetWatch_quiet judged notices
    rw [entry, if_pos rfl] at same links
    have kept := (touched.answered x _ _).trans same
    have conditions : ∀ p, t.patternHolds p = (s.setWatch n set).patternHolds p :=
      State.patternHolds_congr (watches.trans stored) (defects.trans (congrArg State.defects rest :)) fun m => by
        simp [State.isHead, State.activeBank, State.bank, kept.active, kept.banks, State.answered]
    refine ⟨t, taken, kept, groups.trans (congrArg State.groups rest :), defects.trans (congrArg State.defects rest :),
      fun m => ?_, fun p => ?_, fun y => ?_⟩
    · rw [State.watch, watches]
      exact entry m
    · rw [State.pattern, patterns, conditions]
      exact sets p
    · rw [links, latch, State.latchNotices_congr rfl patterns]
      rfl
  · obtain ⟨st, notes⟩ := s.ackLatchEvent_eq n
    obtain ⟨t, taken, same, groups, defects, watches, patterns, links⟩ :=
      takeCommand_raises (d := false) waits finished judgeAckLatch_quiet (judgeAckLatch_source hn s) notes
    rw [st] at same groups defects watches patterns links
    rw [State.setWatch_watch_self] at same links
    refine ⟨t, taken, same, groups, defects, patterns, fun m => ?_, fun y => ?_⟩
    · rw [State.watch, watches]
      exact State.setWatch_watch s n acked m
    · rw [links, foldl_notify_ite]
      rfl

end Sys2Proof.Machine
end

section
/-! SUPPORT. The commands of a protection group (R133 to R135, R148, R149): what each makes of its arguments, and the take of
a command that changes a request list and evaluates the group. -/

namespace Sys2Proof.Machine

/-! ### The notices of an event of one block -/

theorem mixedBlocks_notes (s : State) (b : Block) (ns : List NoticeBody) : mixedBlocks (s.notes b ns) = false := by
  have same : ∀ p ∈ s.notes b ns, p.1 = b := fun p hp => (State.of_mem_notes hp).1
  cases notes : s.notes b ns with
  | nil => rfl
  | cons p rest =>
    rw [notes] at same
    simp only [mixedBlocks, List.any_eq_false, bne_iff_ne, not_not]
    exact fun q hq => (same q (List.mem_cons_of_mem _ hq)).trans (same p (List.mem_cons_self ..)).symm

/-- An event in which one block has raised notices offers those, in their order, and does nothing more (R168). -/
theorem Ev.offer_of_notes {e : Ev} {b : Block} {ns : List NoticeBody} (finished : e.st.image.finished = true)
    (raised : e.raised = e.st.notes b ns) : e.offer = ns.foldl State.notify e.st := by
  have stamped : ∀ n ∈ offeringOrder e.st.choices e.raised,
      n.seconds = e.st.time.seconds ∧ n.frame = e.st.time.frame := fun n hn => by
    obtain ⟨p, hp, rfl⟩ := List.mem_map.mp ((offeringOrder_perm _ _).mem_iff.mp hn)
    exact (State.of_mem_notes (raised ▸ hp)).2
  unfold Ev.offer
  dsimp only
  rw [foldl_offerOne_eq _ finished stamped, raised, offeringOrder_notes finished, mixedBlocks_notes]
  rfl

/-! ### Request commands -/

/-- The evaluation that a request command makes, offered (R133). -/
theorem Ev.evaluateGroup_offer {s : State} (finished : s.image.finished = true) (g : Nat) (r : GroupRec) :
    ((Ev.start s).evaluateGroup g r).offer
      = (r.evaluate g s.time.seconds s.time.frame).2.foldl State.notify
        (s.setGroup g (r.evaluate g s.time.seconds s.time.frame).1) := by
  have st := Ev.evaluateGroup_st g r (Ev.start s)
  have raised := (Ev.setsGroup_evaluate (Ev.start s) g r).raised
  rw [Ev.start_st] at st raised
  rw [Ev.offer_of_notes (b := .protection) (ns := (r.evaluate g s.time.seconds s.time.frame).2) (by rw [st]; exact finished)
    (by rw [raised, st]; rfl), st]

/-- The take of a command that gives a group a request list and evaluates it (R133 to R135). -/
theorem takeCommand_evaluates {code : Byte} {d : Bool} {x : Link} {judge : List Byte → State → Judged} {s : State}
    {args lead : List Byte} {g : Nat} {r : GroupRec} (waits : s.waits x code args) (finished : s.image.finished = true)
    (judged : judge args s = evaluated g r lead s) :
    let out := r.evaluate g s.time.seconds s.time.frame
    takeCommand code d x judge s = .next ((out.2.foldl State.notify (s.setGroup g out.1)).answered x code
      (.done (lead ++ requestResult g out.1))) := by
  have record : ((Ev.start s).evaluateGroup g r).st.group g = (r.evaluate g s.time.seconds s.time.frame).1 := by
    rw [Ev.evaluateGroup_st, State.setGroup_group_self, Ev.start_st]
  rw [takeCommand_waits waits (.inl finished), judged, evaluated]
  dsimp only
  rw [record, Ev.evaluateGroup_offer finished]
  rfl

/-- A request that stands at no rank of an ordered list is inserted between the higher and the lower ranks (R132). -/
theorem insertRequest_eq {q : Request} {l : List Request} (ordered : l.Pairwise (fun p q => q.kind.rank < p.kind.rank))
    (fresh : ∀ p ∈ l, p.kind.rank ≠ q.kind.rank) : insertRequest q l
      = l.filter (fun p => decide (q.kind.rank < p.kind.rank)) ++ [q]
        ++ l.filter (fun p => decide (p.kind.rank < q.kind.rank)) := by
  induction l with
  | nil => rfl
  | cons p rest ih =>
    obtain ⟨below, ordered⟩ := List.pairwise_cons.mp ordered
    have other := fresh p (List.mem_cons_self ..)
    unfold insertRequest
    split
    · rename_i lower
      have lowerRest : ∀ m ∈ rest, m.kind.rank < q.kind.rank := fun m hm => (below m hm).trans lower
      have noHigher : rest.filter (fun m => decide (q.kind.rank < m.kind.rank)) = [] :=
        List.filter_eq_nil_iff.mpr fun m hm => by simpa using (lowerRest m hm).le
      have allLower : rest.filter (fun m => decide (m.kind.rank < q.kind.rank)) = rest :=
        List.filter_eq_self.mpr fun m hm => by simpa using lowerRest m hm
      simp [lower, lower.le, noHigher, allLower]
    · have higher : q.kind.rank < p.kind.rank := by omega
      rw [ih ordered fun m hm => fresh m (List.mem_cons_of_mem _ hm)]
      simp [higher, higher.le]

section Arguments

variable (x : Link) (s : State) (g : GroupNo) {kind : ReqKind}
  (named : kind ∈ [ReqKind.manualWorking, .manualProtect, .forceProtect, .holdWorking])

/-- R135: a group number reads back. -/
theorem judgeWithdrawAll_group : judgeWithdrawAll (byte1 g.val) s =
    if (s.group g.val).settings.isNone then refused s .notDefined
    else evaluated g.val { s.group g.val with requests := [] } (byte1 (s.group g.val).requests.length) s := by
  simp only [judgeWithdrawAll, byte1, byte1_toNat g.val g.isLt]

include named

/-- R133: a group number and a controller kind read back. -/
theorem judgePushRequest_kind : judgePushRequest x (byte1 g.val ++ byte1 kind.code) s =
    let r := s.group g.val
    if r.settings.isNone then refused s .notDefined
    else if r.duplicates kind then refused s .duplicate
    else if kind.isManual && decide (2 < r.governing.rank) then refused s .outranked
    else evaluated g.val (r.push kind x) [] s := by
  simp only [judgePushRequest, byte1, List.cons_append, List.nil_append, byte1_toNat g.val g.isLt,
    controllerKind_code named]

/-- R134: a group number and a controller kind read back. -/
theorem judgeWithdrawRequest_kind : judgeWithdrawRequest (byte1 g.val ++ byte1 kind.code) s =
    let r := s.group g.val
    if r.settings.isNone then refused s .notDefined
    else if r.requests.any (fun q => q.kind == kind) then
      evaluated g.val { r with requests := r.requests.filter (fun q => q.kind != kind) } [] s
    else refused s .notPresent := by
  simp only [judgeWithdrawRequest, byte1, List.cons_append, List.nil_append, byte1_toNat g.val g.isLt,
    controllerKind_code named]

end Arguments

/-- R133, step 4: a list holds a duplicate of a kind. -/
theorem GroupRec.duplicates_iff (r : GroupRec) (kind : ReqKind) : r.duplicates kind = true
    ↔ ∃ q ∈ r.requests, q.kind = kind ∨ kind.isManual = true ∧ q.kind.isManual = true := by
  simp only [GroupRec.duplicates, Bool.or_eq_true, Bool.and_eq_true, List.any_eq_true, beq_iff_eq]
  constructor
  · rintro (⟨q, hq, same⟩ | ⟨manual, q, hq, other⟩)
    · exact ⟨q, hq, .inl same⟩
    · exact ⟨q, hq, .inr ⟨manual, other⟩⟩
  · rintro ⟨q, hq, same | ⟨manual, other⟩⟩
    · exact .inl ⟨q, hq, same⟩
    · exact .inr ⟨manual, q, hq, other⟩

theorem controllerKind_named {kind : ReqKind}
    (named : kind ∈ [ReqKind.manualWorking, .manualProtect, .forceProtect, .holdWorking]) : kind.isController = true :=
  controllerKind_isController (controllerKind_code named)

/-- The list of an accepted push: the request stands at its rank, where the list held none (R132, R133). -/
theorem GroupRec.push_eq {r : GroupRec} {kind : ReqKind} (ordered : requestsOrdered r.requests)
    (controller : kind.isController = true) (fresh : r.duplicates kind = false) (x : Link) :
    r.push kind x = { r with
      requests := r.requests.filter (fun q => decide (kind.rank < q.kind.rank)) ++ [⟨kind, x⟩]
        ++ r.requests.filter (fun q => decide (q.kind.rank < kind.rank)) } := by
  have other : ∀ p ∈ r.requests, p.kind.rank ≠ kind.rank := fun p hp same => by
    refine Bool.eq_false_iff.mp fresh ((r.duplicates_iff kind).mpr ⟨p, hp, ?_⟩)
    exact (ReqKind.eq_or_manual_of_rank (ordered.1 p hp) controller same).imp_right And.symm
  exact congrArg (fun l => { r with requests := l }) (insertRequest_eq (q := ⟨kind, x⟩) ordered.2 other)

/-- The result of a request command, item by item (R133). -/
theorem requestResult_items (lead : List Byte) (g : Nat) (r : GroupRec) : lead ++ requestResult g r
    = lead ++ byte1 g ++ byte1 r.requests.length
      ++ r.requests.flatMap (fun q => byte1 q.kind.code ++ byte1 (linkCode q.origin))
      ++ byte1 r.governing.code ++ byte1 r.selection.code ++ byte2 r.switchCount := by
  simp only [requestResult, requestListBytes, List.append_assoc]

/-- Settles O43: each command gives the group its list and evaluates it (`takeCommand_evaluates`). -/
theorem requestCommandsEvaluateTheGroup : Obligations.RequestCommandsEvaluateTheGroup := by
  intro x s g kind d finished defined ordered named r took
  have isDefined : ¬r.settings.isNone = true := by rw [defined]; exact Bool.false_ne_true
  have taken : ∀ {code : Byte} {judge : List Byte → State → Judged} {args lead : List Byte} {list : List Request},
      s.waits x code args → judge args s = evaluated g.val { r with requests := list } lead s →
      takeCommand code false x judge s = .next (took code list lead) := fun waits judged => by
    rw [takeCommand_evaluates waits finished judged, requestResult_items]
    rfl
  refine ⟨fun waits absent manual => ?_, fun waits present => ?_, fun waits => ?_⟩
  · have fresh : r.duplicates kind = false := Bool.eq_false_iff.mpr fun duplicate => by
      obtain ⟨q, hq, same | ⟨isManual, other⟩⟩ := (r.duplicates_iff kind).mp duplicate
      · exact absent q hq same
      · exact Bool.false_ne_true (((manual isManual).1 q hq).symm.trans other)
    have notOutranked : ¬(kind.isManual && decide (2 < r.governing.rank)) = true := by
      rw [Bool.and_eq_true, decide_eq_true_eq]
      exact fun ⟨isManual, outranked⟩ => absurd (manual isManual).2 (by omega)
    refine taken waits ((judgePushRequest_kind x s g named).trans ?_)
    dsimp only
    rw [if_neg isDefined, if_neg (Bool.eq_false_iff.mp fresh), if_neg notOutranked,
      GroupRec.push_eq ordered (controllerKind_named named) fresh x]
  · refine taken waits ((judgeWithdrawRequest_kind s g named).trans ?_)
    dsimp only
    have listed : r.requests.any (fun q => q.kind == kind) = true := by simpa using present
    have removed : r.requests.filter (fun q => q.kind != kind) = r.requests.filter (fun q => decide (q.kind ≠ kind)) :=
      List.filter_congr fun q _ => by rw [Bool.eq_iff_iff, bne_iff_ne, decide_eq_true_eq]
    rw [if_neg isDefined, if_pos listed, removed]
  · exact taken waits ((judgeWithdrawAll_group s g).trans (if_neg isDefined))

/-- Settles O44: each refusal is the first of its command's tests that fails. -/
theorem requestCommandsRefuseInOrder : Obligations.RequestCommandsRefuseInOrder := by
  intro x s g kind finished named r dup
  have undefined : r.settings = none → r.settings.isNone = true := fun none => by rw [none]; rfl
  have isDefined : r.settings ≠ none → ¬r.settings.isNone = true := fun defined none =>
    defined (Option.isNone_iff_eq_none.mp none)
  have refuses : ∀ {code : Byte} {judge : List Byte → State → Judged} {args : List Byte} {o : RespCode},
      s.waits x code args → judge args s = refused s o →
      takeCommand code false x judge s = .next (s.answered x code ⟨o, false, []⟩) := fun waits judged =>
    takeCommand_refused waits (.inl finished) judged
  have push := judgePushRequest_kind x s g named
  have withdraw := judgeWithdrawRequest_kind s g named
  refine ⟨fun waits => ⟨fun none => ?_, fun defined duplicate => ?_, fun defined fresh manual outranked => ?_⟩,
    fun waits => ⟨fun none => ?_, fun defined absent => ?_⟩, fun waits none => ?_⟩
  · exact refuses waits (push.trans (if_pos (undefined none)))
  · refine refuses waits (push.trans ((if_neg (isDefined defined)).trans (if_pos ?_)))
    exact (r.duplicates_iff kind).mpr duplicate
  · refine refuses waits (push.trans ((if_neg (isDefined defined)).trans ((if_neg ?_).trans (if_pos ?_))))
    · exact fun duplicate => fresh ((r.duplicates_iff kind).mp duplicate)
    · rw [manual, decide_eq_true outranked]
      rfl
  · exact refuses waits (withdraw.trans (if_pos (undefined none)))
  · refine refuses waits (withdraw.trans ((if_neg (isDefined defined)).trans (if_neg ?_)))
    simpa using absent
  · exact refuses waits ((judgeWithdrawAll_group s g).trans (if_pos (undefined none)))

/-! ### Reads and the stamp lock -/

/-- Settles O46: the reads report the record, and the stamp lock is set where the group is defined. -/
theorem groupReadsAndStampLock : Obligations.GroupReadsAndStampLock := by
  intro x s g finished r flag side
  have number := byte1_toNat g.val g.isLt
  have lockArgs : ∀ v : Bool, judgeSetStampLock (byte1 g.val ++ [flag v]) s =
      if r.settings.isNone then refused s .notDefined
      else executed (s.setGroup g.val { r with lock := v, held := v && r.held })
        (.done (byte1 g.val ++ [flag v, flag (v && r.held)] ++ stampBytes r.stamp)) := fun v => by
    have read : flagOf (flag v) = some v := flagOf_flagByte v
    simp only [judgeSetStampLock, byte1, List.cons_append, List.nil_append, number, read]
    rfl
  refine ⟨fun waits => ?_, fun waits => ?_, fun v waits => ⟨fun defined => ?_, fun none => ?_⟩⟩
  · have reported : groupStateResult g.val r = byte1 g.val ++ [flag r.settings.isSome] ++ groupBytes r.settings
        ++ byte1 r.selection.code ++ byte1 r.governing.code ++ byte1 r.requests.length
        ++ r.requests.flatMap (fun q => byte1 q.kind.code ++ byte1 (linkCode q.origin)) ++ side r.working
        ++ side r.protect ++ byte4 r.restore ++ byte2 r.switchCount ++ [flag r.lock, flag r.held] := by
      rw [groupStateResult, requestListBytes, ← List.append_assoc _ (byte1 r.requests.length)]
      rfl
    rw [← reported]
    refine takeCommand_executed waits (.inl finished) ?_
    simp only [judgeReadGroupState, byte1, number]
    rfl
  · refine takeCommand_executed waits (.inl finished) ?_
    simp only [judgeReadStamp, byte1, number]
    rfl
  · refine takeCommand_executed waits (.inl finished) ((lockArgs v).trans (if_neg ?_))
    exact fun none => defined (Option.isNone_iff_eq_none.mp none)
  · exact takeCommand_refused waits (.inl finished) ((lockArgs v).trans (if_pos (by rw [none]; rfl)))

end Sys2Proof.Machine
end

section
/-! SUPPORT. The evaluation of a group (R141 to R147): the candidate is the highest ranked of the requests present, and the
record and the notices that the evaluation leaves, field by field. -/

namespace Sys2Proof.Machine

/-! ### The candidate (R142) -/

/-- R142: the request kinds present at a group: NONE, the top of the list, the condition kinds of both sides, and
RESTORE_WAIT while its timer runs. -/
def GroupRec.presents (r : GroupRec) (restore : Nat) (k : ReqKind) : Prop :=
  k = .noRequest ∨ (∃ q, r.requests.head? = some q ∧ q.kind = k) ∨ conditionKind .working r.working.eff = some k
    ∨ conditionKind .protect r.protect.eff = some k ∨ (restore ≠ 0 ∧ k = .restoreWait)

/-- The higher ranked of some kinds is one of them, and no other ranks above it. -/
theorem foldl_higherKind (l : List ReqKind) (a : ReqKind) : l.foldl higherKind a ∈ a :: l
    ∧ ∀ k ∈ a :: l, k.rank ≤ (l.foldl higherKind a).rank := by
  induction l generalizing a with
  | nil => simp
  | cons b rest ih =>
    obtain ⟨found, highest⟩ := ih (higherKind a b)
    have either : higherKind a b = a ∨ higherKind a b = b := by unfold higherKind; split <;> simp
    have above : a.rank ≤ (higherKind a b).rank ∧ b.rank ≤ (higherKind a b).rank := by
      unfold higherKind; split <;> omega
    have top := highest _ (List.mem_cons_self ..)
    rw [List.foldl_cons]
    refine ⟨?_, fun k hk => ?_⟩
    · rcases List.mem_cons.mp found with first | later
      · rw [first]
        rcases either with same | same <;> simp [same]
      · exact List.mem_cons_of_mem _ (List.mem_cons_of_mem _ later)
    · rcases List.mem_cons.mp hk with rfl | hk
      · omega
      · rcases List.mem_cons.mp hk with rfl | hk
        · omega
        · exact highest k (List.mem_cons_of_mem _ hk)

/-- The kinds that the candidate is chosen from. -/
def GroupRec.candidates (r : GroupRec) : List ReqKind :=
  [(r.requests.head?.map (·.kind)).getD .noRequest, (conditionKind .working r.working.eff).getD .noRequest,
    (conditionKind .protect r.protect.eff).getD .noRequest, if r.restore = 0 then .noRequest else .restoreWait]

theorem eq_getD_iff {α : Type} {o : Option α} {d k : α} (other : k ≠ d) : k = o.getD d ↔ o = some k := by
  cases o with
  | none => simp [other]
  | some a => simp [eq_comm]

theorem GroupRec.mem_candidates (r : GroupRec) (k : ReqKind) :
    k ∈ .noRequest :: r.candidates ↔ r.presents r.restore k := by
  simp only [GroupRec.candidates, GroupRec.presents, List.mem_cons, List.not_mem_nil, or_false]
  refine or_congr_right' fun other => or_congr ((eq_getD_iff other).trans Option.map_eq_some_iff)
    (or_congr (eq_getD_iff other) (or_congr (eq_getD_iff other) ?_))
  split
  · rename_i idle
    exact iff_of_false other fun h => h.1 idle
  · rename_i waits
    exact (and_iff_right waits).symm

/-- R142: the candidate is present, and ranks as high as everything present. -/
theorem GroupRec.candidate_highest (r : GroupRec) : r.presents r.restore r.candidate
    ∧ ∀ k, r.presents r.restore k → k.rank ≤ r.candidate.rank := by
  obtain ⟨found, highest⟩ := foldl_higherKind r.candidates .noRequest
  exact ⟨(r.mem_candidates _).mp found, fun k hk => highest k ((r.mem_candidates k).mpr hk)⟩

/-! ### What the evaluation leaves (R142 to R146) -/

/-- R142: the restore wait with which an evaluation begins. -/
def GroupRec.restoreBefore (d : GroupDef) (r : GroupRec) : Nat :=
  if d.revertive = false ∨ r.selection = .working then 0 else r.restore

theorem GroupRec.settle_eq (d : GroupDef) (r : GroupRec) : r.settle d = { r with restore := r.restoreBefore d } := by
  have same : (!d.revertive || r.selection == .working) = true ↔ d.revertive = false ∨ r.selection = .working := by simp
  unfold GroupRec.settle GroupRec.restoreBefore
  by_cases cancelled : d.revertive = false ∨ r.selection = .working
  · rw [if_pos (same.mpr cancelled), if_pos cancelled]
  · rw [if_neg (mt same.mp cancelled), if_neg cancelled]

/-- R144: the restore wait starts. -/
theorem GroupRec.restoreStarts_iff (d : GroupDef) (cand : ReqKind) (r : GroupRec) : r.restoreStarts d cand = true
    ↔ cand = .noRequest ∧ d.revertive = true ∧ r.selection = .protect
      ∧ (r.governing = .failWorking ∨ r.governing = .degradeWorking) := by
  simp only [GroupRec.restoreStarts, Bool.and_eq_true, Bool.or_eq_true, beq_iff_eq, and_assoc]

theorem ReqKind.isCondition_iff (k : ReqKind) :
    k.isCondition = true ↔ k ∈ [ReqKind.degradeWorking, .degradeProtect, .failWorking, .failProtect] := by
  cases k <;> decide

/-- The record that an evaluation leaves of a settled group, but for a switch (R143 to R145). -/
def GroupRec.obeying (d : GroupDef) (cand : ReqKind) (r : GroupRec) : GroupRec :=
  { r with requests := r.keptRequests cand, restore := r.restoreAfter d cand, governing := r.governed d cand }

/-- R143: the notices of a displaced manual request. -/
def GroupRec.displacedNotices (g : Nat) (cand : ReqKind) (r : GroupRec) : List NoticeBody :=
  (r.displaced cand).map fun q =>
    .requestDisplaced g q.kind q.origin (if cand.isCondition then .defect else .higherRequest)

section Evaluation

variable {r q : GroupRec} {d : GroupDef} {cand : ReqKind} {target : Selection} (defined : r.settings = some d)
  (settled : r.settle d = q) (highest : q.candidate = cand)
  (asked : (q.governed d cand).target d.revertive q.selection = target) (g : Nat) (sec : Word) (fr : Nat)
include defined settled highest asked

/-- The evaluation of a defined group: it obeys its governing request, and switches where that asks for the other side
(R141 to R146). -/
theorem GroupRec.evaluate_eq : r.evaluate g sec fr =
    if target = q.selection then (q.obeying d cand, q.displacedNotices g cand)
    else ((q.obeying d cand).switchTo target (q.governed d cand) sec fr,
      q.displacedNotices g cand ++ [.groupSwitch g q.selection target (.request (q.governed d cand))]) := by
  subst settled highest asked
  unfold GroupRec.evaluate
  rw [defined]
  rfl

/-- The record of an evaluation, whether the group switches or not (R143 to R147). -/
theorem GroupRec.evaluate_record : (r.evaluate g sec fr).1 = { q.obeying d cand with
    selection := target
    switchCount := if target = q.selection then q.switchCount else min (q.switchCount + 1) 65535
    stamp := if q.held = true ∨ target = q.selection then q.stamp
      else some ⟨sec, fr, q.selection, target, q.governed d cand⟩
    held := if target = q.selection then q.held else q.held || q.lock } := by
  rw [GroupRec.evaluate_eq defined settled highest asked]
  split
  · rename_i stays
    rw [if_pos (.inr stays), stays]
    rfl
  · rename_i switches
    simp only [switches, or_false]
    rfl

/-- The notices of an evaluation, REQUEST_DISPLACED before GROUP_SWITCH (R143, R146). -/
theorem GroupRec.evaluate_raised : (r.evaluate g sec fr).2 = q.displacedNotices g cand
    ++ if target = q.selection then [] else [.groupSwitch g q.selection target (.request (q.governed d cand))] := by
  rw [GroupRec.evaluate_eq defined settled highest asked]
  split
  · exact (List.append_nil _).symm
  · rfl

end Evaluation

theorem ReqKind.target_eq (revertive : Bool) (selection : Selection) (k : ReqKind) :
    k.target revertive selection = (match k with
      | .holdWorking | .failProtect | .degradeProtect | .manualWorking => .working
      | .forceProtect | .failWorking | .degradeWorking | .manualProtect | .restoreWait => .protect
      | .noRequest => if revertive then .working else selection) := by
  cases k <;> rfl

/-- R144, R145: the governing request and the restore wait that an evaluation leaves. -/
theorem GroupRec.obeying_governs (d : GroupDef) (cand : ReqKind) (r : GroupRec) :
    (r.restoreStarts d cand = true → (r.obeying d cand).governing = .restoreWait
      ∧ (r.obeying d cand).restore = d.restoreWait * 40000)
    ∧ (¬r.restoreStarts d cand = true → (r.obeying d cand).governing = cand
      ∧ (r.obeying d cand).restore = if 1 < cand.rank then 0 else r.restore) := by
  simp only [GroupRec.obeying, GroupRec.governed, GroupRec.restoreAfter]
  exact ⟨fun starts => ⟨if_pos starts, if_pos starts⟩, fun rests => ⟨if_neg rests, if_neg rests⟩⟩

/-- Settles O45: the candidate is the highest ranked of the requests present (`GroupRec.candidate_highest`), and the group
obeys it (`GroupRec.evaluate_record`, `GroupRec.evaluate_raised`). -/
theorem evaluationObeysTheHighestRequest : Obligations.EvaluationObeysTheHighestRequest := by
  intro g sec fr r d defined out restore present
  obtain ⟨q, hq⟩ : ∃ q, q = { r with restore := restore } := ⟨_, rfl⟩
  have settled : r.settle d = q := (r.settle_eq d).trans hq.symm
  obtain ⟨cand, hc⟩ : ∃ cand, q.candidate = cand := ⟨_, rfl⟩
  obtain ⟨target, ht⟩ : ∃ target, (q.governed d cand).target d.revertive q.selection = target := ⟨_, rfl⟩
  have record : out = _ := GroupRec.evaluate_record defined settled hc ht g sec fr
  have raised := GroupRec.evaluate_raised defined settled hc ht g sec fr
  obtain ⟨found, highest⟩ := q.candidate_highest
  have starts := q.restoreStarts_iff d cand
  obtain ⟨waits, follows⟩ := q.obeying_governs d cand
  have displaced : q.displacedNotices g cand = (if 2 < cand.rank then r.requests.filter (fun q => q.kind.isManual)
      else []).map fun q => .requestDisplaced g q.kind q.origin
        (if cand ∈ [.degradeWorking, .degradeProtect, .failWorking, .failProtect] then .defect else .higherRequest) := by
    rw [GroupRec.displacedNotices, hq]
    simp only [ReqKind.isCondition_iff]
    rfl
  rw [hc] at found highest
  rw [ReqKind.target_eq] at ht
  rw [displaced] at raised
  subst hq
  generalize out = o at *
  subst record
  refine ⟨cand, found, highest, ⟨fun h => waits (starts.mpr h), fun h => follows (mt starts.mp h)⟩, ht.symm, rfl,
    fun h => if_pos h, fun free switches => ⟨?_, ?_⟩, rfl, rfl, rfl, rfl, rfl, raised⟩
  · refine if_neg ?_
    rintro (held | stays)
    · exact Bool.false_ne_true (free.symm.trans held)
    · exact switches stays
  · refine (if_neg switches).trans ?_
    rw [free]
    rfl

end Sys2Proof.Machine
end

section
/-! SUPPORT. A group at a window end (R44, R115, R137): the sources' events, one after the other in ascending order, give it
the record of `GroupRec.meetsWindowEnd`. -/

namespace Sys2Proof.Machine

/-! ### Two sources' changes at one group (R137) -/

/-- A group that meets changes of raw conditions keeps its settings and lock, and of its requests those that its evaluation
has not displaced (R137, R143). -/
theorem GroupRec.meets_evolves (g : Nat) (sec : Word) (fr : Nat) (before after : Nat → Cond) (r : GroupRec) :
    r.Evolves (r.meets g sec fr before after).1 := by
  unfold GroupRec.meets
  cases defined : r.settings with
  | none => exact .refl r
  | some d =>
    dsimp only
    split
    · exact .refl r
    · refine .trans ?_ (GroupRec.evaluate_evolves ..)
      exact ⟨defined.symm, rfl, .refl _, fun none => nomatch defined.symm.trans none⟩

theorem GroupRec.meetsWindowEnd_evolves (g : Nat) (sec : Word) (fr : Nat) (before after : Nat → Cond) (r : GroupRec) :
    r.Evolves (r.meetsWindowEnd g sec fr before after) := by
  unfold GroupRec.meetsWindowEnd
  split
  · exact .refl r
  · exact (GroupRec.meets_evolves ..).trans (GroupRec.meets_evolves ..)

/-- Two assignments of raw conditions give both sources of a group the same. -/
def GroupDef.Alike (d : GroupDef) (raw raw' : Nat → Cond) : Prop :=
  raw d.working = raw' d.working ∧ raw d.protect = raw' d.protect

theorem GroupDef.alike_of (d : GroupDef) {raw raw' : Nat → Cond}
    (h : ∀ n, n = d.working ∨ n = d.protect → raw n = raw' n) : d.Alike raw raw' := ⟨h _ (.inl rfl), h _ (.inr rfl)⟩

section Defined

variable {r : GroupRec} {d : GroupDef} (defined : r.settings = some d) (g : Nat) (sec : Word) (fr : Nat)
include defined

/-- A group reads the raw conditions of its own sources only (R137). -/
theorem GroupRec.meets_congr {before before' after after' : Nat → Cond} (hb : d.Alike before before')
    (ha : d.Alike after after') : r.meets g sec fr before after = r.meets g sec fr before' after' := by
  unfold GroupRec.meets
  rw [defined]
  dsimp only
  rw [hb.1, hb.2, ha.1, ha.2]

theorem GroupRec.meets_of_alike {before after : Nat → Cond} (h : d.Alike before after) :
    r.meets g sec fr before after = (r, []) := by
  rw [GroupRec.meets_congr defined g sec fr h ⟨rfl, rfl⟩, GroupRec.meets_same]

/-- A window end at a defined group: the change of the lower source, up to some raw conditions, then that of the other. -/
theorem GroupRec.meetsWindowEnd_via {before between after : Nat → Cond}
    (lower : between (min d.working d.protect) = after (min d.working d.protect))
    (upper : ∀ n, n = d.working ∨ n = d.protect → n ≠ min d.working d.protect → between n = before n) :
    r.meetsWindowEnd g sec fr before after
      = ((r.meets g sec fr before between).1.meets g sec fr between after).1 := by
  have alike : d.Alike (fun n => if n = min d.working d.protect then after n else before n) between :=
    d.alike_of fun n own => by
      split
      · rename_i low
        rw [low, lower]
      · rename_i other
        exact (upper n own other).symm
  unfold GroupRec.meetsWindowEnd
  rw [defined]
  dsimp only
  rw [GroupRec.meets_congr defined g sec fr (d.alike_of fun _ _ => rfl) alike,
    GroupRec.meets_congr ((GroupRec.meets_evolves ..).settings.trans defined) g sec fr alike (d.alike_of fun _ _ => rfl)]

theorem GroupRec.meetsWindowEnd_congr {before after after' : Nat → Cond} (alike : d.Alike after after') :
    r.meetsWindowEnd g sec fr before after = r.meetsWindowEnd g sec fr before after' := by
  have same : after (min d.working d.protect) = after' (min d.working d.protect) := by
    rcases min_choice d.working d.protect with low | low
    · rw [low]; exact alike.1
    · rw [low]; exact alike.2
  have between : (fun n => if n = min d.working d.protect then after n else before n)
      = fun n => if n = min d.working d.protect then after' n else before n := funext fun n => by
    split
    · rename_i low
      rw [low, same]
    · rfl
  unfold GroupRec.meetsWindowEnd
  rw [defined]
  dsimp only
  rw [between, GroupRec.meets_congr ((GroupRec.meets_evolves ..).settings.trans defined) g sec fr
    (d.alike_of fun _ _ => rfl) alike]

/-- Where the lower source alone has changed, a window end is its change. -/
theorem GroupRec.meetsWindowEnd_lower {before after : Nat → Cond}
    (upper : ∀ n, n = d.working ∨ n = d.protect → n ≠ min d.working d.protect → after n = before n) :
    r.meetsWindowEnd g sec fr before after = (r.meets g sec fr before after).1 := by
  rw [GroupRec.meetsWindowEnd_via defined g sec fr rfl upper, GroupRec.meets_same]

end Defined

/-- The raw conditions when the sources below a number have ended their windows. -/
def endedBelow (before after : Nat → Cond) (n : Nat) : Nat → Cond := fun m => if m < n then after m else before m

theorem endedBelow_of_lt {before after : Nat → Cond} {n m : Nat} (h : m < n) : endedBelow before after n m = after m :=
  if_pos h

theorem endedBelow_of_le {before after : Nat → Cond} {n m : Nat} (h : n ≤ m) : endedBelow before after n m = before m :=
  if_neg (Nat.not_lt.mpr h)

theorem endedBelow_succ_of_ne {before after : Nat → Cond} {n m : Nat} (h : m ≠ n) :
    endedBelow before after (n + 1) m = endedBelow before after n m := by
  unfold endedBelow
  exact if_congr (by omega) rfl rfl

/-- The next source's change takes a group's window end further (R137). -/
theorem GroupRec.meetsWindowEnd_succ (g : Nat) (sec : Word) (fr : Nat) (before after : Nat → Cond) (n : Nat)
    (r : GroupRec) :
    ((r.meetsWindowEnd g sec fr before (endedBelow before after n)).meets g sec fr (endedBelow before after n)
      (endedBelow before after (n + 1))).1 = r.meetsWindowEnd g sec fr before (endedBelow before after (n + 1)) := by
  cases defined : r.settings with
  | none => simp only [GroupRec.meetsWindowEnd, GroupRec.meets, defined]
  | some d =>
    have least : ∀ m, m = d.working ∨ m = d.protect → min d.working d.protect ≤ m := by omega
    have ended : ∀ before' after', (r.meets g sec fr before' after').1.settings = some d := fun _ _ =>
      (GroupRec.meets_evolves ..).settings.trans defined
    by_cases own : n = d.working ∨ n = d.protect
    · have others : ∀ m, m = d.working ∨ m = d.protect → m ≠ min d.working d.protect →
          endedBelow before after n m = before m := fun m hm high => endedBelow_of_le (by omega)
      rw [GroupRec.meetsWindowEnd_lower defined g sec fr others]
      by_cases low : n = min d.working d.protect
      · have unended : d.Alike (endedBelow before after n) before :=
          d.alike_of fun m hm => endedBelow_of_le (low ▸ least m hm)
        rw [GroupRec.meets_of_alike defined g sec fr ⟨unended.1.symm, unended.2.symm⟩,
          GroupRec.meets_congr defined g sec fr unended (d.alike_of fun _ _ => rfl),
          GroupRec.meetsWindowEnd_lower defined g sec fr fun m hm high => endedBelow_of_le (by have := least m hm; omega)]
      · have below : min d.working d.protect < n := lt_of_le_of_ne (least n own) (Ne.symm low)
        exact (GroupRec.meetsWindowEnd_via defined g sec fr (endedBelow_succ_of_ne below.ne).symm others).symm
    · have alike : d.Alike (endedBelow before after n) (endedBelow before after (n + 1)) :=
        d.alike_of fun m hm => (endedBelow_succ_of_ne fun same : m = n => own (same ▸ hm)).symm
      rw [GroupRec.meetsWindowEnd_congr defined g sec fr alike,
        GroupRec.meets_of_alike ((GroupRec.meetsWindowEnd_evolves ..).settings.trans defined) g sec fr alike]

/-! ### The sources of a window end, one after the other (R44) -/

/-- An event of one source gives it its raw condition, and every group meets that change (R137). -/
theorem Settled.event_single (t : State) (n : Nat) (after : Nat → Cond) (v : Settled) :
    (v.event t [n] after).raw = Function.update v.raw n (after n)
      ∧ ∀ g, (v.event t [n] after).group g = ((v.group g).meets g t.time.seconds t.time.frame v.raw
        (Function.update v.raw n (after n))).1 := by
  by_cases same : v.raw n = after n
  · rw [Settled.event_of_unchanged t fun m hm => by rw [List.mem_singleton.mp hm, same], ← same, Function.update_eq_self]
    exact ⟨rfl, fun g => by rw [GroupRec.meets_same]⟩
  · have changed : [n].filter (fun m => v.raw m != after m) = [n] := by simp [same]
    have raw : (fun m => if m ∈ [n] then after m else v.raw m) = Function.update v.raw n (after n) := funext fun m => by
      by_cases own : m = n
      · subst m; simp
      · simp [own]
    rw [Settled.event_eq t changed raw, if_neg (List.cons_ne_nil _ _)]
    exact ⟨rfl, fun g => rfl⟩

/-- When the sources below a number have ended their windows, the next one ends its own. -/
theorem endedBelow_update (before after : Nat → Cond) (n : Nat) :
    Function.update (endedBelow before after n) n (after n) = endedBelow before after (n + 1) := funext fun m => by
  by_cases own : m = n
  · rw [own, Function.update_self, endedBelow_of_lt (Nat.lt_succ_self n)]
  · rw [Function.update_of_ne own, endedBelow_succ_of_ne own]

/-- Sources that keep their raw conditions make no difference. -/
theorem endedBelow_eq {before after : Nat → Cond} {k n : Nat} (le : k ≤ n)
    (kept : ∀ m, k ≤ m → m < n → before m = after m) : endedBelow before after k = endedBelow before after n :=
  funext fun m => by
    by_cases low : m < k
    · rw [endedBelow_of_lt low, endedBelow_of_lt (low.trans_le le)]
    · rw [endedBelow_of_le (Nat.not_lt.mp low)]
      by_cases ended : m < n
      · rw [endedBelow_of_lt ended, kept m (Nat.not_lt.mp low) ended]
      · rw [endedBelow_of_le (Nat.not_lt.mp ended)]

/-- The sources from a number on end their windows in ascending order, and every group meets their changes as R137 says;
a source that is not listed keeps its raw condition. -/
theorem Settled.foldl_event_group (t : State) {before after : Nat → Cond} (g : Nat) (r : GroupRec) {sources : List Nat}
    (ascending : sources.Pairwise (· < ·)) {k : Nat} (least : ∀ n ∈ sources, k ≤ n)
    (kept : ∀ n, k ≤ n → n ∉ sources → before n = after n) {v : Settled} (raw : v.raw = endedBelow before after k)
    (group : v.group g = r.meetsWindowEnd g t.time.seconds t.time.frame before (endedBelow before after k)) :
    (sources.foldl (fun v n => v.event t [n] after) v).group g
      = r.meetsWindowEnd g t.time.seconds t.time.frame before after := by
  induction sources generalizing k v with
  | nil =>
    have all : endedBelow before after k = after := funext fun m => by
      by_cases low : m < k
      · exact endedBelow_of_lt low
      · exact (endedBelow_of_le (Nat.not_lt.mp low)).trans (kept m (Nat.not_lt.mp low) (List.not_mem_nil))
    rw [List.foldl_nil, group, all]
  | cons n rest ih =>
    obtain ⟨above, ascending⟩ := List.pairwise_cons.mp ascending
    have skip : endedBelow before after k = endedBelow before after n :=
      endedBelow_eq (least n (List.mem_cons_self ..)) fun m low high => kept m low fun listed => by
        rcases List.mem_cons.mp listed with rfl | later
        · omega
        · have := above m later; omega
    obtain ⟨raw', group'⟩ := v.event_single t n after
    rw [skip] at raw group
    rw [raw, endedBelow_update] at raw' group'
    refine ih ascending (fun m hm => above m hm) (fun m high unlisted => kept m ?_ ?_) raw' ?_
    · have := least n (List.mem_cons_self ..); omega
    · exact fun listed => (List.mem_cons.mp listed).elim (fun same => by omega) unlisted
    · rw [group' g, group, GroupRec.meetsWindowEnd_succ]

/-- The keys of a canonical table rise strictly. -/
theorem Table.keys_ascending {α : Type} [DecidableEq α] {d : α} {t : Table α} (h : t.wf d = true) :
    t.keys.Pairwise (· < ·) := by
  have sorted : ∀ l : List (Nat × α), risingKeys l = true → (l.map (·.1)).Pairwise (· < ·) := fun l hl => by
    induction l with
    | nil => exact .nil
    | cons p rest ih =>
      simp only [risingKeys, Bool.and_eq_true, List.all_eq_true, decide_eq_true_eq] at hl
      refine .cons (fun k hk => ?_) (ih hl.2)
      obtain ⟨q, hq, rfl⟩ := List.mem_map.mp hk
      exact hl.1 q hq
  simp only [Table.wf, Bool.and_eq_true] at h
  exact sorted t.entries h.1

/-- A window end at a group, where the sources without a store keep their raw conditions (R44, R137). -/
theorem Settled.windowEnd_group {s t : State} (ends : s.endsWindow) (wf : t.stores.wf Store.reset = true)
    (v : Settled) (kept : ∀ n, (t.store n).state = .idle → v.raw n = (t.defect n).raw) (g : Nat) :
    (v.windowEnd s t).group g = (v.group g).meetsWindowEnd g t.time.seconds t.time.frame v.raw
      (fun n => (t.defect n).raw) := by
  have start : endedBelow v.raw (fun n => (t.defect n).raw) 0 = v.raw := funext fun n => endedBelow_of_le (Nat.zero_le n)
  rw [Settled.windowEnd_eq ends]
  refine Settled.foldl_event_group t g (v.group g) (Table.keys_ascending wf) (k := 0) (fun _ _ => Nat.zero_le _)
    (fun n _ unlisted => kept n ?_) start.symm (by rw [start, GroupRec.meetsWindowEnd_same])
  rw [State.store, Table.get_of_not_mem _ _ _ unlisted]
  rfl

/-- A source whose store is IDLE after a window end has the raw condition that the boundary handed on (R44). -/
theorem State.boundary_windowKept {s : State} {c : BoundaryCause} (makes : s.makesBoundary c) (ends : s.endsWindow)
    (wf : s.stores.wf Store.reset = true) {n : Nat} (idle : ((s.boundary c).store n).state = .idle) :
    (s.boundary c).defect n = s.defectNext n := by
  by_cases handed : (s.storeNext n).state = .idle
  · exact (State.boundary_windowIdle makes ends wf handed).2.2
  · refine absurd ?_ handed
    have store := (State.boundary_windowBusy makes ends wf handed).1
    rw [store] at idle
    exact ((s.storeNext n).decide_keeps s.rate.j).2.mp idle

/-! ### An adoption's groups (R150 to R153) -/

/-- A group that an adoption keeps has the new settings, its lock, and of its requests those that no evaluation has
displaced (R143, R150, R153). -/
theorem State.groupNext_kept {s : State} {g : Nat} {o d : GroupDef} (old : s.activeBank.groupDef g = some o)
    (new : s.bankNext.groupDef g = some d) (same : o.width = d.width ∧ o.working = d.working ∧ o.protect = d.protect)
    (sec : Word) (fr : Nat) : (s.groupNext sec fr g).1.settings = some d
      ∧ (s.groupNext sec fr g).1.lock = (s.group g).lock
      ∧ (s.groupNext sec fr g).1.requests.Sublist (s.group g).requests := by
  unfold State.groupNext
  rw [old, new]
  dsimp only
  rw [if_pos same]
  have counted := (s.group g).countTimers_evolves (s.group g)
  rw [GroupRec.countTimers_eq] at counted
  refine ⟨GroupRec.evaluate_settings .., (GroupRec.evaluate_lock ..).trans counted.lock, ?_⟩
  exact ((GroupRec.evaluate_evolves ..).requests).trans counted.requests

/-- What an adoption settles of a group and of the raw conditions, whether start-up had finished or not. -/
theorem State.settledAdoption_started (s t : State) :
    let v := if s.image.finished then s.settledAdoption t else { s.settledAdoption t with monitor := [], protection := [] }
    v.group = (fun g => (s.groupNext t.time.seconds t.time.frame g).1) ∧ v.raw = fun n => (s.defectNext n).raw := by
  dsimp only
  split <;> exact ⟨rfl, rfl⟩

/-- Settles O31: an adoption settles the groups (`State.boundary_adoptionReaches`), which then meet the changes of a window
end (`Settled.windowEnd_group`). -/
theorem adoptionReconcilesGroups : Obligations.AdoptionReconcilesGroups := by
  intro s c p makes pending canonical
  have reaches := State.boundary_adoptionReaches makes pending canonical
  refine ⟨s.boundary c, (State.BoundaryRow.adoption p pending).exec_eq makes, fun g => ?_⟩
  have group := reaches.groups g
  obtain ⟨settled, raw⟩ := s.settledAdoption_started (s.boundary c)
  rw [State.settledAt_of_some pending] at group
  generalize (if s.image.finished = true then s.settledAdoption (s.boundary c)
    else { s.settledAdoption (s.boundary c) with monitor := [], protection := [] }) = v at *
  have runs : ¬s.endsWindow → (s.boundary c).group g
      = (s.groupNext (s.boundary c).time.seconds (s.boundary c).time.frame g).1 := fun runs => by
    rw [group, Settled.windowEnd_of_not runs, settled]
  have ends : s.endsWindow → (s.boundary c).group g
      = (s.groupNext (s.boundary c).time.seconds (s.boundary c).time.frame g).1.meetsWindowEnd g
        (s.boundary c).time.seconds (s.boundary c).time.frame (fun n => (s.defectNext n).raw)
        (fun n => ((s.boundary c).defect n).raw) := fun ends => by
    rw [group, Settled.windowEnd_group ends (canonical.boundary c).stores v fun n idle => by
      rw [raw, State.boundary_windowKept makes ends canonical.stores idle], settled, raw]
  refine ⟨runs, ends, fun o d old new same => ?_⟩
  have next : s.bankNext.groupDef g = some d := by rw [State.bankNext_of_some pending]; exact new
  obtain ⟨settings, lock, requests⟩ := State.groupNext_kept old next same (s.boundary c).time.seconds
    (s.boundary c).time.frame
  by_cases window : s.endsWindow
  · have evolves := GroupRec.meetsWindowEnd_evolves g (s.boundary c).time.seconds (s.boundary c).time.frame
      (fun n => (s.defectNext n).raw) (fun n => ((s.boundary c).defect n).raw)
      (s.groupNext (s.boundary c).time.seconds (s.boundary c).time.frame g).1
    rw [ends window]
    exact ⟨evolves.settings.trans settings, evolves.lock.trans lock, evolves.requests.trans requests⟩
  · rw [runs window]
    exact ⟨settings, lock, requests⟩

end Sys2Proof.Machine
end

section
/-! SUPPORT. A boundary without an adoption, whole: the group timers it counts, with or without a window end or a pending
exponent at the same boundary, and the notices it offers (R49, R113, R140, R141, R168). -/

namespace Sys2Proof.Machine

/-! ### The timers before the decisions (R140) -/

/-- A restart of windows keeps every raw condition (R116). -/
theorem State.applyExponent_raw (s : State) (n : Nat) : (s.applyExponent.defect n).raw = (s.defect n).raw := by
  rw [State.applyExponent_defect]
  split <;> rfl

section Idle

variable {s : State} (idle : s.pendingAct = none) (timing : Option Bool)
include idle

/-- Where nothing is adopted, a boundary up to its decisions counts the timers, after a pending exponent. -/
theorem Ev.beforeDecisions_idle : (Ev.start s).beforeDecisions timing
    = (((Ev.start s).beginTiming timing).modify State.applyExponent).countTimers s s.timersFirst := by
  unfold Ev.beforeDecisions Ev.adoptOrCount
  rw [Ev.start_st, idle]

/-- What comes before the decisions is settled by the timers counted first, whether windows restart or not. -/
theorem Ev.beforeDecisions_timers (wf : s.groups.wf GroupRec.reset = true) :
    ((Ev.start s).beforeDecisions timing).own.TracksIn s.beginBoundary
      (s.settled.countTimers s s.beginBoundary s.timersFirst) := by
  have begun : (Ev.start s.beginBoundary).TracksIn s.beginBoundary s.settled := ⟨.start s.beginBoundary, .refl _, wf⟩
  have rest := s.beginBoundary.applyExponent_rest
  have applied : ((Ev.start s.beginBoundary).modify State.applyExponent).TracksIn s.beginBoundary s.settled :=
    begun.modify (State.applyExponent_raw s.beginBoundary) (congrArg State.groups rest :) (congrArg State.watches rest :)
      (congrArg State.patterns rest :) (congrArg State.time rest :) (congrArg State.image rest :)
      (congrArg State.active rest :) (congrArg State.banks rest :)
  have two : Ev.OfTwoBlocks (fun e => (e.modify State.applyExponent).countTimers s s.timersFirst) :=
    (Ev.OfTwoBlocks.modify _).comp (Ev.countTimers_ofTwoBlocks s s.timersFirst)
  rw [Ev.beforeDecisions_idle idle, (two _).1, Ev.beginTiming_own]
  exact applied.countTimers s s.timersFirst

end Idle

/-- At a boundary that is no window end every group's timers are counted before it. -/
theorem State.timersFirst_of_not {s : State} (runs : ¬s.endsWindow) (g : Nat) : s.timersFirst g = true := by
  have next : s.windowEndsNext = false := Bool.eq_false_iff.mpr (mt s.windowEndsNext_iff.mp runs)
  rw [State.timersFirst, next]
  rfl

/-- Counting the timers of no group settles nothing. -/
theorem Settled.countTimers_none (s t : State) {which : Nat → Bool} (none : ∀ g, which g = false) (v : Settled) :
    v.countTimers s t which = v := by
  have empty : t.groups.keys.flatMap (fun _ => ([] : List NoticeBody)) = [] := List.flatMap_eq_nil_iff.mpr fun _ _ => rfl
  unfold Settled.countTimers
  simp only [none, Bool.false_eq_true, if_false, empty, List.append_nil]

/-- At a boundary that is neither an adoption nor a window end, the timers are all that is settled (R140). -/
theorem State.settledAt_timers {s : State} (idle : s.pendingAct = none) (runs : ¬s.endsWindow) (t : State) :
    s.settledAt t s.timersFirst = s.settled.countTimers s t s.timersFirst := by
  rw [State.settledAt_of_none idle, Settled.windowEnd_of_not runs, Settled.countTimers_none]
  exact fun g => by rw [State.timersFirst_of_not runs]; rfl

/-! ### The groups of a boundary that is no window end -/

/-- A boundary that is no window end leaves the groups as they were before its decisions. -/
theorem State.boundary_groups_of_not {s : State} {c : BoundaryCause} {t : Timebase} (h : s.time.boundaryAt c = some t)
    (runs : ¬s.endsWindow) :
    (s.boundary c).groups = ((Ev.start (s.atCause t)).beforeDecisions (s.time.timingAt c)).st.groups := by
  have next : ¬(s.atCause t).windowEndsNext = true := mt (s.atCause t).windowEndsNext_iff.mp runs
  rw [State.boundary_eq h, Ev.boundary_eq, Ev.offer_groups, Ev.closeBoundary, Ev.start_st, if_neg next]
  exact (congrArg State.groups (State.decideStores_rest _) :)

/-- At a boundary that is neither an adoption nor a window end, a group's timers are counted, and that is all (R140). -/
theorem State.boundary_group_ticks {s : State} {c : BoundaryCause} (makes : s.makesBoundary c) (idle : s.pendingAct = none)
    (runs : ¬s.endsWindow) (wf : s.groups.wf GroupRec.reset = true) (g : Nat) : (s.boundary c).group g
      = ((s.group g).tick g (s.boundary c).time.seconds (s.boundary c).time.frame (s.group g)).1 := by
  have at' := State.boundaryAt_of_makes makes
  have counted := Ev.beforeDecisions_timers (s := s.atCause (s.timeAtCause c)) idle (s.time.timingAt c) wf
  have time : (s.boundary c).time = (s.atCause (s.timeAtCause c)).beginBoundary.time := by
    rw [State.boundary_eq at', Ev.offer_time, (Ev.boundary_closes _ _).time]
    exact counted.entries.time
  have first : (s.atCause (s.timeAtCause c)).timersFirst g = true :=
    State.timersFirst_of_not (s := s.atCause (s.timeAtCause c)) runs g
  rw [State.group, State.boundary_groups_of_not at' runs, time]
  refine (counted.tracks.group g).trans ?_
  unfold Settled.countTimers
  dsimp only
  rw [first]
  rfl

/-- A group none of whose timers expires is counted, and one with an expiry is counted and evaluated once (R140, R141). -/
theorem GroupRec.tick_self (g : Nat) (sec : Word) (fr : Nat) (r : GroupRec) :
    let expires := r.working.timer = 1 ∨ r.protect.timer = 1 ∨ r.restore = 1
    (r.settings = none → (r.tick g sec fr r).1 = r)
      ∧ (r.settings ≠ none → ¬expires → (r.tick g sec fr r).1 = r.counted r)
      ∧ (r.settings ≠ none → expires → (r.tick g sec fr r).1 = ((r.counted r).evaluate g sec fr).1) := by
  have runs : ∀ n : Nat, (n ≠ 0 ∧ n = 1) ↔ n = 1 := by omega
  have same : r.expires r ↔ r.working.timer = 1 ∨ r.protect.timer = 1 ∨ r.restore = 1 :=
    or_congr (runs _) (or_congr (runs _) (runs _))
  refine ⟨fun none => by rw [GroupRec.tick_undefined g sec fr r none], fun _ rests => ?_, fun defined expires => ?_⟩
  · rw [GroupRec.tick, if_neg fun h => rests (same.mp h.2)]
  · rw [GroupRec.tick, if_pos ⟨defined, same.mpr expires⟩]

/-! ### The notices of such a boundary (R168) -/

section Idle

variable {s : State} (idle : s.pendingAct = none) (timing : Option Bool)
include idle

/-- Where nothing is adopted, the Core Timebase alone raises notices beside the two blocks', and none before start-up has
finished. -/
theorem Ev.idle_foreign :
    ∀ q ∈ ((Ev.start s).boundary timing).foreign, s.image.finished = true ∧ 4 ≤ q.2.body.kindCode := by
  intro q hq
  rw [Ev.boundary_eq, (Ev.closeBoundary_ofTwoBlocks _ _).2, (Ev.OfTwoBlocks.modify _ _).2, Ev.beforeDecisions_idle idle,
    (Ev.countTimers_ofTwoBlocks _ _ _).2, (Ev.OfTwoBlocks.modify _ _).2] at hq
  exact Ev.beginTiming_foreign timing s q hq

/-- Where nothing is adopted, a boundary leaves links, time and image store as its beginning has left them. -/
theorem Ev.idle_raises : Ev.Raises [] ((Ev.start s).beginTiming timing) ((Ev.start s).boundary timing) := by
  have rest := ((Ev.start s).beginTiming timing).st.applyExponent_rest
  have applied : Ev.Raises [] ((Ev.start s).beginTiming timing)
      (((Ev.start s).beginTiming timing).modify State.applyExponent) :=
    .modify _ (congrArg State.linkA rest :) (congrArg State.linkB rest :) (congrArg State.image rest :)
      (congrArg State.time rest :)
  have counted : Ev.Raises [] ((Ev.start s).beginTiming timing) ((Ev.start s).beforeDecisions timing) := by
    rw [Ev.beforeDecisions_idle idle]
    exact applied.trans (.of_quiet (Ev.countTimers_quiet _ _ _))
  exact counted.trans (Ev.boundary_closes s timing)

theorem Ev.idle_image : ((Ev.start s).boundary timing).st.image = s.image := by
  rw [(Ev.idle_raises idle timing).image, Ev.beginTiming_st]
  rfl

/-- Where nothing is adopted, a boundary's event leaves the links as their notices have waited (R169, R172). -/
theorem Ev.idle_link (x : Link) : ((Ev.start s).boundary timing).st.link x = (s.link x).waited := by
  rw [(Ev.idle_raises idle timing).link, Ev.beginTiming_st]
  exact s.beginBoundary_link x

end Idle

/-- Where a boundary does not finish start-up, its notices follow those that waited. -/
theorem State.beforeNotices_link {s t : State} (image : t.image = s.image) (x : Link) :
    (s.beforeNotices t).link x = (s.link x).waited := by
  cases finished : s.image.finished with
  | true =>
    rw [State.beforeNotices_of_finished finished]
    cases x <;> rfl
  | false => rw [State.beforeNotices_link_of_unfinished finished, image, finished]

/-- The notices of a boundary's event without an adoption (R168). -/
theorem Ev.idle_offered {s : State} (idle : s.pendingAct = none) (timing : Option Bool) {v : Settled}
    (own : ((Ev.start s).boundary timing).own.HasRaised v.monitor v.protection) :
    (s.beforeNotices ((Ev.start s).boundary timing).offer).Offered ((Ev.start s).boundary timing).offer v
      (if s.image.finished = true then timingNotices timing else []) := by
  have foreign := Ev.idle_foreign idle timing
  have same := Ev.idle_image idle timing
  obtain ⟨time, image⟩ := s.beforeNotices_rest ((Ev.start s).boundary timing).offer
  rw [Ev.offer_time] at time
  rw [Ev.offer_image] at image
  have links : ∀ x, ((Ev.start s).boundary timing).st.link x
      = (s.beforeNotices ((Ev.start s).boundary timing).offer).link x := fun x => by
    rw [Ev.idle_link idle, State.beforeNotices_link (by rw [Ev.offer_image, same])]
  cases finished : s.image.finished with
  | true =>
    have raised := Ev.boundary_raises (timing := timing) finished
    have others : timingNotices timing ++ s.adoptionNotices = timingNotices timing := by
      rw [State.adoptionNotices, idle]
      exact List.append_nil _
    refine Ev.offered own (fun q hq => (foreign q hq).2) (raised.stamped fun _ h => nomatch h) ?_
      (by rw [same, finished]) links time.symm image.symm
    exact raised.high.trans others
  | false =>
    rw [Ev.own_of_foreign_nil fun q hq => nomatch finished.symm.trans (foreign q hq).1] at own
    exact own.offered_of_not_finished links rfl rfl image.symm (by rw [same, finished])

/-- What is settled at a boundary that is neither an adoption nor a window end reads the site time and the groups listed. -/
theorem State.settledAt_congr_of_timers {s t t' : State} (idle : s.pendingAct = none) (runs : ¬s.endsWindow)
    (entries : t.SameEntries t') : s.settledAt t' s.timersFirst = s.settledAt t s.timersFirst := by
  rw [State.settledAt_timers idle runs, State.settledAt_timers idle runs, Settled.countTimers_congr entries]

/-- A boundary that is neither an adoption nor a window end, up to the offering of its notices (R140). -/
theorem Ev.idle_tracks {s : State} (idle : s.pendingAct = none) (runs : ¬s.endsWindow) (canonical : s.Canonical)
    (timing : Option Bool) :
    ((Ev.start s).boundary timing).own.Tracks (s.settledAt ((Ev.start s).boundary timing).st s.timersFirst) := by
  have counted := (Ev.beforeDecisions_timers idle timing canonical.groups).decideAndCount (s0 := s)
    (Ev.beforeDecisions_stores_wf timing canonical.stores) runs (s.selectionBefore s.pendingAct)
  have whole := Ev.boundary_eq timing (Ev.start s)
  rw [Ev.start_st] at whole
  rw [← whole] at counted
  have entries : s.beginBoundary.SameEntries ((Ev.start s).boundary timing).st := counted.entries
  rw [State.settledAt_congr_of_timers idle runs entries, State.settledAt_timers idle runs]
  exact counted.tracks

/-- An event that has offered its notices has reached what it had brought the two blocks to (R168). -/
theorem Ev.Tracks.reaches_offered {e : Ev} {v : Settled} {before : State} {others : List NoticeBody}
    (tracked : e.own.Tracks v) (offered : before.Offered e.offer v others) : before.Reaches e.offer v others where
  groups g := by rw [State.group, Ev.offer_groups]; exact tracked.group g
  watches n := by rw [State.watch, Ev.offer_watches]; exact tracked.watch n
  patterns p := by rw [State.pattern, Ev.offer_patterns]; exact tracked.pattern p
  notices := offered

/-- A boundary that is neither an adoption nor a window end reaches groups, watches, pattern sets and links (R140, R168). -/
theorem State.boundary_timersReach {s : State} {c : BoundaryCause} (makes : s.makesBoundary c) (idle : s.pendingAct = none)
    (runs : ¬s.endsWindow) (canonical : s.Canonical) : (s.beforeNotices (s.boundary c)).Reaches (s.boundary c)
      (s.settledAt (s.boundary c) (s.atCause (s.timeAtCause c)).timersFirst) (s.boundaryNotices c) := by
  have begun : (s.atCause (s.timeAtCause c)).pendingAct = none := idle
  have whole := State.boundary_eq (State.boundaryAt_of_makes makes)
  have tracked := Ev.idle_tracks begun runs (canonical.atCause _) (s.time.timingAt c)
  have offered := Ev.idle_offered begun (s.time.timingAt c) tracked.raised
  have others : (if s.image.finished = true then timingNotices (s.time.timingAt c) else []) = s.boundaryNotices c := by
    split
    · rename_i finished
      rw [State.boundaryNotices_eq c finished, State.adoptionNotices, idle]
      exact (List.append_nil _).symm
    · exact (if_neg ‹_›).symm
  have reached := tracked.reaches_offered (others ▸ offered)
  rw [← State.settledAt_congr_of_timers begun runs (Ev.offer_sameEntries _), ← whole] at reached
  exact reached

/-- What the timers' counts settle of a group. -/
theorem Settled.countTimers_group (s t : State) (which : Nat → Bool) (v : Settled) (g : Nat) :
    (v.countTimers s t which).group g
      = if which g then ((s.group g).tick g t.time.seconds t.time.frame (v.group g)).1 else v.group g := by
  unfold Settled.countTimers
  dsimp only
  split <;> rfl

/-- At a window end without an adoption, a group's timers are counted before its sources' changes or after them (R140). -/
theorem State.settledAt_group {s t : State} (idle : s.pendingAct = none) (ends : s.endsWindow)
    (wf : t.stores.wf Store.reset = true) (kept : ∀ n, (t.store n).state = .idle → (t.defect n).raw = (s.defect n).raw)
    (first : Nat → Bool) (g : Nat) :
    let tick : GroupRec → GroupRec := fun q => ((s.group g).tick g t.time.seconds t.time.frame q).1
    let meet : GroupRec → GroupRec := fun q =>
      q.meetsWindowEnd g t.time.seconds t.time.frame (fun n => (s.defect n).raw) (fun n => (t.defect n).raw)
    (s.settledAt t first).group g = if first g then meet (tick (s.group g)) else tick (meet (s.group g)) := by
  have raw : (s.settled.countTimers s t first).raw = fun n => (s.defect n).raw := rfl
  have ended := Settled.windowEnd_group ends wf (s.settled.countTimers s t first)
    (fun n unstored => (kept n unstored).symm) g
  rw [raw, Settled.countTimers_group] at ended
  dsimp only
  rw [State.settledAt_of_none idle, Settled.countTimers_group, ended]
  cases first g <;> rfl

/-- Settles O28: the timers are those of `State.boundary_group_ticks`, and with a window end `State.settledAt_group` says
what reaches the groups (`State.boundary_windowReaches`, `State.boundary_timersReach`). -/
theorem groupTimersCountAtBoundaries : Obligations.GroupTimersCountAtBoundaries := by
  intro s c i makes row idle wf
  refine ⟨s.boundary c, row.exec_eq makes, fun runs g => ?_, fun canonical =>
    ⟨(s.atCause (s.timeAtCause c)).timersFirst, fun runs g => ?_, fun ends g => ?_, ?_⟩⟩
  · have ticks := State.boundary_group_ticks makes idle runs wf g
    dsimp only
    rw [ticks]
    exact GroupRec.tick_self ..
  · exact State.timersFirst_of_not (s := s.atCause (s.timeAtCause c)) runs g
  · dsimp only
    rw [(State.boundary_windowReaches makes ends canonical).groups g]
    refine State.settledAt_group idle ends (canonical.boundary c).stores (fun n unstored => ?_) _ g
    rw [State.boundary_windowKept makes ends canonical.stores unstored, State.defectNext_of_none idle ends.1]
  · by_cases ends : s.endsWindow
    · exact State.boundary_windowReaches makes ends canonical
    · exact State.boundary_timersReach makes idle ends canonical

end Sys2Proof.Machine
end

section
/-! SUPPORT. The commands as a whole and the status word (R159, R161, R162, R164): every command that the pins can deliver
completes, start-up answers all but three catalogue commands with STARTING, and what the status word's bits are. -/

namespace Sys2Proof.Machine

/-! ### Every deliverable command completes (log entry 20) -/

/-- An answer that is a next state. -/
def Completes (a : Answer) : Prop := ∃ t, a = .next t

theorem Completes.next (t : State) : Completes (.next t) := ⟨t, rfl⟩

theorem Completes.ite {p : Prop} [Decidable p] {a b : Answer} (ha : Completes a) (hb : Completes b) :
    Completes (if p then a else b) := by
  split
  · exact ha
  · exact hb

/-- The take of a command completes, whether or not the command waits (R158). -/
theorem takeCommand_completes (code : Byte) (d : Bool) (x : Link) (judge : List Byte → State → Judged) (s : State) :
    Completes (takeCommand code d x judge s) := by
  unfold takeCommand
  split
  · exact .next _
  · exact .ite (.next _) (.next _)

theorem clearCompletion_completes (s : State) : Completes (execClearCompletion s) := by
  unfold execClearCompletion
  split <;> exact .next _

theorem copyCompletion_completes (s : State) : Completes (execCopyCompletion s) := by
  unfold execCopyCompletion
  split <;> exact .next _

theorem verifyCompletion_completes (s : State) : Completes (execVerifyCompletion s) := by
  unfold execVerifyCompletion
  split <;> exact .next _

theorem activationCheckEnd_completes (s : State) : Completes (execActivationCheckEnd s) := by
  unfold execActivationCheckEnd
  split
  · split <;> exact .next _
  · exact .next _

theorem pageWriteCompletion_completes (s : State) : Completes (execPageWriteCompletion s) := by
  unfold execPageWriteCompletion
  split
  · exact .next _
  · split
    · exact .ite (.next _) (.ite (.next _) (.next _))
    · exact .next _

theorem pageReadCompletion_completes {r : PageRead} (wf : r.wellFormed = true) (s : State) :
    Completes (execPageReadCompletion r s) := by
  simp only [execPageReadCompletion, wf, Bool.not_true, Bool.false_eq_true, if_false]
  split
  · exact .next _
  · split <;> exact .next _

theorem resetLine_completes (a b : Bool) (s : State) : Completes (execResetLine a b s) := by
  unfold execResetLine
  dsimp only
  split <;> exact .next _

/-- Every command that the pins can deliver completes, from every state. -/
theorem exec_completes {c : Instr} (wf : c.wellFormed = true) (s : State) : Completes (exec c s) := by
  cases c with
  | resetLine a b => exact resetLine_completes a b s
  | signalAbsent l => exact .ite (.next _) (.next _)
  | signalPresent l => exact .ite (.next _) (.next _)
  | alignmentFind l p w => exact .ite (.next _) (.next _)
  | confirmWord l w => exact .ite (.ite (.ite (.next _) (.next _)) (.next _)) (.next _)
  | lockedWord l w => exact .ite (.ite (.next _) (.ite (.next _) (.next _))) (.next _)
  | ingressArrival l slots =>
    have arrives : wellFormedFrame l slots = true := wf
    change Completes (execIngressArrival l slots s)
    simp only [execIngressArrival, arrives, Bool.not_true, Bool.false_eq_true, if_false]
    exact .ite (.next _) (.next _)
  | frameMark m => exact .ite (.ite (.next _) (.ite (.next _) (.next _))) (.next _)
  | referenceLost => exact .next _
  | oscillatorBoundary => exact .next _
  | regainGap => exact .ite (.next _) (.next _)
  | secondRollover c => exact .ite (.next _) (.next _)
  | windowEnd c => exact .ite (.next _) (.next _)
  | holdOffExpiry g side c => exact .ite (.next _) (.next _)
  | restoreWaitExpiry g c => exact .ite (.next _) (.next _)
  | alertDelayExpiry x c => exact .ite (.next _) (.next _)
  | adoption c => exact .ite (.next _) (.next _)
  | clearCompletion => exact clearCompletion_completes s
  | copyCompletion => exact copyCompletion_completes s
  | verifyCompletion => exact verifyCompletion_completes s
  | activationCheckEnd => exact activationCheckEnd_completes s
  | pageReadCompletion r => exact pageReadCompletion_completes wf s
  | pageWriteCompletion => exact pageWriteCompletion_completes s
  | frameArrival x p => exact .next _
  | readTransfer x p => exact .next _
  | skippedTransfer x p =>
    have delivered : p.wellFormed = true := wf
    change Completes (execSkippedTransfer x p s)
    simp only [execSkippedTransfer, delivered, Bool.not_true, Bool.false_eq_true, if_false]
    exact .next _
  | readStatus x | setParameters x | linkReset x | subscribe x | setAlert x | readNotices x | setTime x | readTime x
  | readLines x | writeEntry x | writeProfile x | writeGroup x | readEntries x | readProfiles x | readGroups x
  | clearBank x | copyBank x | verifyBank x | activateBank x | pushRequest x | withdrawRequest x | withdrawAll x
  | readGroupState x | readStamp x | setStampLock x | readSource x | setWatch x | readLatches x | ackLatch x
  | setPattern x | ackPattern x | saveImage x | loadImage x | verifyImage x => exact takeCommand_completes _ _ _ _ _

/-- Only three commands carry operands that no pin can deliver, and each refuses them. -/
theorem exec_illFormed {c : Instr} (ill : c.wellFormed = false) (s : State) : exec c s = .refused .illFormed := by
  cases c with
  | ingressArrival l slots => exact if_pos (by rw [show wellFormedFrame l slots = false from ill]; rfl)
  | pageReadCompletion r => exact if_pos (by rw [show r.wellFormed = false from ill]; rfl)
  | skippedTransfer x p => exact if_pos (by rw [show p.wellFormed = false from ill]; rfl)
  | _ => cases ill

/-- Settles O2: `exec_completes` by the command, `exec_illFormed` for the operands that no pin can deliver. -/
theorem everyDeliverableCommandCompletes : Obligations.EveryDeliverableCommandCompletes :=
  fun _ s => ⟨fun wf => exec_completes wf s, fun ill => exec_illFormed ill s⟩

/-! ### Start-up (R159) and LINK RESET (R164) -/

/-- Each command of the list is the take of its code by a block that does not answer before start-up has finished. -/
theorem startingCommands_take (x : Link) : ∀ row ∈ startingCommands x, ∃ judge,
    exec row.2 = takeCommand row.1 false x judge := by
  simp only [startingCommands, List.forall_mem_cons, List.not_mem_nil, false_imp_iff, implies_true, and_true]
  and_intros <;> exact ⟨_, rfl⟩

/-- Settles O3: the take of each command of the list (`startingCommands_take`) answers STARTING. -/
theorem startingAnswersTheOtherCommands : Obligations.StartingAnswersTheOtherCommands := by
  intro x s args code c row waits starting
  obtain ⟨judge, take⟩ := startingCommands_take x _ row
  exact (congrFun take s).trans (takeCommand_starting waits starting)

/-- Settles O7: LINK RESET is executed on its own link's record, and the take answers there. -/
theorem linkResetClearsItsOwnLink : Obligations.LinkResetClearsItsOwnLink := by
  intro x s waits finished
  refine (takeCommand_executed waits (.inl finished) rfl).trans ?_
  unfold State.answered
  rw [State.setLink_link_self, State.setLink_setLink]
  rfl

/-! ### The status word (R162) -/

theorem statusBit_eq (b : Bool) (place : Nat) : statusBit b place = b.toNat * 2 ^ place := by
  cases b <;> simp [statusBit]

theorem getLsbD_eq_of_digit {n : Nat} {w : BitVec n} {place : Nat} {b : Bool}
    (digit : w.toNat / 2 ^ place % 2 = b.toNat) : w.getLsbD place = b := by
  rw [← BitVec.testBit_toNat, Nat.testBit_eq_decide_div_mod_eq, digit]
  cases b <;> rfl

theorem StartOutcome.code_lt (o : StartOutcome) : o.code < 4 := by cases o <;> decide

theorem bankCode_lt (b : Option BankNo) : bankCode b < 4 := by
  cases b with
  | none => decide
  | some b => exact Nat.lt_succ_of_lt b.isLt

/-- The fields of the status word, each at its weight. -/
def State.statusFields (s : State) (x : Link) : Nat :=
  s.mapEngine.isNone.toNat * 32768 + s.image.op.isNone.toNat * 16384 + s.image.finished.toNat * 8192
    + s.image.outcome.elim 0 StartOutcome.code * 2048 + bankCode s.active * 512 + s.time.refPresent.toNat * 256
    + (!(s.link x).queue.isEmpty).toNat * 128 + (s.link x).lost.toNat * 64 + (s.link x).alert.toNat * 32
    + (s.link x).overrun.toNat * 16

theorem State.statusWord_eq (s : State) (x : Link) : s.statusWord x = BitVec.ofNat 16 (s.statusFields x) := by
  unfold State.statusWord
  simp only [statusBit_eq]
  cases h : s.image.outcome <;> simp only [State.statusFields, h] <;> rfl

/-- No field of the status word reaches into the next one: `w` holds each of them as its digits. -/
theorem State.statusWord_fields (s : State) (x : Link) {w : Half} (h : s.statusWord x = w) :
    (w.toNat / 2 ^ 15 % 2 = s.mapEngine.isNone.toNat ∧ w.toNat / 2 ^ 14 % 2 = s.image.op.isNone.toNat
      ∧ w.toNat / 2 ^ 13 % 2 = s.image.finished.toNat)
    ∧ w.toNat / 2048 % 4 = s.image.outcome.elim 0 StartOutcome.code ∧ w.toNat / 512 % 4 = bankCode s.active
    ∧ (w.toNat / 2 ^ 8 % 2 = s.time.refPresent.toNat ∧ w.toNat / 2 ^ 7 % 2 = (!(s.link x).queue.isEmpty).toNat
      ∧ w.toNat / 2 ^ 6 % 2 = (s.link x).lost.toNat ∧ w.toNat / 2 ^ 5 % 2 = (s.link x).alert.toNat
      ∧ w.toNat / 2 ^ 4 % 2 = (s.link x).overrun.toNat ∧ w.toNat % 16 = 0) := by
  have started : s.image.outcome.elim 0 StartOutcome.code < 4 := by
    cases s.image.outcome with
    | none => decide
    | some o => exact o.code_lt
  have active := bankCode_lt s.active
  have := s.mapEngine.isNone.toNat_le
  have := s.image.op.isNone.toNat_le
  have := s.image.finished.toNat_le
  have := s.time.refPresent.toNat_le
  have := (!(s.link x).queue.isEmpty).toNat_le
  have := (s.link x).lost.toNat_le
  have := (s.link x).alert.toNat_le
  have := (s.link x).overrun.toNat_le
  have word : w.toNat = s.statusFields x := by
    rw [← h, State.statusWord_eq, BitVec.toNat_ofNat]
    unfold State.statusFields
    omega
  rw [word]
  unfold State.statusFields
  omega

/-- Settles O41: the digits of the word are its fields (`State.statusWord_fields`). -/
theorem statusWordReportsTheDevice : Obligations.StatusWordReportsTheDevice := by
  intro x s
  obtain ⟨⟨ready, idle, finished⟩, outcome, active, reference, queue, lost, alert, overrun, rest⟩ :=
    s.statusWord_fields x rfl
  refine ⟨getLsbD_eq_of_digit ready, getLsbD_eq_of_digit idle, getLsbD_eq_of_digit finished, outcome.trans ?_,
    active.trans ?_, getLsbD_eq_of_digit reference, getLsbD_eq_of_digit queue, getLsbD_eq_of_digit lost,
    getLsbD_eq_of_digit alert, getLsbD_eq_of_digit overrun, rest⟩
  · rcases s.image.outcome with _ | _ | _ | _ | _ <;> rfl
  · cases s.active <;> rfl

end Sys2Proof.Machine
end

section
/-! SUPPORT. Transfers on a link (R156 to R158, R160, R166): a write transfer in parts and as a whole and the frame that
arrives at its end, the bytes of a read transfer one by one, and skipped transfers. -/

namespace Sys2Proof.Machine

/-! ### Write transfers (R156) -/

/-- Of bytes stored up to a bound in two parts, those are kept that are kept of them as one. -/
theorem take_append_take (k : Nat) (u v : List Byte) : (u.take k ++ v).take k = (u ++ v).take k := by
  rw [List.take_append, List.take_append, List.take_take, List.length_take]
  congr 2
  all_goals omega

/-- Bytes received in two parts leave what they leave as one (R156). -/
theorem LinkState.writeBytes_append (l : LinkState) (u v : List Byte) :
    (l.writeBytes u).writeBytes v = l.writeBytes (u ++ v) := by
  cases h : l.decoder with
  | quiet =>
    simp only [LinkState.writeBytes, h, LinkState.sendZeros, LinkState.transferBegins, List.append_assoc, take_append_take,
      List.length_append, List.replicate_append_replicate]
  | writing =>
    simp only [LinkState.writeBytes, h, LinkState.sendZeros, List.append_assoc, take_append_take,
      List.length_append, List.replicate_append_replicate, Nat.add_assoc]
  | reading | skipping => simp only [LinkState.writeBytes, h]

/-- A whole write transfer on a QUIET decoder: the frame arrives, and the part has sent 00h throughout (R156, R157). -/
theorem LinkState.writeEnds_writeBytes {l : LinkState} (quiet : l.decoder = .quiet) (bytes : List Byte) :
    (l.writeBytes bytes).writeEnds = LinkState.frameArrives (bytes.take 255) bytes.length
      { l with frameBuf := [], frameLen := 0, sent := List.replicate (1 + bytes.length) 0x00#8 } := by
  simp only [LinkState.writeBytes, LinkState.writeEnds, quiet, LinkState.sendZeros, LinkState.transferBegins,
    List.replicate_add]
  rfl

/-! ### The arrival of a frame (R157, R158) -/

theorem getD_take {bytes : List Byte} {i k : Nat} (h : i < k) (d : Byte) : (bytes.take k).getD i d = bytes.getD i d := by
  simp only [List.getD_eq_getElem?_getD, List.getElem?_take_of_lt h]

/-- R157: the checks that a frame passes. -/
def FrameSound (bytes : List Byte) : Prop :=
  3 ≤ bytes.length ∧ (bytes.getD 1 0x00#8).toNat ≤ 250 ∧ bytes.length = (bytes.getD 1 0x00#8).toNat + 3
    ∧ (bytes.map BitVec.toNat).sum % 256 = 0

theorem byteSum_eq_zero (bytes : List Byte) : byteSum bytes = 0 ↔ (bytes.map BitVec.toNat).sum % 256 = 0 := by
  rw [byteSum_eq, ← BitVec.toNat_inj, BitVec.toNat_ofNat]
  rfl

/-- The frame check sees the first 255 bytes of a transfer and their number: a longer frame fails it (R157). -/
theorem frameGood_iff (bytes : List Byte) : frameGood (bytes.take 255) bytes.length = true ↔ FrameSound bytes := by
  have second := getD_take (bytes := bytes) (show 1 < 255 by omega) 0x00#8
  simp only [frameGood, FrameSound, Bool.and_eq_true, decide_eq_true_eq, beq_iff_eq, byteSum_eq_zero, and_assoc]
  change _ ∧ (List.getD _ 1 0x00#8).toNat ≤ 250 ∧ _ = (List.getD _ 1 0x00#8).toNat + 3 ∧ _ ↔ _
  rw [second]
  refine and_congr_right fun _ => and_congr_right fun short => and_congr_right fun whole => ?_
  rw [List.take_of_length_le (by omega)]

theorem LinkState.frameArrives_overrun {l : LinkState} (waits : l.untaken ≠ none) (bytes : List Byte) (n : Nat) :
    l.frameArrives bytes n = { l with overrun := true } :=
  if_pos (Option.isSome_iff_ne_none.mpr waits)

section Taken
variable {l : LinkState} {bytes : List Byte} (taken : l.untaken = none)
include taken

theorem LinkState.frameArrives_bad (bad : ¬FrameSound bytes) : l.frameArrives (bytes.take 255) bytes.length
    = { l with response := ⟨bytes.getD 0 0x00#8, .frameError, false, []⟩ } := by
  rw [← frameGood_iff] at bad
  rw [← getD_take (show 0 < 255 by omega) 0x00#8]
  simp only [LinkState.frameArrives, taken, bad]
  rfl

theorem LinkState.frameArrives_sound (sound : FrameSound bytes) : l.frameArrives (bytes.take 255) bytes.length
    = l.acceptFrame (bytes.getD 0 0x00#8) ((bytes.drop 2).take (bytes.getD 1 0x00#8).toNat) := by
  obtain ⟨-, short, whole, -⟩ := id sound
  have args : bytes.length - 3 = (bytes.getD 1 0x00#8).toNat := by omega
  rw [← frameGood_iff] at sound
  simp only [LinkState.frameArrives, taken, sound]
  rw [List.take_of_length_le (show bytes.length ≤ 255 by omega), args]
  rfl

end Taken

/-- Settles O39: a whole transfer is the arrival of its frame (`LinkState.writeEnds_writeBytes`), and parts are received as one
(`LinkState.writeBytes_append`). -/
theorem frameArrivalIsCheckedAndAccepted : Obligations.FrameArrivalIsCheckedAndAccepted := by
  intro x s bytes quiet l code n good
  have whole : exec (.frameArrival x (.whole bytes)) s
      = .next (s.setLink x (l.frameArrives (bytes.take 255) bytes.length)) := by
    rw [← LinkState.writeEnds_writeBytes quiet]
    exact congrArg (fun m => Host.Outcome.next (s.setLink x m)) (if_pos quiet)
  refine ⟨fun waits => ?_, fun taken bad => ?_, fun taken sound unknown => ?_, fun taken sound known => ?_,
    fun u v parts => ?_⟩
  · rw [whole, LinkState.frameArrives_overrun waits]
  · rw [whole, LinkState.frameArrives_bad taken bad]
  · rw [whole, LinkState.frameArrives_sound taken sound, LinkState.acceptFrame, if_neg unknown, ← taken]
  · rw [whole, LinkState.frameArrives_sound taken sound, LinkState.acceptFrame, if_pos known]
  · refine ⟨_, _, rfl, rfl, _, rfl, ?_⟩
    simp only [State.setLink_link_self, State.setLink_setLink, LinkState.writeBytes_append, ← parts,
      LinkState.writeEnds_writeBytes quiet]
    exact whole

/-! ### Read transfers (R160) -/

/-- R160: the byte of a read transfer after so many others, its first 00h not counted: items 1 to 4, the status word, the
check byte, and status words without end. -/
def readByte (items : List Byte) (word : Half) (p : Nat) : Byte :=
  if p < items.length then items.getD p 0
  else if p = items.length + 2 then 0 - byteSum (items ++ byte2 word.toNat)
  else if p = items.length ∨ (items.length + 2 < p ∧ (p - items.length) % 2 = 1) then BitVec.ofNat 8 (word.toNat / 256)
  else BitVec.ofNat 8 word.toNat

/-- The bytes of a read transfer as one list: items 1 to 4, a status word, the check byte and `n` status words. -/
def readStream (items : List Byte) (word : Half) (n : Nat) : List Byte :=
  (items ++ byte2 word.toNat ++ [0 - byteSum (items ++ byte2 word.toNat)]) ++ (List.replicate n (byte2 word.toNat)).flatten

theorem getElem?_flatten_replicate_pair {α : Type} (a b : α) (n i : Nat) (h : i < 2 * n) :
    (List.replicate n [a, b]).flatten[i]? = some (if i % 2 = 0 then a else b) := by
  induction n generalizing i with
  | zero => omega
  | succ n ih =>
    match i with
    | 0 => rfl
    | 1 => rfl
    | i + 2 =>
      rw [Nat.add_mod_right, ← ih i (by omega)]
      rfl

theorem readStream_getElem? (items : List Byte) (word : Half) {n i : Nat} (h : i < items.length + 3 + 2 * n) :
    (readStream items word n)[i]? = some (readByte items word i) := by
  have pair : byte2 word.toNat = [BitVec.ofNat 8 (word.toNat / 256), BitVec.ofNat 8 word.toNat] := rfl
  unfold readStream readByte
  by_cases item : i < items.length
  · rw [if_pos item, List.append_assoc, List.append_assoc, List.getElem?_append_left item]
    simp [item]
  · obtain ⟨j, rfl⟩ := Nat.exists_eq_add_of_le (Nat.le_of_not_lt item)
    rw [if_neg item, List.append_assoc, List.append_assoc, List.getElem?_append_right (by omega), Nat.add_sub_cancel_left]
    match j with
    | 0 => simp [pair]
    | 1 => simp [pair]
    | 2 => simp [pair]
    | j + 3 =>
      rw [if_neg (by omega)]
      change (List.replicate n (byte2 word.toNat)).flatten[j]? = _
      rw [pair, getElem?_flatten_replicate_pair _ _ _ _ (by omega)]
      refine congrArg some (if_congr ?_ rfl rfl)
      omega

theorem take_eq_map_range {α : Type} {l : List α} {f : Nat → α} {n : Nat} (h : ∀ i, i < n → l[i]? = some (f i)) :
    l.take n = (List.range n).map f := by
  refine List.ext_getElem? fun i => ?_
  by_cases hi : i < n
  · simp [List.getElem?_take_of_lt hi, h i hi, List.getElem?_range hi]
  · simp [hi]

theorem readStream_take (items : List Byte) (word : Half) (n : Nat) :
    (readStream items word n).take n = (List.range n).map (readByte items word) :=
  take_eq_map_range fun _ h => readStream_getElem? items word (by omega)

/-- What stands before the check byte: items 1 to 4 and the status word (R160). -/
theorem map_readByte_before_check (items : List Byte) (word : Half) :
    (List.range (items.length + 2)).map (readByte items word) = items ++ byte2 word.toNat := by
  rw [← take_eq_map_range fun i h => readStream_getElem? items word (n := 0) (by omega), readStream, List.append_assoc]
  exact List.take_left' (by simp [byte2])

theorem LinkState.sendBytes_succ (word : Half) (n : Nat) (l : LinkState) :
    l.sendBytes word (n + 1) = (l.sendBytes word n).sendByte word := by
  induction n generalizing l with
  | zero => rfl
  | succ n ih => exact ih (l.sendByte word)

theorem Response.items_length (r : Response) : r.items.length = r.result.length + 3 := by
  rw [Response.items, List.length_append, Nat.add_comm]; rfl

theorem byteSum_cons_zero (l : List Byte) : byteSum (0 :: l) = byteSum l := by
  simp [byteSum]

/-- The link after `n` bytes of a read transfer. -/
def LinkState.reading (word : Half) (n : Nat) (l : LinkState) : LinkState :=
  { l with
    sent := 0 :: (List.range n).map (readByte l.response.items word)
    readItems := if n = 0 then none else some l.response.items
    statusOut := if l.response.items.length < n then word else l.statusOut }

theorem LinkState.reading_succ (word : Half) (n : Nat) (l : LinkState) : l.reading word (n + 1)
    = { l.reading word n with
        sent := (l.reading word n).sent ++ [readByte l.response.items word n]
        readItems := some l.response.items
        statusOut := if n = l.response.items.length then word else (l.reading word n).statusOut } := by
  have status : (if l.response.items.length < n + 1 then word else l.statusOut)
      = if n = l.response.items.length then word else if l.response.items.length < n then word else l.statusOut := by
    by_cases begins : n = l.response.items.length
    · rw [if_pos begins, if_pos (by omega)]
    · rw [if_neg begins]
      exact if_congr (by omega) rfl rfl
  simp only [LinkState.reading, List.range_succ, List.map_append, status]
  rfl

theorem LinkState.reading_readItems {word : Half} {n : Nat} {l : LinkState} (h : l.response.items.length ≤ n) :
    (l.reading word n).readItems = some l.response.items :=
  if_neg (by have := l.response.items_length; omega)

theorem LinkState.reading_statusOut {word : Half} {n : Nat} {l : LinkState} (h : l.response.items.length < n) :
    (l.reading word n).statusOut = word := if_pos h

/-- Before the check byte a read transfer has sent 00h, items 1 to 4 and the status word. -/
theorem LinkState.reading_sum (word : Half) (l : LinkState) :
    byteSum (l.reading word (l.response.items.length + 2)).sent = byteSum (l.response.items ++ byte2 word.toNat) := by
  rw [← map_readByte_before_check, ← byteSum_cons_zero]
  rfl

/-- The next byte of a read transfer, by what it belongs to (R160). -/
theorem LinkState.sendByte_reading (word : Half) (n : Nat) (l : LinkState) :
    (l.reading word n).sendByte word = l.reading word (n + 1) := by
  have fixed : (l.reading word n).readItems.getD l.response.items = l.response.items := by
    unfold LinkState.reading
    split <;> rfl
  have place : (l.reading word n).sent.length - 1 = n := by simp [LinkState.reading]
  rw [LinkState.reading_succ]
  unfold LinkState.sendByte readByte
  rw [show (l.reading word n).response = l.response from rfl, fixed, place]
  dsimp only
  by_cases item : n < l.response.items.length
  · rw [if_pos item, if_pos item, if_neg (Nat.ne_of_lt item)]
    rfl
  · have after := Nat.le_of_not_lt item
    rw [if_neg item, if_neg item, ← LinkState.reading_readItems (word := word) after]
    by_cases check : n = l.response.items.length + 2
    · subst check
      rw [if_pos rfl, if_pos rfl, if_neg (by omega), LinkState.reading_sum]
      rfl
    · rw [if_neg check, if_neg check]
      by_cases high : n = l.response.items.length
          ∨ (l.response.items.length + 2 < n ∧ (n - l.response.items.length) % 2 = 1)
      · have computed : (if n = l.response.items.length then word else (l.reading word n).statusOut) = word := by
          split
          · rfl
          · exact LinkState.reading_statusOut (by omega)
        rw [if_pos high, if_pos high, computed]
        rfl
      · rw [if_neg high, if_neg high, if_neg (by omega), LinkState.reading_statusOut (by omega)]
        rfl

theorem LinkState.sendBytes_eq (word : Half) (n : Nat) {l : LinkState} (begun : l.sent = [0]) (items : l.readItems = none) :
    l.sendBytes word n = l.reading word n := by
  induction n with
  | zero =>
    cases l
    cases begun
    cases items
    rfl
  | succ n ih => rw [LinkState.sendBytes_succ, ih, LinkState.sendByte_reading]

/-- The check byte makes the bytes of items 1 to 4 and the status word sum to 0 with it (R160). -/
theorem checkByte_eq (bytes : List Byte) :
    0 - byteSum bytes = BitVec.ofNat 8 (256 - (bytes.map BitVec.toNat).sum % 256) := by
  rw [byteSum_eq]
  apply BitVec.eq_of_toNat_eq
  have zero : (0 : Byte).toNat = 0 := rfl
  simp only [BitVec.toNat_sub, BitVec.toNat_ofNat, zero]
  omega

/-- A whole read transfer on a QUIET decoder (R156, R160). -/
theorem LinkState.readEnds_sendBytes {l : LinkState} (quiet : l.decoder = .quiet) (word : Half) (n : Nat) :
    (l.readBegins.sendBytes word n).readEnds = { l with
      sent := [0x00#8] ++ (readStream l.response.items word n).take n
      statusOut := if l.response.items.length < n then word else l.statusOut
      readItems := none } := by
  have begun : l.readBegins = { l.transferBegins .reading with readItems := none } := by
    simp only [LinkState.readBegins, quiet]
  rw [begun, LinkState.sendBytes_eq word n rfl rfl, readStream_take]
  cases l
  cases quiet
  rfl

/-! ### Skipped transfers (R156, R166) -/

theorem exec_skippedTransfer {p : SkipPart} (wf : p.wellFormed = true) (x : Link) (s : State) :
    exec (.skippedTransfer x p) s = .next (s.setLink x (match p with
      | .start _ => (s.link x).skipBegins
      | .shift n => (s.link x).skipBytes n
      | .rise => (s.link x).skipEnds
      | .whole _ n =>
        if (s.link x).decoder = .quiet then ((s.link x).skipBegins.skipBytes n).skipEnds else s.link x)) := by
  refine (if_neg ?_).trans ?_
  · simp [wf]
  · cases p <;> rfl

section Skipped
variable {l : LinkState} (quiet : l.decoder = .quiet)
include quiet

theorem LinkState.skipBegins_quiet :
    l.skipBegins = { l with decoder := .skipping, sent := List.replicate 1 0x00#8 } := by
  simp only [LinkState.skipBegins, quiet]
  rfl

theorem LinkState.skipEnds_skipping (sent : List Byte) :
    LinkState.skipEnds { l with decoder := .skipping, sent := sent } = { l with sent := sent } := by
  cases l
  cases quiet
  rfl

end Skipped

theorem LinkState.skipBytes_skipping (l : LinkState) (k n : Nat) :
    LinkState.skipBytes n { l with decoder := .skipping, sent := List.replicate k 0x00#8 }
      = { l with decoder := .skipping, sent := List.replicate (k + n) 0x00#8 } := by
  rw [List.replicate_add]
  rfl

/-- Settles O40: the bytes of a read transfer are those of `readByte` one by one (`LinkState.sendByte_reading`); a skipped
transfer is its three parts in turn. -/
theorem readAndSkippedTransfers : Obligations.ReadAndSkippedTransfers := by
  intro x s n quiet
  refine ⟨?_, fun first notWrite notRead => ?_⟩
  · rw [← checkByte_eq]
    refine congrArg (fun m => Host.Outcome.next (s.setLink x m)) ((if_pos quiet).trans ?_)
    exact LinkState.readEnds_sendBytes quiet _ _
  · have opens : (SkipPart.start first).wellFormed = true := by simp [SkipPart.wellFormed, notWrite, notRead]
    refine ⟨?_, ?_, ?_, ?_⟩
    · rw [exec_skippedTransfer opens]
      dsimp only
      rw [LinkState.skipBegins_quiet quiet]
    · rw [exec_skippedTransfer rfl]
      dsimp only
      rw [State.setLink_link_self, State.setLink_setLink, LinkState.skipBytes_skipping]
    · rw [exec_skippedTransfer rfl]
      dsimp only
      rw [State.setLink_link_self, State.setLink_setLink, LinkState.skipEnds_skipping quiet]
    · rw [exec_skippedTransfer (p := .whole first n) opens]
      dsimp only
      rw [if_pos quiet, LinkState.skipBegins_quiet quiet, LinkState.skipBytes_skipping, LinkState.skipEnds_skipping quiet]

end Sys2Proof.Machine
end
